-- ==== Sys2Proof/Word.lean ====
section
/-! DEFINITION. Word.lean: the word types of the ZQ-256 (R3, R62, R92) and nothing that a reading of the spec could change. -/

namespace Sys2Proof

/-- A byte of any memory. -/
abbrev Byte := BitVec 8
/-- A lane value (R92). -/
abbrev W32 := BitVec 32
/-- A scalar register value (R62). -/
abbrev W64 := BitVec 64
/-- A base register value, 80 bits (R62). -/
abbrev W80 := BitVec 80
/-- An occupancy map: one bit a lane, lane 0 lowest; a strand has at most 1,024 lanes (R15, R61). -/
abbrev LaneMap := BitVec 1024

end Sys2Proof
end

