-- ==== Sys2Proof/Syntax.lean ====
section
/-! DEFINITION. Syntax.lean: one constructor for each row of the operation table: the instructions a strand issues, with their operands (R40 to R51), and the events of the other agents, with what the outside chooses. -/

namespace Sys2Proof

/-- A 7-bit vector code: 0-119 names V, 120-123 names Q (R45). -/
abbrev VCode := BitVec 7
/-- A 7-bit map code: 0-95 (R46). -/
abbrev MCode := BitVec 7
/-- A scalar code, S0-S63 (R47). -/
abbrev SCode := BitVec 6
/-- A base register number, B0-B15 (R47). -/
abbrev BCode := BitVec 4

/-- The marks S and E that every instruction carries (R41). -/
structure Marks where
  /-- switch marker -/
  s : Bool
  /-- run end -/
  e : Bool
deriving DecidableEq, Repr

/-- Element types (R48). -/
inductive Ty | b32 | s32 | n32 | f32 | bf16 | f16 | s16 | n16 | s8 | n8 | s64 | n64 | bpn
deriving DecidableEq, Repr

/-- Scopes (R49, R187). -/
inductive Scope | strand | frame | die | device | system
deriving DecidableEq, Repr

/-- Near spaces (R49). -/
inductive Space | spad | spadp | vault
deriving DecidableEq, Repr

/-- Orderings (R49). -/
inductive Ordn | rlx | acq | rel | ar
deriving DecidableEq, Repr

/-- Conditions of BRA (R151). -/
inductive BraCond | always | z (s : SCode) | nz (s : SCode) | none (p : MCode) | any (p : MCode)
deriving DecidableEq, Repr

/-- Conditions of CMP (R98). -/
inductive ICond | eq | ne | lt | le | gt | ge
deriving DecidableEq, Repr

/-- Conditions of FCMP (R129). -/
inductive FCond | eq | ne | lt | le | gt | ge | un | ord
deriving DecidableEq, Repr

/-- Conditions of SCMP (R111). -/
inductive SCond | eq | ne | lt | le | gt | ge | ltu | leu | gtu | geu
deriving DecidableEq, Repr

/-- Source types of CVT: a type, or an order-key conversion (R101). -/
inductive CvtSrc | b32 | s32 | n32 | f32 | bf16 | f16 | s16 | n16 | s8 | n8 | s64 | n64 | f32ord | bf16ord
deriving DecidableEq, Repr

/-- Variants of SHFL (R104). -/
inductive ShflKind | idx (z : VCode) | up (n : BitVec 10) | down (n : BitVec 10) | xor (n : BitVec 10)
deriving DecidableEq, Repr

/-- Variants of RED (R105). -/
inductive RedOp | add | min | max | and | or | xor | fadd | fmin | fmax
deriving DecidableEq, Repr

/-- Variants of SCAN (R107). -/
inductive ScanOp | addi | addx | min | max
deriving DecidableEq, Repr

/-- Operand B of the scalar layout (R44, R110). -/
inductive SOpB | reg (r : SCode) | imm (v : BitVec 30)
deriving DecidableEq, Repr

/-- Variants of ATOM and ATOMS (R177). -/
inductive AtomOp | add | min | max | and | or | xor | xchg | cas | maxpk | minpk
deriving DecidableEq, Repr

/-- Forms of MEET (R171). -/
inductive MeetForm | arr | wait | aw
deriving DecidableEq, Repr

/-- Sizes of CPY (R242). -/
inductive CpySize | b4 | b8 | b16
deriving DecidableEq, Repr

/-- Destination of CPY (R242): near base and lane-offset register; far base, scalar and lane-offset register; queue. -/
inductive CpyDst
  | near (sp : Space) (b : SCode) (x : VCode)
  | far (b : BCode) (s : SCode) (x : VCode)
  | queue (q : BitVec 2)
deriving DecidableEq, Repr

/-- Source of CPY (R242). -/
inductive CpySrc
  | near (sp : Space) (b : SCode)
  | far (b : BCode) (s : SCode)
deriving DecidableEq, Repr

/-- Source of CPGATHER (R248). -/
inductive GatherSrc
  | far (b : BCode) (s : SCode)
  | vault (b : SCode)
  | spad (b : SCode)
deriving DecidableEq, Repr

/-- Source of OVLD (R227). -/
inductive OvldSrc | far (b : BCode) | vault
deriving DecidableEq, Repr

/-- Special registers with their numbers in R113. -/
inductive SReg
  | strandid | frameid | framesize | laneext | spanw | coreid | clusterid | dieid | partid | launchid | vnear
  | arg (i : BitVec 4)
  | cycle | energy | disc | mapdrop | stray | runcut | cpbatch | mxbatch | batchstat
  | idem | handler | absvec | trapcode | trappc | status
  | partcfg | ebudget | prio | pegquota | shadowbase
  | chweight (i : BitVec 4)
deriving DecidableEq, Repr

/-- The faults that a fetched word raises before it is an instruction (R53 steps 1 to 7, R38, R224). -/
inductive FetchErr | illegalOpcode | illegalEncoding | illegalOperand | reservedField | slotEnd | codeReplaced
deriving DecidableEq, Repr

/-- The fields of an ERT entry that system software writes (R288). -/
structure ErtConfig where
  valid : Bool
  key : W32
  farb : W80
  t : BitVec 16
  spn : BitVec 2
  fpl : BitVec 4
  biasA : W32
  biasB : W32
deriving DecidableEq, Repr

/-- Registers of window A with no behaviour of their own (R359). -/
inductive WinReg
  | queueBase (q : Nat) | queueSz (q : Nat) | queueKok (q : Nat)
  | absentQbase | absentQsz | eventQbase | eventQsz
  | counter (i : Nat)
deriving DecidableEq, Repr

/-- The partition record that CREATE takes (R354). -/
structure PartRecord where
  clm : W32
  win : List Nat
  rv : Nat
  cbase : Nat
  ccnt : Nat
  ebase : Nat
  ecnt : Nat
  fasid : BitVec 16
  dq : Nat
  pbase : Nat
  fsz : Nat
  nfr : Nat
  rootdir : BitVec 48
  casid : BitVec 16
  hsbase : Nat
  shadowbase : Nat
  bkbase : Nat
  bklen : Nat
  kok : BitVec 8
  cxlsh : Nat
  tcmax : Nat
  c3sh : Nat
  brace : Bool
  ebud : W64
  chw : BitVec 1024
deriving DecidableEq, Repr

/-- What stage 1 finds (R366, R367): the failure code (0 none), the firmware security version, the minimum that the image demands, the vaults marked failed, the firmware runtime of slot 0, the bytes of the expansion table and of the firmware that quotes digest, and the lanes that each link trained with, by its number in `Config.linkLanes`. -/
structure StageResult where
  fail : BitVec 8
  version : BitVec 16
  minimum : BitVec 16
  failed : List Nat
  runtime : List Byte
  firmware : List Byte
  table : List Byte
  trained : List (Nat × Nat)
deriving DecidableEq, Repr

/-- One measured source shared by counts (R347): energy in units of 2^-32 microjoule, and a count for each partition; `none` stands for UNASSIGNED. -/
structure SharedSource where
  energy : Nat
  counts : List (Option Nat × Nat)
deriving DecidableEq, Repr

/-- What the device measures in one epoch (R347), in units of 2^-32 microjoule: the energy of each cluster, by its number; of each SRAM die, 4·die + s; of each link, by its number; and the base energy. The cycles, requests and bytes that divide them the device counts. -/
structure EpochMeasure where
  clusters : List Nat
  srams : List (Nat × Nat)
  links : List (Nat × Nat)
  base : Nat
deriving DecidableEq, Repr

/-- The three moments of a clock-source hop (R374). -/
inductive HopPhase | request | start | complete
deriving DecidableEq, Repr

/-- A unit that can meet an error (R372). -/
inductive HwUnit
  | lane (core lane : Nat) | spadBank (core bank : Nat) | accBank (core bank : Nat)
  | engine (core : Nat) | vaultRow (vault row : Nat) | linkLane (link lane : Nat)
  /-- a device-wide block (R345) -/
  | block
deriving DecidableEq, Repr

/-- An access of the host through its windows (R359, R360): a read of window A or B, a write of window B with its bytes. -/
inductive WinAcc
  | readA
  | readB
  | writeB (data : List Byte)
deriving DecidableEq, Repr

/-- A step of a SPAWN (R272): the strand, and which of the eight 16-byte pieces of its record are read. -/
structure SpawnPart where
  sid : Nat
  pieces : List Nat
deriving DecidableEq, Repr

/-- A step of a SORT (R246, R251): the issue number of the command, whether data read are in uncorrectable error, the pairs read. -/
structure SortEnd where
  ord : Nat
  poison : Bool
  pairs : List Nat
deriving DecidableEq, Repr

/-- A step of an overlay load (R228): the 16-byte chunks of the image that it reads, whether one of them is poisoned, the bytes that a peer answers with (none: the peer refused). -/
structure OvldPart where
  chunks : List Nat
  poison : Bool
  peer : Option (List Byte)
deriving DecidableEq, Repr

/-- A step of the matrix engine (R203): the strand, the 16-byte pieces of A and of B that the command at its channel's head reads. -/
structure MatrixPart where
  sid : Nat
  a : List Nat
  b : List Nat
deriving DecidableEq, Repr

/-- A step of an MST (R216): the strand, the 16-byte pieces of its W tile and of its A tile that it reads, the elements it sends. -/
structure MstPart where
  sid : Nat
  ws : List Nat
  as : List Nat
  n : Nat
deriving DecidableEq, Repr

/-- The end of a fill (R289, R291): the entry, the bytes that peers answered with (none: nothing, as where no page lies with a peer). -/
structure FillEnd where
  e : Nat
  peer : Option (List Byte)
deriving DecidableEq, Repr

/-- An access of a peer (R363, R364): the peer, its traffic class, the data of a write. -/
structure PeerAcc where
  peer : Nat
  cls : Nat
  data : Option (List Byte)
deriving DecidableEq, Repr

/-- A counter signal from a peer (R247, R331): the counter, the peer, the core ordinal and tag it carries as one number, whether the sender replays it. -/
structure PeerSignal where
  ctr : Nat
  peer : Nat
  tag : Nat
  replayed : Bool
deriving DecidableEq, Repr

/-- The operation table: the instructions first, then the events. -/
inductive Instr where
  /-- NOP (R154); bits [63:11] are hints (R52). -/
  | nop (k : Marks) (hint : BitVec 53)
  /-- IF (R144). -/
  | if_ (k : Marks) (p : MCode) (off : W32)
  /-- ELSE (R145). -/
  | else_ (k : Marks) (off : W32)
  /-- ENDIF (R146). -/
  | endif (k : Marks)
  /-- LOOP (R147). -/
  | loop (k : Marks) (off : W32)
  /-- BRK (R148). -/
  | brk (k : Marks) (y : MCode)
  /-- CONT (R148). -/
  | cont (k : Marks) (y : MCode)
  /-- ENDLOOP (R149). -/
  | endloop (k : Marks) (off : W32)
  /-- BRA (R151). -/
  | bra (k : Marks) (c : BraCond) (off : W32)
  /-- CALL (R152). -/
  | call (k : Marks) (off : W32)
  /-- OCALL (R230). -/
  | ocall (k : Marks) (sk : SCode) (off : W32)
  /-- RET (R152). -/
  | ret (k : Marks)
  /-- RETT (R152). -/
  | rett (k : Marks)
  /-- EXIT (R155). -/
  | exit (k : Marks)
  /-- TRAP (R153). -/
  | trap (k : Marks) (n : BitVec 10)
  /-- BKPT (R153). -/
  | bkpt (k : Marks) (n : BitVec 10)
  /-- SPAWN (R272). -/
  | spawn (k : Marks) (sp : Space) (y z : SCode) (q : BitVec 3) (imm : W32)
  /-- OPIN.pin (R232). -/
  | opinPin (k : Marks) (y : SCode) (j : BitVec 6)
  /-- OPIN.unpin (R232). -/
  | opinUnpin (k : Marks) (y : SCode) (j : BitVec 6)
  /-- OPIN.query (R232). -/
  | opinQuery (k : Marks) (x y : SCode) (j : BitVec 6)
  /-- PAND (R83). -/
  | pand (k : Marks) (x y z m : MCode)
  /-- POR (R83). -/
  | por (k : Marks) (x y z m : MCode)
  /-- PXOR (R83). -/
  | pxor (k : Marks) (x y z m : MCode)
  /-- PANDN (R83). -/
  | pandn (k : Marks) (x y z m : MCode)
  /-- PNOT (R83). -/
  | pnot (k : Marks) (x y m : MCode)
  /-- PMOV (R83). -/
  | pmov (k : Marks) (x y m : MCode)
  /-- PFIRST (R84). -/
  | pfirst (k : Marks) (x y : MCode) (z : SCode) (n : BitVec 10) (m : MCode)
  /-- PRANGE (R84). -/
  | prange (k : Marks) (x : MCode) (y z : SCode) (n : BitVec 10) (m : MCode)
  /-- PMAP (R85). -/
  | pmap (k : Marks) (x : MCode) (y : VCode) (m : MCode)
  /-- PCNT (R86). -/
  | pcnt (k : Marks) (x : SCode) (y m : MCode)
  /-- PFIND (R86). -/
  | pfind (k : Marks) (x : SCode) (y : MCode) (z : SCode) (n : BitVec 10) (m : MCode)
  /-- ELECT (R86). -/
  | elect (k : Marks) (x y m : MCode)
  /-- THIN (R87). -/
  | thin (k : Marks) (ty : Ty) (x y : VCode) (z m : MCode)
  /-- MERGE (R88). -/
  | merge (k : Marks) (ty : Ty) (x y z : VCode) (m : MCode)
  /-- PGET (R89). -/
  | pget (k : Marks) (x : SCode) (y : MCode) (z : SCode) (n : BitVec 10)
  /-- PPUT (R89). -/
  | pput (k : Marks) (x : MCode) (y z : SCode) (n : BitVec 10)
  /-- PSPAN (R90). -/
  | pspan (k : Marks) (x : SCode) (y m : MCode)
  /-- ADD (R95). -/
  | add (k : Marks) (ty : Ty) (sat : Bool) (x y z : VCode) (m : MCode)
  /-- SUB (R95). -/
  | sub (k : Marks) (ty : Ty) (sat : Bool) (x y z : VCode) (m : MCode)
  /-- MUL (R95). -/
  | mul (k : Marks) (ty : Ty) (sat : Bool) (x y z : VCode) (m : MCode)
  /-- MULH (R95). -/
  | mulh (k : Marks) (ty : Ty) (x y z : VCode) (m : MCode)
  /-- MAD (R95). -/
  | mad (k : Marks) (ty : Ty) (sat : Bool) (x y z w : VCode) (m : MCode)
  /-- MIN (R95). -/
  | min (k : Marks) (ty : Ty) (x y z : VCode) (m : MCode)
  /-- MAX (R95). -/
  | max (k : Marks) (ty : Ty) (x y z : VCode) (m : MCode)
  /-- NEG (R96). -/
  | neg (k : Marks) (ty : Ty) (sat : Bool) (x y : VCode) (m : MCode)
  /-- AND (R96). -/
  | and_ (k : Marks) (ty : Ty) (x y z : VCode) (m : MCode)
  /-- OR (R96). -/
  | or_ (k : Marks) (ty : Ty) (x y z : VCode) (m : MCode)
  /-- XOR (R96). -/
  | xor_ (k : Marks) (ty : Ty) (x y z : VCode) (m : MCode)
  /-- NOT (R96). -/
  | not_ (k : Marks) (ty : Ty) (x y : VCode) (m : MCode)
  /-- SHL (R96). -/
  | shl (k : Marks) (ty : Ty) (x y z : VCode) (m : MCode)
  /-- SHR (R96). -/
  | shr (k : Marks) (ty : Ty) (x y z : VCode) (m : MCode)
  /-- POPC (R96). -/
  | popc (k : Marks) (x y : VCode) (m : MCode)
  /-- CLZ (R96). -/
  | clz (k : Marks) (x y : VCode) (m : MCode)
  /-- BFX (R97). -/
  | bfx (k : Marks) (ty : Ty) (x y z : VCode) (m : MCode)
  /-- BFI (R97). -/
  | bfi (k : Marks) (x y z w : VCode) (m : MCode)
  /-- CMP (R98). -/
  | cmp (k : Marks) (ty : Ty) (cc : ICond) (x pe : MCode) (y z : VCode) (m : MCode)
  /-- SEL (R99). -/
  | sel (k : Marks) (ty : Ty) (x y z : VCode) (pc m : MCode)
  /-- MOVI (R100). -/
  | movi (k : Marks) (ty : Ty) (x : VCode) (m : MCode) (imm : W32)
  /-- MOV (R100). -/
  | mov (k : Marks) (ty : Ty) (x y : VCode) (m : MCode)
  /-- LANEID (R100). -/
  | laneid (k : Marks) (x : VCode) (m : MCode)
  /-- BCAST (R100). -/
  | bcast (k : Marks) (ty : Ty) (x : VCode) (y : SCode) (m : MCode)
  /-- CVT (R101, R102, R130, R131). -/
  | cvt (k : Marks) (src : CvtSrc) (ty : Ty) (x y : VCode) (m : MCode)
  /-- SHFL (R104). -/
  | shfl (k : Marks) (v : ShflKind) (x y : VCode) (m : MCode)
  /-- RED (R105, R132). -/
  | red (k : Marks) (op : RedOp) (ty : Ty) (x : SCode) (y : VCode) (m : MCode)
  /-- REDIDX (R106). -/
  | redidx (k : Marks) (mx : Bool) (ty : Ty) (x : SCode) (y : VCode) (m : MCode)
  /-- SCAN (R107). -/
  | scan (k : Marks) (op : ScanOp) (ty : Ty) (x y : VCode) (m : MCode)
  /-- RANK (R108). -/
  | rank (k : Marks) (ty : Ty) (x y : VCode) (m : MCode)
  /-- VGET (R109). -/
  | vget (k : Marks) (ty : Ty) (x : SCode) (y : VCode) (z : SCode) (n : BitVec 10) (m : MCode)
  /-- VPUT (R109). -/
  | vput (k : Marks) (ty : Ty) (x : VCode) (y z : SCode) (m : MCode) (imm : W32)
  /-- FADD (R126). -/
  | fadd (k : Marks) (ty : Ty) (x y z : VCode) (m : MCode)
  /-- FSUB (R126). -/
  | fsub (k : Marks) (ty : Ty) (x y z : VCode) (m : MCode)
  /-- FMUL (R126). -/
  | fmul (k : Marks) (ty : Ty) (x y z : VCode) (m : MCode)
  /-- FMA (R126). -/
  | fma (k : Marks) (ty : Ty) (x y z w : VCode) (m : MCode)
  /-- FMIN (R127). -/
  | fmin (k : Marks) (ty : Ty) (x y z : VCode) (m : MCode)
  /-- FMAX (R127). -/
  | fmax (k : Marks) (ty : Ty) (x y z : VCode) (m : MCode)
  /-- FNEG (R128). -/
  | fneg (k : Marks) (ty : Ty) (x y : VCode) (m : MCode)
  /-- FABS (R128). -/
  | fabs (k : Marks) (ty : Ty) (x y : VCode) (m : MCode)
  /-- FCOPYSIGN (R128). -/
  | fcopysign (k : Marks) (ty : Ty) (x y z : VCode) (m : MCode)
  /-- FCMP (R129). -/
  | fcmp (k : Marks) (ty : Ty) (cc : FCond) (x pe : MCode) (y z : VCode) (m : MCode)
  /-- FRCP (R126). -/
  | frcp (k : Marks) (ty : Ty) (x y : VCode) (m : MCode)
  /-- FRSQ (R126). -/
  | frsq (k : Marks) (ty : Ty) (x y : VCode) (m : MCode)
  /-- FSQRT (R126). -/
  | fsqrt (k : Marks) (ty : Ty) (x y : VCode) (m : MCode)
  /-- FEXP2 (R126). -/
  | fexp2 (k : Marks) (ty : Ty) (x y : VCode) (m : MCode)
  /-- FLOG2 (R126). -/
  | flog2 (k : Marks) (ty : Ty) (x y : VCode) (m : MCode)
  /-- FDIV (R126). -/
  | fdiv (k : Marks) (ty : Ty) (x y z : VCode) (m : MCode)
  /-- SADD (R111). -/
  | sadd (k : Marks) (d a : SCode) (b : SOpB)
  /-- SSUB (R111). -/
  | ssub (k : Marks) (d a : SCode) (b : SOpB)
  /-- SAND (R111). -/
  | sand (k : Marks) (d a : SCode) (b : SOpB)
  /-- SOR (R111). -/
  | sor (k : Marks) (d a : SCode) (b : SOpB)
  /-- SXOR (R111). -/
  | sxor (k : Marks) (d a : SCode) (b : SOpB)
  /-- SSHL (R111). -/
  | sshl (k : Marks) (d a : SCode) (b : SOpB)
  /-- SSHR (R111). -/
  | sshr (k : Marks) (d a : SCode) (b : SOpB)
  /-- SSAR (R111). -/
  | ssar (k : Marks) (d a : SCode) (b : SOpB)
  /-- SMIN (R111). -/
  | smin (k : Marks) (d a : SCode) (b : SOpB)
  /-- SMAX (R111). -/
  | smax (k : Marks) (d a : SCode) (b : SOpB)
  /-- SMUL (R111). -/
  | smul (k : Marks) (d a : SCode) (b : SOpB)
  /-- SCMP (R111). -/
  | scmp (k : Marks) (cc : SCond) (d a : SCode) (b : SOpB)
  /-- SLI (R111). -/
  | sli (k : Marks) (d : SCode) (imm : W64)
  /-- BSET (R111). -/
  | bset (k : Marks) (d : BCode) (a : SCode) (b : SOpB)
  /-- BADD (R111). -/
  | badd (k : Marks) (d a : BCode) (b : SOpB)
  /-- BGET (R111). -/
  | bget (k : Marks) (d : SCode) (a : BCode) (h : Bool)
  /-- MFS (R112). -/
  | mfs (k : Marks) (d : SCode) (n : SReg)
  /-- MTS (R112). -/
  | mts (k : Marks) (n : SReg) (a : SCode)
  /-- SETF (R121). -/
  | setf (k : Marks) (d a : SCode) (b : SOpB)
  /-- SETG (R210). -/
  | setg (k : Marks) (d : SCode) (b : SOpB)
  /-- LD (R173). -/
  | ld (k : Marks) (ty : Ty) (o : Ordn) (sc : Scope) (sp : Space) (x : VCode) (y : SCode) (z : VCode) (m : MCode) (imm : W32)
  /-- LDS (R173). -/
  | lds (k : Marks) (ty : Ty) (o : Ordn) (sc : Scope) (sp : Space) (x y : SCode) (imm : W32)
  /-- ST (R174). -/
  | st (k : Marks) (ty : Ty) (o : Ordn) (sc : Scope) (sp : Space) (x : VCode) (y : SCode) (z : VCode) (m : MCode) (imm : W32)
  /-- STS (R174). -/
  | sts (k : Marks) (ty : Ty) (o : Ordn) (sc : Scope) (sp : Space) (x y : SCode) (imm : W32)
  /-- ATOM (R178); res: a result register x is written. -/
  | atom (k : Marks) (op : AtomOp) (ty : Ty) (o : Ordn) (sc : Scope) (sp : Space) (res : Bool) (x : VCode) (y : SCode) (z vs : VCode) (m : MCode) (imm : W32)
  /-- ATOMS (R178); e is used by CAS only. -/
  | atoms (k : Marks) (op : AtomOp) (ty : Ty) (o : Ordn) (sc : Scope) (sp : Space) (x y z e : SCode) (imm : W32)
  /-- FENCE (R180). -/
  | fence (k : Marks) (o : Ordn) (sc : Scope)
  /-- MEET (R181). -/
  | meet (k : Marks) (form : MeetForm) (x : SCode) (j : BitVec 4) (n : BitVec 5)
  /-- LDB (R175). -/
  | ldb (k : Marks) (sp : Space) (x : BCode) (y : SCode) (imm : BitVec 10)
  /-- STB (R175). -/
  | stb (k : Marks) (sp : Space) (x : BCode) (y : SCode) (imm : BitVec 10)
  /-- PLDM (R176). -/
  | pldm (k : Marks) (sp : Space) (x : MCode) (y : SCode) (imm : BitVec 10)
  /-- PSTM (R176). -/
  | pstm (k : Marks) (sp : Space) (x : MCode) (y : SCode) (imm : BitVec 10)
  /-- CPY (R244). -/
  | cpy (k : Marks) (size : CpySize) (o : Ordn) (sc : Scope) (dst : CpyDst) (src : CpySrc) (y : VCode) (m : MCode) (ctr : Option (BitVec 16 × Bool))
  /-- CPGATHER (R249). -/
  | cpgather (k : Marks) (src : GatherSrc) (o : Ordn) (sc : Scope) (sp : Space) (x : SCode) (y : VCode) (z str ro : SCode) (wl : BitVec 4) (m : MCode) (ctr : Option (BitVec 16))
  /-- SORT (R251). -/
  | sort (k : Marks) (o : Ordn) (sc : Scope) (sp : Space) (x y z tb : SCode) (km1 : BitVec 16)
  /-- BCLOSE (R253); mx: the matrix channel. -/
  | bclose (k : Marks) (mx : Bool) (x : SCode)
  /-- WAIT (R255). -/
  | wait (k : Marks) (vis mx trp : Bool) (x y : SCode)
  /-- OVLD (R228). -/
  | ovld (k : Marks) (src : OvldSrc) (o : Ordn) (sc : Scope) (y z ss : SCode) (slot : BitVec 6) (idi : BitVec 24) (cnt : BitVec 4)
  /-- DEP.dec (R273). -/
  | depDec (k : Marks) (y : SCode) (n : BitVec 10)
  /-- DEP.add (R273). -/
  | depAdd (k : Marks) (y : SCode) (n : BitVec 10) (z : SCode)
  /-- DEP.read (R273). -/
  | depRead (k : Marks) (x y : SCode) (n : BitVec 10)
  /-- TINV (R315). -/
  | tinv (k : Marks) (x : BCode) (y z : SCode)
  /-- MALLOC (R200). -/
  | malloc (k : Marks) (x y : SCode) (n : BitVec 5)
  /-- MFREE (R201). -/
  | mfree (k : Marks) (y : SCode)
  /-- MMA (R209); maj: MAJ, gng: a gang arrival. -/
  | mma (k : Marks) (ty : Ty) (maj gng : Bool) (o : Ordn) (sc : Scope) (sp : Space) (x y : SCode) (z : VCode) (m : MCode) (kb : BitVec 4) (sk spl sm : SCode) (rs : BitVec 12)
  /-- MZERO (R214). -/
  | mzero (k : Marks) (y : SCode) (kb : BitVec 4)
  /-- MRD (R215). -/
  | mrd (k : Marks) (ty : Ty) (x : VCode) (y z : SCode) (kb : BitVec 4) (r : BitVec 6) (m : MCode)
  /-- MST (R216). -/
  | mst (k : Marks) (ty : Ty) (o : Ordn) (sc : Scope) (sp : Space) (x y z sa : SCode) (kb : BitVec 4) (rs : BitVec 16)
  /-- XDISP (R296). -/
  | xdisp (k : Marks) (o : Ordn) (sc : Scope) (x y z c : SCode)
  /-- XPULL (R297). -/
  | xpull (k : Marks) (x y z a : SCode)
  /-- XCTL.setbias (R298). -/
  | xctlSetbias (k : Marks) (x y z : SCode)
  /-- XCTL.flip (R298). -/
  | xctlFlip (k : Marks) (x : SCode)
  /-- XCTL.snap (R298). -/
  | xctlSnap (k : Marks) (sp : Space) (y z : SCode) (n : BitVec 10)
  /-- XCTL.repl (R298). -/
  | xctlRepl (k : Marks) (x y z : SCode)
  /-- XCTL.pin (R298). -/
  | xctlPin (k : Marks) (x y : SCode) (p : Bool)
  /-- XCTL.evict (R298). -/
  | xctlEvict (k : Marks) (x y : SCode)
  /-- XCTL.done (R298). -/
  | xctlDone (k : Marks) (x y : SCode)
  /-- XCTL.close (R298). -/
  | xctlClose (k : Marks) (c : Bool)
  /-- XBIAS (R299). -/
  | xbias (k : Marks) (x y : VCode) (m : MCode)
  /-- RETURN_ARRIVAL (R74): strand, issue number of the returning instruction, lane. -/
  | returnArrival (sid ord lane : Nat)
  /-- SCALAR_RETURN (R76): strand, issue number, which of its scalar values. -/
  | scalarReturn (sid ord which : Nat)
  /-- STORE_QUEUE_LEAVE (R183): strand. -/
  | storeQueueLeave (sid : Nat)
  /-- SPAWN_APPEND (R272): strand whose queue's head is a SPAWN. -/
  | spawnAppend (x : SpawnPart)
  /-- WRITE_ARRIVAL (R183): core, place in the core's list of writes under way. -/
  | writeArrival (core idx : Nat)
  /-- ATOMIC_STEP (R178): core, place in the same list. -/
  | atomicStep (core idx : Nat)
  /-- Q_ENTRY_READY (R240): strand, queue register. -/
  | qEntryReady (sid q : Nat)
  /-- REGISTER_RESTORED (R78): strand, vector register. -/
  | registerRestored (sid reg : Nat)
  /-- COPY_TRANSFER (R245): strand, issue number of the command, its units, those whose data the memory device flags as poisoned, the bytes a peer answers with (none: the peer refused). -/
  | copyTransfer (sid ord : Nat) (units poison : List Nat) (peer : Option (List Byte))
  /-- SORT_COMPLETE (R251): strand, the step of its command. -/
  | sortComplete (sid : Nat) (x : SortEnd)
  /-- TINV_START (R315): strand, issue number. -/
  | tinvStart (sid ord : Nat)
  /-- TINV_COMPLETE (R315): strand, issue number. -/
  | tinvComplete (sid ord : Nat)
  /-- WALK_COMPLETE (R308): die, place in its list of walks, whether a read was poisoned or did not arrive, the entries replaced when the die TLB or the copy TLB is full. -/
  | walkComplete (die idx : Nat) (poison : Bool) (victimDie victimCopy : Nat)
  /-- OVLD_COMPLETE (R228): strand, issue number, the step of the load. -/
  | ovldComplete (sid ord : Nat) (x : OvldPart)
  /-- ADMISSION_LOAD_COMPLETE (R233): core, overlay. -/
  | admissionLoadComplete (core ovid : Nat)
  /-- MATRIX_COMMIT (R203): the step of a channel's head, which commits once all it needs is read. -/
  | matrixCommit (x : MatrixPart)
  /-- MRD_EXECUTE (R215): strand whose channel's head is an MRD. -/
  | mrdExecute (sid : Nat)
  /-- MST_WRITE (R216): the step of a channel's head that is an MST. -/
  | mstWrite (x : MstPart)
  /-- MALLOC_GRANT (R200): core. -/
  | mallocGrant (core : Nat)
  /-- ENGINE_HANG (R219): core. -/
  | engineHang (core : Nat)
  /-- RUN_ARBITRATION (R276): core. -/
  | runArbitration (core : Nat)
  /-- RECORD_HEAD_CHECK (R266): partition, queue. -/
  | recordHeadCheck (part q : Nat)
  /-- COUNTER_TRIGGER (R269): partition, queue. -/
  | counterTrigger (part q : Nat)
  /-- FRAME_COUNT_READ (R269): partition, queue; the value a relaxed read returns when it differs from the present word. -/
  | frameCountRead (part q : Nat) (old : Option W32)
  /-- FRAME_ADMIT (R275): partition, launch, the core (the even core of a pair) and the offsets chosen within each scratchpad half; for a braced frame the core of the shadow copy; the `spad` data image of the program (R33), which the record does not name. -/
  | frameAdmit (part launch core : Nat) (shadow : Nat) (image : List (Nat × Byte))
  /-- SUCCESSOR_BIRTH (R155): the exited frame. -/
  | successorBirth (frame : Nat)
  /-- DEFERRED_FILL_GRANT (R292): partition. -/
  | deferredFillGrant (part : Nat)
  /-- FILL_COMPLETE (R291): partition, the end of the fill. -/
  | fillComplete (part : Nat) (x : FillEnd)
  /-- FILL_FAIL (R291): partition, entry, the error code met. -/
  | fillFail (part e : Nat) (code : BitVec 4)
  /-- EVICTION_END (R291): partition, entry. -/
  | evictionEnd (part e : Nat)
  /-- REPLICA_COMPLETE (R291): partition, entry. -/
  | replicaComplete (part e : Nat)
  /-- XPULL_POP (R297): partition. -/
  | xpullPop (part : Nat)
  /-- REMOTE_SIGNAL (R247, R331): receiving partition, the signal. -/
  | remoteSignal (part : Nat) (x : PeerSignal)
  /-- PEER_ACCESS (R363): partition, offset in its exported range, bytes, the access. -/
  | peerAccess (part off n : Nat) (x : PeerAcc)
  /-- HOST_WINDOW_ACCESS (R359, R360): partition, offset in the window, bytes of a read, the access. -/
  | hostWindowAccess (part off n : Nat) (x : WinAcc)
  /-- TAIL_DOORBELL (R263): partition, queue, value. -/
  | tailDoorbell (part q : Nat) (v : W32)
  /-- HEAD_WRITE (R262): partition, queue, value. -/
  | headWrite (part q : Nat) (v : W32)
  /-- HALT_CLEAR (R266): partition, queue. -/
  | haltClear (part q : Nat)
  /-- ERT_CONFIG_WRITE (R288): partition, entry, the fields. -/
  | ertConfigWrite (part e : Nat) (c : ErtConfig)
  /-- RETRY (R309): partition, page address A[79:16], or none for every page. -/
  | retry (part : Nat) (vpn : Option W64)
  /-- CONS_WRITE (R361): partition, queue (true: event queue), value. -/
  | consWrite (part : Nat) (event : Bool) (v : W32)
  /-- REGISTER_WRITE (R359): partition, register, value. -/
  | registerWrite (part : Nat) (r : WinReg) (v : W64)
  /-- CREATE (R355): function, partition, record. -/
  | create (fn part : Nat) (r : PartRecord)
  /-- DESTROY (R355): function, partition. -/
  | destroy (fn part : Nat)
  /-- PREEMPT (R332): function, partition. -/
  | preempt (fn part : Nat)
  /-- FREEZE_COMPLETE (R332): partition. -/
  | freezeComplete (part : Nat)
  /-- RESUME (R335): function, partition, clusters. -/
  | resume (fn part : Nat) (clm : W32)
  /-- READ_SIGN (R351): function, partition. -/
  | readSign (fn part : Nat)
  /-- QUOTE (R369): function, partition (none: a device quote), nonce. -/
  | quote (fn : Nat) (part : Option Nat) (nonce : List Byte)
  /-- ENGINE_RESET (R219): function, core. -/
  | engineReset (fn core : Nat)
  /-- WARM_RESET (R368): function. -/
  | warmReset (fn : Nat)
  /-- STATUS (R355): function. -/
  | status (fn : Nat)
  /-- CERT (R355): function. -/
  | cert (fn : Nat)
  /-- POWER_GOOD (R366). -/
  | powerGood
  /-- STAGE_1 (R366): what verification, training and self-test found. -/
  | stage1 (r : StageResult)
  /-- ENERGY_EPOCH_END (R347): the measured energies and counts of the epoch. -/
  | energyEpochEnd (m : EpochMeasure)
  /-- ENERGY_REFRESH (R349): die. -/
  | energyRefresh (die : Nat)
  /-- CLASS3_WINDOW (R364). -/
  | class3Window
  /-- DROOP_DETECT (R374): die. -/
  | droopDetect (die : Nat)
  /-- DROOP_END (R374): die. -/
  | droopEnd (die : Nat)
  /-- CLOCK_HOP (R374): die; the hop is requested, begins or completes. -/
  | clockHop (die : Nat) (ph : HopPhase)
  /-- CLOCK_PATTERN_CHANGE (R373): cluster, new k less one. -/
  | clockPatternChange (cluster : Nat) (km1 : BitVec 4)
  /-- ERROR_DETECTED (R372): the unit that met it, whether it was corrected, the partition whose traffic a link served or whose access met a device-wide block, the strand whose access met an uncorrectable error and the issue number of that access. -/
  | errorDetected (u : HwUnit) (corrected : Bool) (owner : Option Nat) (victim : Option (Nat × Nat))
  /-- SELF_TEST_DONE (R372): the unit, the outcome, the owner it counts to. -/
  | selfTestDone (u : HwUnit) (pass : Bool) (owner : Option Nat)
  /-- BRACE_COMPARE (R370): the primary strand. -/
  | braceCompare (sid : Nat)
  /-- FETCH_FAULT (R53): the fault of a word that yields no instruction. -/
  | fetchFault (c : FetchErr)
  /-- MASTER_CYCLE (R341): die. -/
  | masterCycle (die : Nat)
  /-- COLD_RESET (R351). -/
  | coldReset
  /-- POWER_LOSS (R352). -/
  | powerLoss
  /-- CREDIT_RETURN (R259): UALink port. -/
  | creditReturn (port : Nat)
deriving DecidableEq, Repr

end Sys2Proof
end

