-- ==== Sys2Proof/WellFormed.lean ====
section
/-! DEFINITION. WellFormed.lean: step 6 of R53: the operand, type, scope, space and ordering codes an instruction accepts (R45 to R49, R82, R94, R103, R171, R172, R199, R205, R243, R248, R250, R294), and the shape of an unused argument. -/

namespace Sys2Proof

/-- The 64-bit types, whose vector operands name pairs (R45). -/
def Ty.wide : Ty → Bool
  | .s64 | .n64 => true
  | _ => false

/-- The 64-bit source types of CVT (R101). -/
def CvtSrc.wide : CvtSrc → Bool
  | .s64 | .n64 => true
  | _ => false

namespace Wf

/-- A vector source: V or Q; for a 64-bit type an even V (R45). -/
def vsrc (wide : Bool) (c : VCode) : Bool :=
  if wide then decide (c.toNat ≤ 119) && decide (c.toNat % 2 = 0) else decide (c.toNat ≤ 123)

/-- A vector destination, or a source that takes no Q code (R45). -/
def vdst (wide : Bool) (c : VCode) : Bool :=
  decide (c.toNat ≤ 119) && (!wide || decide (c.toNat % 2 = 0))

/-- A map source (R46). -/
def map (c : MCode) : Bool := decide (c.toNat ≤ 95)

/-- A map destination (R46). -/
def mdst (c : MCode) : Bool := decide (1 ≤ c.toNat) && decide (c.toNat ≤ 95)

/-- SP = 1 needs a frame on a core pair (R49). -/
def space (pair : Bool) (sp : Space) : Bool := pair || decide (sp ≠ .spadp)

/-- With ORD = 0 SC must be 0, with ORD not 0 it must not (R172). -/
def scope (o : Ordn) (sc : Scope) : Bool := decide (o = .rlx) == decide (sc = .strand)

/-- Integer types of ADD (R94). -/
def tyAdd : Ty → Bool
  | .s32 | .n32 | .s64 | .n64 => true
  | _ => false

/-- Types of AND, OR, XOR, NOT, SHL, BCAST, VPUT (R94, R103). -/
def tyBits : Ty → Bool
  | .b32 | .n64 => true
  | _ => false

/-- Types of SEL, MOV, THIN, MERGE (R82, R94). -/
def tyMove : Ty → Bool
  | .b32 | .s64 | .n64 => true
  | _ => false

/-- Types s32 and n32 (R94, R103). -/
def ty32 : Ty → Bool
  | .s32 | .n32 => true
  | _ => false

/-- Types of the floating-point lane instructions (R125). -/
def tyFloat : Ty → Bool
  | .f32 | .f16 | .bf16 => true
  | _ => false

/-- Types of LD, ST, LDS, STS (R172). -/
def tyMem : Ty → Bool
  | .b32 | .s32 | .n32 | .s8 | .n8 | .s16 | .n16 | .s64 | .n64 => true
  | _ => false

/-- Types of ATOM and ATOMS (R172). -/
def tyAtom : Ty → Bool
  | .b32 | .s32 | .n32 => true
  | _ => false

/-- Types of MRD and MST (R199). -/
def tyAcc : Ty → Bool
  | .s32 | .f32 | .bf16 | .f16 | .s16 | .s8 => true
  | _ => false

/-- Types of a RED variant (R105). -/
def tyRed : RedOp → Ty → Bool
  | .add, t | .min, t | .max, t => tyAdd t
  | .and, t | .or, t | .xor, t => tyBits t
  | .fadd, t | .fmin, t | .fmax, t => decide (t = .f32)

/-- Three vector operands of one type and a qualifier. -/
def v3 (t : Ty) (x y z : VCode) (m : MCode) : Bool :=
  vdst t.wide x && vsrc t.wide y && vsrc t.wide z && map m

/-- Two vector operands of one type and a qualifier. -/
def v2 (t : Ty) (x y : VCode) (m : MCode) : Bool := vdst t.wide x && vsrc t.wide y && map m

/-- Pe of CMP and FCMP: absent, or a map other than Pd (R98). -/
def second (x pe : MCode) : Bool := map pe && (decide (pe = 0) || decide (pe ≠ x))

/-- The source form of SHFL (R103). -/
def shfl : ShflKind → Bool
  | .idx z => vsrc false z
  | _ => true

/-- Destination of CPY with its size and counter (R243). -/
def cpyDst (pair : Bool) (size : CpySize) (ctr : Option (BitVec 16 × Bool)) : CpyDst → Bool
  | .near sp _ x => space pair sp && vdst false x && (match ctr with | some (_, true) => false | _ => true)
  | .far _ _ x => vdst false x
  | .queue _ => decide (size = .b4) && (match ctr with | some (_, true) => false | _ => true)

/-- Source of CPY (R243). -/
def cpySrc (pair : Bool) : CpySrc → Bool
  | .near sp _ => space pair sp
  | .far _ _ => true

/-- The destinations of XPULL: two equal codes other than 0 are refused (R294). -/
def distinct (l : List SCode) : Bool := (l.filter (· ≠ 0)).Nodup

end Wf

open Wf in
/-- Step 6 of R53 for one instruction, `pair` saying whether the frame runs on a core pair; an argument that the form does not use is 0. The events carry no operand codes. -/
def WellFormed (pair : Bool) : Instr → Bool
  | .nop _ _ => true
  | .if_ _ p _ => map p
  | .else_ _ _ => true
  | .endif _ => true
  | .loop _ _ => true
  | .brk _ y => map y
  | .cont _ y => map y
  | .endloop _ _ => true
  | .bra _ c _ => match c with
    | .none p | .any p => map p
    | _ => true
  | .call _ _ => true
  | .ocall _ _ _ => true
  | .ret _ => true
  | .rett _ => true
  | .exit _ => true
  | .trap _ _ => true
  | .bkpt _ _ => true
  | .spawn _ sp _ _ _ _ => space pair sp
  | .opinPin _ _ _ => true
  | .opinUnpin _ _ _ => true
  | .opinQuery _ _ _ _ => true
  | .pand _ x y z m => mdst x && map y && map z && map m
  | .por _ x y z m => mdst x && map y && map z && map m
  | .pxor _ x y z m => mdst x && map y && map z && map m
  | .pandn _ x y z m => mdst x && map y && map z && map m
  | .pnot _ x y m => mdst x && map y && map m
  | .pmov _ x y m => mdst x && map y && map m
  | .pfirst _ x y _ _ m => mdst x && map y && map m
  | .prange _ x _ _ _ m => mdst x && map m
  | .pmap _ x y m => mdst x && vdst false y && map m
  | .pcnt _ _ y m => map y && map m
  | .pfind _ _ y _ _ m => map y && map m
  | .elect _ x y m => mdst x && map y && map m
  | .thin _ t x y z m => tyMove t && v2 t x y m && map z
  | .merge _ t x y z m => tyMove t && v3 t x y z m
  | .pget _ _ y _ _ => map y
  | .pput _ x _ _ _ => mdst x
  | .pspan _ _ y m => map y && map m
  | .add _ t _ x y z m => tyAdd t && v3 t x y z m
  | .sub _ t _ x y z m => tyAdd t && v3 t x y z m
  | .mul _ t _ x y z m => tyAdd t && v3 t x y z m
  | .mulh _ t x y z m => ty32 t && v3 t x y z m
  | .mad _ t _ x y z w m => tyAdd t && v3 t x y z m && vsrc t.wide w
  | .min _ t x y z m => tyAdd t && v3 t x y z m
  | .max _ t x y z m => tyAdd t && v3 t x y z m
  | .neg _ t _ x y m => (match t with | .s32 | .s64 => true | _ => false) && v2 t x y m
  | .and_ _ t x y z m => tyBits t && v3 t x y z m
  | .or_ _ t x y z m => tyBits t && v3 t x y z m
  | .xor_ _ t x y z m => tyBits t && v3 t x y z m
  | .not_ _ t x y m => tyBits t && v2 t x y m
  | .shl _ t x y z m => tyBits t && v3 t x y z m
  | .shr _ t x y z m => tyAdd t && v3 t x y z m
  | .popc _ x y m => v2 .b32 x y m
  | .clz _ x y m => v2 .b32 x y m
  | .bfx _ t x y z m => ty32 t && v3 t x y z m
  | .bfi _ x y z w m => v3 .b32 x y z m && vsrc false w
  | .cmp _ t _ x pe y z m => tyAdd t && mdst x && second x pe && vsrc t.wide y && vsrc t.wide z && map m
  | .sel _ t x y z pc m => tyMove t && v3 t x y z m && map pc
  | .movi _ t x m imm =>
    (match t with
      | .b32 | .s32 | .n32 | .f32 | .s64 | .n64 => true
      | .bf16 | .f16 => decide (imm.toNat < 65536)
      | _ => false) && vdst t.wide x && map m
  | .mov _ t x y m => tyMove t && v2 t x y m
  | .laneid _ x m => vdst false x && map m
  | .bcast _ t x _ m => tyBits t && vdst t.wide x && map m
  | .cvt _ src t x y m =>
    decide (t ≠ .bpn) && vdst t.wide x && vsrc src.wide y && map m &&
      (match src with | .f32ord | .bf16ord => decide (t = .n16) | _ => true)
  | .shfl _ v x y m => v2 .b32 x y m && Wf.shfl v
  | .red _ op t _ y m => tyRed op t && vsrc t.wide y && map m
  | .redidx _ _ t _ y m => (match t with | .s32 | .n32 | .f32 => true | _ => false) && vsrc false y && map m
  | .scan _ _ t x y m => ty32 t && v2 t x y m
  | .rank _ t x y m => ty32 t && v2 t x y m
  | .vget _ t _ y _ _ m => (match t with | .b32 | .s32 | .n64 => true | _ => false) && vsrc t.wide y && map m
  | .vput _ t x _ _ m _ => tyBits t && vdst t.wide x && map m
  | .fadd _ t x y z m => tyFloat t && v3 t x y z m
  | .fsub _ t x y z m => tyFloat t && v3 t x y z m
  | .fmul _ t x y z m => tyFloat t && v3 t x y z m
  | .fma _ t x y z w m => tyFloat t && v3 t x y z m && vsrc false w
  | .fmin _ t x y z m => tyFloat t && v3 t x y z m
  | .fmax _ t x y z m => tyFloat t && v3 t x y z m
  | .fneg _ t x y m => tyFloat t && v2 t x y m
  | .fabs _ t x y m => tyFloat t && v2 t x y m
  | .fcopysign _ t x y z m => tyFloat t && v3 t x y z m
  | .fcmp _ t _ x pe y z m => tyFloat t && mdst x && second x pe && vsrc false y && vsrc false z && map m
  | .frcp _ t x y m => tyFloat t && v2 t x y m
  | .frsq _ t x y m => tyFloat t && v2 t x y m
  | .fsqrt _ t x y m => tyFloat t && v2 t x y m
  | .fexp2 _ t x y m => tyFloat t && v2 t x y m
  | .flog2 _ t x y m => tyFloat t && v2 t x y m
  | .fdiv _ t x y z m => tyFloat t && v3 t x y z m
  | .sadd _ _ _ _ => true
  | .ssub _ _ _ _ => true
  | .sand _ _ _ _ => true
  | .sor _ _ _ _ => true
  | .sxor _ _ _ _ => true
  | .sshl _ _ _ _ => true
  | .sshr _ _ _ _ => true
  | .ssar _ _ _ _ => true
  | .smin _ _ _ _ => true
  | .smax _ _ _ _ => true
  | .smul _ _ _ _ => true
  | .scmp _ _ _ _ _ => true
  | .sli _ _ _ => true
  | .bset _ _ _ _ => true
  | .badd _ _ _ _ => true
  | .bget _ _ _ _ => true
  | .mfs _ _ _ => true
  | .mts _ _ _ => true
  | .setf _ _ _ _ => true
  | .setg _ _ _ => true
  | .ld _ t o sc sp x _ z m _ =>
    tyMem t && (match o with | .rlx | .acq => true | _ => false) && scope o sc && space pair sp &&
      vdst t.wide x && vsrc false z && map m
  | .lds _ t o sc sp _ _ _ => tyMem t && (match o with | .rlx | .acq => true | _ => false) && scope o sc && space pair sp
  | .st _ t o sc sp x _ z m _ =>
    tyMem t && (match o with | .rlx | .rel => true | _ => false) && scope o sc && space pair sp &&
      vsrc t.wide x && vsrc false z && map m
  | .sts _ t o sc sp _ _ _ => tyMem t && (match o with | .rlx | .rel => true | _ => false) && scope o sc && space pair sp
  | .atom _ op t o sc sp res x _ z vs m _ =>
    tyAtom t && scope o sc && space pair sp && vdst false x && (res || decide (x = 0)) && vsrc false z &&
      (if op = .cas then vsrc true vs else vsrc false vs) && map m
  | .atoms _ op t o sc sp _ _ _ e _ => tyAtom t && scope o sc && space pair sp && (decide (op = .cas) || decide (e = 0))
  | .fence _ o sc => decide (o ≠ .rlx) && decide (sc ≠ .strand)
  | .meet _ _ _ _ n => decide (n.toNat ≤ 16)
  | .ldb _ sp _ _ _ => space pair sp
  | .stb _ sp _ _ _ => space pair sp
  | .pldm _ sp x _ _ => space pair sp && mdst x
  | .pstm _ sp x _ _ => space pair sp && map x
  | .cpy _ size _ _ dst src y m ctr => cpyDst pair size ctr dst && cpySrc pair src && vdst false y && map m
  | .cpgather _ _ _ _ sp _ y _ _ _ _ m _ => decide (sp ≠ .vault) && space pair sp && vdst false y && map m
  | .sort _ _ _ sp _ _ _ _ _ => decide (sp ≠ .vault) && space pair sp
  | .bclose _ _ _ => true
  | .wait _ _ _ _ _ _ => true
  | .ovld _ _ o sc _ _ _ _ _ _ => scope o sc
  | .depDec _ _ _ => true
  | .depAdd _ _ _ _ => true
  | .depRead _ _ _ _ => true
  | .tinv _ _ _ _ => true
  | .malloc _ _ _ n => decide (n.toNat ≤ 16)
  | .mfree _ _ => true
  | .mma _ t _ _ o sc sp _ _ z m _ _ _ _ _ =>
    (match t with | .bpn | .bf16 => true | _ => false) && scope o sc && decide (sp ≠ .spadp) && vdst false z && map m
  | .mzero _ _ _ => true
  | .mrd _ t x _ _ _ _ m => tyAcc t && vdst false x && map m
  | .mst _ t o sc sp _ _ _ _ _ _ => tyAcc t && scope o sc && space pair sp
  | .xdisp _ o sc _ _ _ _ => scope o sc
  | .xpull _ x y z a => distinct [x, y, z, a]
  | .xctlSetbias _ _ _ _ => true
  | .xctlFlip _ _ => true
  | .xctlSnap _ sp _ _ _ => decide (sp ≠ .vault) && space pair sp
  | .xctlRepl _ _ _ _ => true
  | .xctlPin _ _ _ _ => true
  | .xctlEvict _ _ _ => true
  | .xctlDone _ _ _ => true
  | .xctlClose _ _ => true
  | .xbias _ x y m => v2 .f32 x y m
  | .returnArrival _ _ _ => true
  | .scalarReturn _ _ _ => true
  | .storeQueueLeave _ => true
  | .spawnAppend _ => true
  | .writeArrival _ _ => true
  | .atomicStep _ _ => true
  | .qEntryReady _ _ => true
  | .registerRestored _ _ => true
  | .copyTransfer _ _ _ _ _ => true
  | .sortComplete _ _ => true
  | .tinvStart _ _ => true
  | .tinvComplete _ _ => true
  | .walkComplete _ _ _ _ _ => true
  | .ovldComplete _ _ _ => true
  | .admissionLoadComplete _ _ => true
  | .matrixCommit _ => true
  | .mrdExecute _ => true
  | .mstWrite _ => true
  | .mallocGrant _ => true
  | .engineHang _ => true
  | .runArbitration _ => true
  | .recordHeadCheck _ _ => true
  | .counterTrigger _ _ => true
  | .frameCountRead _ _ _ => true
  | .frameAdmit _ _ _ _ _ => true
  | .successorBirth _ => true
  | .deferredFillGrant _ => true
  | .fillComplete _ _ => true
  | .fillFail _ _ _ => true
  | .evictionEnd _ _ => true
  | .replicaComplete _ _ => true
  | .xpullPop _ => true
  | .remoteSignal _ _ => true
  | .peerAccess _ _ _ _ => true
  | .hostWindowAccess _ _ _ _ => true
  | .tailDoorbell _ _ _ => true
  | .headWrite _ _ _ => true
  | .haltClear _ _ => true
  | .ertConfigWrite _ _ _ => true
  | .retry _ _ => true
  | .consWrite _ _ _ => true
  | .registerWrite _ _ _ => true
  | .create _ _ _ => true
  | .destroy _ _ => true
  | .preempt _ _ => true
  | .freezeComplete _ => true
  | .resume _ _ _ => true
  | .readSign _ _ => true
  | .quote _ _ _ => true
  | .engineReset _ _ => true
  | .warmReset _ => true
  | .status _ => true
  | .cert _ => true
  | .powerGood => true
  | .stage1 _ => true
  | .energyEpochEnd _ => true
  | .energyRefresh _ => true
  | .class3Window => true
  | .droopDetect _ => true
  | .droopEnd _ => true
  | .clockHop _ _ => true
  | .clockPatternChange _ _ => true
  | .errorDetected _ _ _ _ => true
  | .selfTestDone _ _ _ => true
  | .braceCompare _ => true
  | .fetchFault _ => true
  | .masterCycle _ => true
  | .coldReset => true
  | .powerLoss => true
  | .creditReturn _ => true

end Sys2Proof
end

