-- ==== Sys2Proof/Decode.lean ====
section
/-! DEFINITION. Decode.lean: from the bytes of an instruction to an `Instr` or the fault of R53 steps 1 to 7, and back: the encoder, written from the same tables. -/

namespace Sys2Proof

/-- The defined primary opcodes (R51). -/
inductive Opc
  | nop | if_ | else_ | endif | loop | brk | cont | endloop | bra | call | ocall | ret | exit | spawn | trap | opin | plog | pfirst | pmap | pcnt
  | pfind | elect | thin | merge | pword | pspan | add | sub | mul | mulh | mad | min | max | neg | and_ | or_ | xor_ | not_ | shl | shr | popc | clz
  | bfx | bfi | cmp | sel | movi | mov | laneid | bcast | cvt | shfl | red | redidx | scan | rank | vget | vput | fadd | fsub | fmul | fma | fmin
  | fmax | fsgn | fcmp | frcp | frsq | fsqrt | fexp2 | flog2 | fdiv | salu | smul | scmp | sli | bop | mfs | mts | setf | setg | ld | st | lds | sts
  | atom | atoms | fence | meet | ldb | pldm | cpy | cpgather | bclose | wait | ovld | dep | tinv | malloc | mfree | mma | mzero | mrd | mst | sort
  | xdisp | xpull | xctl | xbias
deriving DecidableEq, Repr

/-- First-word layouts: NOP's hint, common, control, scalar (R40, R43, R44, R52). -/
inductive Lay | n | v | c | s
deriving DecidableEq, Repr

/-- The value of OP of an opcode (R51). -/
def Opc.code : Opc → BitVec 7
  | .nop => 0x00
  | .if_ => 0x01
  | .else_ => 0x02
  | .endif => 0x03
  | .loop => 0x04
  | .brk => 0x05
  | .cont => 0x06
  | .endloop => 0x07
  | .bra => 0x08
  | .call => 0x09
  | .ocall => 0x0A
  | .ret => 0x0B
  | .exit => 0x0C
  | .spawn => 0x0D
  | .trap => 0x0E
  | .opin => 0x0F
  | .plog => 0x10
  | .pfirst => 0x11
  | .pmap => 0x12
  | .pcnt => 0x13
  | .pfind => 0x14
  | .elect => 0x15
  | .thin => 0x16
  | .merge => 0x17
  | .pword => 0x18
  | .pspan => 0x19
  | .add => 0x20
  | .sub => 0x21
  | .mul => 0x22
  | .mulh => 0x23
  | .mad => 0x24
  | .min => 0x25
  | .max => 0x26
  | .neg => 0x27
  | .and_ => 0x28
  | .or_ => 0x29
  | .xor_ => 0x2A
  | .not_ => 0x2B
  | .shl => 0x2C
  | .shr => 0x2D
  | .popc => 0x2E
  | .clz => 0x2F
  | .bfx => 0x30
  | .bfi => 0x31
  | .cmp => 0x32
  | .sel => 0x33
  | .movi => 0x34
  | .mov => 0x35
  | .laneid => 0x36
  | .bcast => 0x37
  | .cvt => 0x38
  | .shfl => 0x39
  | .red => 0x3A
  | .redidx => 0x3B
  | .scan => 0x3C
  | .rank => 0x3D
  | .vget => 0x3E
  | .vput => 0x3F
  | .fadd => 0x40
  | .fsub => 0x41
  | .fmul => 0x42
  | .fma => 0x43
  | .fmin => 0x44
  | .fmax => 0x45
  | .fsgn => 0x46
  | .fcmp => 0x47
  | .frcp => 0x48
  | .frsq => 0x49
  | .fsqrt => 0x4A
  | .fexp2 => 0x4B
  | .flog2 => 0x4C
  | .fdiv => 0x4D
  | .salu => 0x50
  | .smul => 0x51
  | .scmp => 0x52
  | .sli => 0x53
  | .bop => 0x54
  | .mfs => 0x55
  | .mts => 0x56
  | .setf => 0x57
  | .setg => 0x58
  | .ld => 0x60
  | .st => 0x61
  | .lds => 0x62
  | .sts => 0x63
  | .atom => 0x64
  | .atoms => 0x65
  | .fence => 0x66
  | .meet => 0x67
  | .ldb => 0x68
  | .pldm => 0x69
  | .cpy => 0x6C
  | .cpgather => 0x6D
  | .bclose => 0x6E
  | .wait => 0x6F
  | .ovld => 0x70
  | .dep => 0x72
  | .tinv => 0x73
  | .malloc => 0x74
  | .mfree => 0x75
  | .mma => 0x76
  | .mzero => 0x77
  | .mrd => 0x78
  | .mst => 0x79
  | .sort => 0x7A
  | .xdisp => 0x7B
  | .xpull => 0x7C
  | .xctl => 0x7D
  | .xbias => 0x7E

/-- The layout of an opcode (R51). -/
def Opc.lay : Opc → Lay
  | .nop => .n
  | .if_ | .else_ | .loop | .endloop | .bra | .call | .ocall => .c
  | .salu | .smul | .scmp | .sli | .bop | .mfs | .mts | .setf | .setg => .s
  | _ => .v

/-- The length code of an opcode (R51). -/
def Opc.len : Opc → BitVec 2
  | .spawn | .mad | .bfi | .movi | .vput | .fma | .ld | .st | .lds | .sts | .atom | .atoms | .mst | .sort => 1
  | .sli | .cpy | .cpgather | .ovld | .mma => 2
  | _ => 0
/-- The defined opcodes below 0x40. -/
def opcodesLow : List Opc :=
  [.nop, .if_, .else_, .endif, .loop, .brk, .cont, .endloop, .bra, .call, .ocall, .ret, .exit, .spawn, .trap, .opin, .plog, .pfirst, .pmap, .pcnt,
   .pfind, .elect, .thin, .merge, .pword, .pspan, .add, .sub, .mul, .mulh, .mad, .min, .max, .neg, .and_, .or_, .xor_, .not_, .shl, .shr, .popc,
   .clz, .bfx, .bfi, .cmp, .sel, .movi, .mov, .laneid, .bcast, .cvt, .shfl, .red, .redidx, .scan, .rank, .vget, .vput]

/-- The defined opcodes from 0x40. -/
def opcodesHigh : List Opc :=
  [.fadd, .fsub, .fmul, .fma, .fmin, .fmax, .fsgn, .fcmp, .frcp, .frsq, .fsqrt, .fexp2, .flog2, .fdiv, .salu, .smul, .scmp, .sli, .bop, .mfs, .mts,
   .setf, .setg, .ld, .st, .lds, .sts, .atom, .atoms, .fence, .meet, .ldb, .pldm, .cpy, .cpgather, .bclose, .wait, .ovld, .dep, .tinv, .malloc,
   .mfree, .mma, .mzero, .mrd, .mst, .sort, .xdisp, .xpull, .xctl, .xbias]

/-- The opcode of an OP value; none where OP is reserved (R51). -/
def opcodeOf (n : BitVec 7) : Option Opc := (opcodesLow ++ opcodesHigh).find? (fun o => o.code == n)

/-- The words after the first word (R42): none, bits [95:64], or bits [127:64]. -/
inductive Ext | none | w32 (v : W32) | w64 (v : W64)
deriving DecidableEq, Repr

/-- The length code of an extension (R36). -/
def Ext.len : Ext → BitVec 2
  | .none => 0
  | .w32 _ => 1
  | .w64 _ => 2

/-- An extension as bits [127:64]. -/
def Ext.bits : Ext → W64
  | .none => 0
  | .w32 v => (0 : BitVec 32) ++ v
  | .w64 v => v

/-- The extension that a length code takes from bits [127:64]. -/
def Ext.parse (len : BitVec 2) (w : W64) : Ext :=
  if len = 0 then .none else if len = 1 then .w32 (w.extractLsb' 0 32) else .w64 w

/-- The fields of the common layout (R40). -/
structure VFields where
  op : Opc
  k : Marks
  sub : BitVec 4 := 0
  x : BitVec 7 := 0
  y : BitVec 7 := 0
  z : BitVec 7 := 0
  m : BitVec 7 := 0
  ty : BitVec 4 := 0
  sc : BitVec 3 := 0
  sp : BitVec 2 := 0
  ord : BitVec 2 := 0
  imm : BitVec 10 := 0
  ext : Ext := .none
deriving DecidableEq, Repr

/-- The fields of the control layout (R43). -/
structure CFields where
  op : Opc
  k : Marks
  sub : BitVec 4 := 0
  kk : BitVec 7 := 0
  off : W32 := 0
  imm : BitVec 10 := 0
  ext : Ext := .none
deriving DecidableEq, Repr

/-- The fields of the scalar layout (R44). -/
structure SFields where
  op : Opc
  k : Marks
  sub : BitVec 4 := 0
  sd : BitVec 6 := 0
  sa : BitVec 6 := 0
  sb : BitVec 6 := 0
  bi : Bool := false
  imm : BitVec 30 := 0
  ext : Ext := .none
deriving DecidableEq, Repr

/-- The fields of one instruction, by layout; NOP's bits [63:11] are a hint (R52). -/
inductive Fields
  | n (k : Marks) (hint : BitVec 53)
  | v (f : VFields)
  | c (f : CFields)
  | s (f : SFields)
deriving DecidableEq, Repr

/-- Bits [10:0] of every first word (R40): OP, E, S, LEN. -/
def lowBits (op : Opc) (k : Marks) (len : BitVec 2) : BitVec 11 :=
  op.code ++ (BitVec.ofBool k.e) ++ (BitVec.ofBool k.s) ++ len

/-- The first word of each layout (R40, R43, R44). -/
def Fields.first : Fields → W64
  | .n k hint => hint ++ lowBits .nop k 0
  | .v f => f.imm ++ f.ord ++ f.sp ++ f.sc ++ f.ty ++ f.m ++ f.z ++ f.y ++ f.x ++ f.sub ++ lowBits f.op f.k f.ext.len
  | .c f => f.imm ++ f.off ++ f.kk ++ f.sub ++ lowBits f.op f.k f.ext.len
  | .s f => f.imm ++ BitVec.ofBool f.bi ++ f.sb ++ f.sa ++ f.sd ++ f.sub ++ lowBits f.op f.k f.ext.len

/-- The extension of the fields. -/
def Fields.ext : Fields → Ext
  | .n _ _ => .none
  | .v f => f.ext
  | .c f => f.ext
  | .s f => f.ext

/-- The whole instruction, bits [127:0], with the bits above its length zero. -/
def Fields.bits (f : Fields) : BitVec 128 := f.ext.bits ++ f.first

/-- Bit `i` of a first word. -/
def bitAt (w : W64) (i : Nat) : Bool := w.getLsbD i

/-- The marks of a first word (R41). -/
def marksOf (w : W64) : Marks := { s := bitAt w 2, e := bitAt w 3 }

/-- The fields of a first word whose opcode and length are known. -/
def Fields.parse (op : Opc) (w : W64) (ext : Ext) : Fields :=
  match op.lay with
  | .n => .n (marksOf w) (w.extractLsb' 11 53)
  | .v => .v { op := op, k := marksOf w, sub := w.extractLsb' 11 4, x := w.extractLsb' 15 7, y := w.extractLsb' 22 7,
               z := w.extractLsb' 29 7, m := w.extractLsb' 36 7, ty := w.extractLsb' 43 4, sc := w.extractLsb' 47 3,
               sp := w.extractLsb' 50 2, ord := w.extractLsb' 52 2, imm := w.extractLsb' 54 10, ext := ext }
  | .c => .c { op := op, k := marksOf w, sub := w.extractLsb' 11 4, kk := w.extractLsb' 15 7, off := w.extractLsb' 22 32,
               imm := w.extractLsb' 54 10, ext := ext }
  | .s => .s { op := op, k := marksOf w, sub := w.extractLsb' 11 4, sd := w.extractLsb' 15 6, sa := w.extractLsb' 21 6,
               sb := w.extractLsb' 27 6, bi := bitAt w 33, imm := w.extractLsb' 34 30, ext := ext }

/-! The code tables of R48 and R49 and of the variants. -/

/-- TY (R48). -/
def Ty.code : Ty → BitVec 4
  | .b32 => 0 | .s32 => 1 | .n32 => 2 | .f32 => 3 | .bf16 => 4 | .f16 => 5 | .s16 => 6 | .n16 => 7
  | .s8 => 8 | .n8 => 9 | .s64 => 10 | .n64 => 11 | .bpn => 12

/-- The types in the order of their codes. -/
def allTy : List Ty := [.b32, .s32, .n32, .f32, .bf16, .f16, .s16, .n16, .s8, .n8, .s64, .n64, .bpn]

/-- A TY code; the codes 13 to 15 are reserved (R48). -/
def tyOf (c : BitVec 4) : Except FetchErr Ty :=
  match allTy[c.toNat]? with
  | some t => .ok t
  | none => .error .illegalOperand

/-- SC (R49). -/
def Scope.code : Scope → BitVec 3
  | .strand => 0 | .frame => 1 | .die => 2 | .device => 3 | .system => 4

/-- An SC code; 5 to 7 are reserved (R49). -/
def scopeOf (c : BitVec 3) : Except FetchErr Scope :=
  match ([.strand, .frame, .die, .device, .system] : List Scope)[c.toNat]? with
  | some s => .ok s
  | none => .error .illegalOperand

/-- SP (R49). -/
def Space.code : Space → BitVec 2
  | .spad => 0 | .spadp => 1 | .vault => 2

/-- An SP code; 3 is reserved (R49). -/
def spaceOf (c : BitVec 2) : Except FetchErr Space :=
  match ([.spad, .spadp, .vault] : List Space)[c.toNat]? with
  | some s => .ok s
  | none => .error .illegalOperand

/-- ORD (R49). -/
def Ordn.code : Ordn → BitVec 2
  | .rlx => 0 | .acq => 1 | .rel => 2 | .ar => 3

/-- An ORD code (R49). -/
def ordOf (c : BitVec 2) : Ordn :=
  if c = 0 then .rlx else if c = 1 then .acq else if c = 2 then .rel else .ar

/-- A scalar code in a 7-bit field (R47). -/
def scal (s : SCode) : BitVec 7 := (0 : BitVec 1) ++ s

/-- A 7-bit field that takes scalar codes only (R47). -/
def scalOf (c : BitVec 7) : Except FetchErr SCode :=
  if c.toNat < 64 then .ok (c.extractLsb' 0 6) else .error .illegalOperand

/-- A base code 64 to 79 in a 7-bit field (R47). -/
def base7 (b : BCode) : BitVec 7 := (4 : BitVec 3) ++ b

/-- A 7-bit field that takes base codes (R47). -/
def base7Of (c : BitVec 7) : Except FetchErr BCode :=
  if c.extractLsb' 4 3 = 4 then .ok (c.extractLsb' 0 4) else .error .illegalOperand

/-- A base number in a 6-bit field (R44). -/
def base6 (b : BCode) : BitVec 6 := (0 : BitVec 2) ++ b

/-- A 6-bit field that names a base register (R44). -/
def base6Of (c : BitVec 6) : Except FetchErr BCode :=
  if c.toNat < 16 then .ok (c.extractLsb' 0 4) else .error .illegalOperand

/-- A field that holds one code of a class that the instruction takes: any other is refused (R48, R49). -/
def only {n : Nat} (c : BitVec n) (v : BitVec n) : Except FetchErr Unit :=
  if c = v then .ok () else .error .illegalOperand

/-- A variant from SUB; a SUB beyond the list selects none (R50). -/
def variant {α : Type} (l : List α) (sub : BitVec 4) : Except FetchErr α :=
  match l[sub.toNat]? with
  | some a => .ok a
  | none => .error .illegalOpcode

/-- SUB of an opcode for which its section lists 0 alone and calls every other value ILLEGAL-OPCODE (R103, R110, R143, R171). -/
def plain (sub : BitVec 4) : Except FetchErr Unit := if sub = 0 then .ok () else .error .illegalOpcode

/-- SUB of the integer conditions (R98). -/
def ICond.code : ICond → BitVec 4
  | .eq => 0 | .ne => 1 | .lt => 2 | .le => 3 | .gt => 4 | .ge => 5
/-- The integer conditions by SUB. -/
def allICond : List ICond := [.eq, .ne, .lt, .le, .gt, .ge]

/-- SUB of the floating-point conditions (R129). -/
def FCond.code : FCond → BitVec 4
  | .eq => 0 | .ne => 1 | .lt => 2 | .le => 3 | .gt => 4 | .ge => 5 | .un => 6 | .ord => 7
/-- The floating-point conditions by SUB. -/
def allFCond : List FCond := [.eq, .ne, .lt, .le, .gt, .ge, .un, .ord]

/-- SUB of the scalar conditions (R111). -/
def SCond.code : SCond → BitVec 4
  | .eq => 0 | .ne => 1 | .lt => 2 | .le => 3 | .gt => 4 | .ge => 5 | .ltu => 6 | .leu => 7 | .gtu => 8 | .geu => 9
/-- The scalar conditions by SUB. -/
def allSCond : List SCond := [.eq, .ne, .lt, .le, .gt, .ge, .ltu, .leu, .gtu, .geu]

/-- SUB of CVT (R101). -/
def CvtSrc.code : CvtSrc → BitVec 4
  | .b32 => 0 | .s32 => 1 | .n32 => 2 | .f32 => 3 | .bf16 => 4 | .f16 => 5 | .s16 => 6 | .n16 => 7
  | .s8 => 8 | .n8 => 9 | .s64 => 10 | .n64 => 11 | .f32ord => 12 | .bf16ord => 13
/-- The sources of CVT by SUB. -/
def allCvtSrc : List CvtSrc :=
  [.b32, .s32, .n32, .f32, .bf16, .f16, .s16, .n16, .s8, .n8, .s64, .n64, .f32ord, .bf16ord]

/-- SUB of RED (R105). -/
def RedOp.code : RedOp → BitVec 4
  | .add => 0 | .min => 1 | .max => 2 | .and => 3 | .or => 4 | .xor => 5 | .fadd => 6 | .fmin => 7 | .fmax => 8
/-- The variants of RED by SUB. -/
def allRedOp : List RedOp := [.add, .min, .max, .and, .or, .xor, .fadd, .fmin, .fmax]

/-- SUB of SCAN (R103). -/
def ScanOp.code : ScanOp → BitVec 4
  | .addi => 0 | .addx => 1 | .min => 2 | .max => 3
/-- The variants of SCAN by SUB. -/
def allScanOp : List ScanOp := [.addi, .addx, .min, .max]

/-- SUB of ATOM and ATOMS (R177). -/
def AtomOp.code : AtomOp → BitVec 4
  | .add => 0 | .min => 1 | .max => 2 | .and => 3 | .or => 4 | .xor => 5 | .xchg => 6 | .cas => 7 | .maxpk => 8 | .minpk => 9
/-- The variants of ATOM by SUB. -/
def allAtomOp : List AtomOp := [.add, .min, .max, .and, .or, .xor, .xchg, .cas, .maxpk, .minpk]

/-- SUB of MEET (R171). -/
def MeetForm.code : MeetForm → BitVec 4
  | .arr => 0 | .wait => 1 | .aw => 2
/-- The forms of MEET by SUB. -/
def allMeetForm : List MeetForm := [.arr, .wait, .aw]

/-- SUB of CPY (R242). -/
def CpySize.code : CpySize → BitVec 4
  | .b4 => 0 | .b8 => 1 | .b16 => 2
/-- The sizes of CPY by SUB. -/
def allCpySize : List CpySize := [.b4, .b8, .b16]

/-- The special-register numbers (R113). -/
def SReg.number : SReg → BitVec 10
  | .strandid => 0x000 | .frameid => 0x001 | .framesize => 0x002 | .laneext => 0x003 | .spanw => 0x004
  | .coreid => 0x005 | .clusterid => 0x006 | .dieid => 0x007 | .partid => 0x008 | .launchid => 0x009 | .vnear => 0x00A
  | .arg i => (0x01 : BitVec 6) ++ i
  | .cycle => 0x020 | .energy => 0x021
  | .disc => 0x030 | .mapdrop => 0x031 | .stray => 0x032 | .runcut => 0x033
  | .cpbatch => 0x040 | .mxbatch => 0x041 | .batchstat => 0x042
  | .idem => 0x050 | .handler => 0x060 | .absvec => 0x061 | .trapcode => 0x062 | .trappc => 0x063
  | .status => 0x070
  | .partcfg => 0x200 | .ebudget => 0x201 | .prio => 0x202 | .pegquota => 0x203 | .shadowbase => 0x204
  | .chweight i => (0x21 : BitVec 6) ++ i

/-- The special registers that are no array element. -/
def plainSRegs : List SReg :=
  [.strandid, .frameid, .framesize, .laneext, .spanw, .coreid, .clusterid, .dieid, .partid, .launchid, .vnear,
   .cycle, .energy, .disc, .mapdrop, .stray, .runcut, .cpbatch, .mxbatch, .batchstat, .idem, .handler, .absvec,
   .trapcode, .trappc, .status, .partcfg, .ebudget, .prio, .pegquota, .shadowbase]

/-- A special-register number; an unassigned one is refused (R110, R113). -/
def sregOf (n : BitVec 10) : Except FetchErr SReg :=
  if n.extractLsb' 4 6 = 0x01 then .ok (.arg (n.extractLsb' 0 4))
  else if n.extractLsb' 4 6 = 0x21 then .ok (.chweight (n.extractLsb' 0 4))
  else match plainSRegs.find? (fun r => r.number == n) with
    | some r => .ok r
    | none => .error .illegalOperand

/-- One bit of a variant. -/
def bit4 (b : Bool) (i : Nat) : BitVec 4 := if b then BitVec.ofNat 4 (2 ^ i) else 0

/-- The extension word of an instruction that has one of 32 bits. -/
def Ext.imm32 : Ext → W32
  | .w32 v => v
  | _ => 0

/-- The extension of an instruction of 128 bits. -/
def Ext.imm64 : Ext → W64
  | .w64 v => v
  | _ => 0

/-- Bits [127:64] of CPY (R242). -/
structure CpyExt where
  ctr : BitVec 16
  ce : Bool
  crm : Bool
  db : BitVec 6
  ds : BitVec 6
  sb : BitVec 6
  ss : BitVec 6
  dk : BitVec 3
  sk : BitVec 2
deriving DecidableEq, Repr

/-- CPY's fields as bits [127:64]. -/
def CpyExt.bits (e : CpyExt) : W64 :=
  e.ctr ++ BitVec.ofBool e.ce ++ BitVec.ofBool e.crm ++ e.db ++ e.ds ++ e.sb ++ e.ss ++ e.dk ++ e.sk ++ (0 : BitVec 17)

/-- CPY's fields from bits [127:64]. -/
def CpyExt.parse (w : W64) : CpyExt :=
  { ctr := w.extractLsb' 48 16, ce := w.getLsbD 47, crm := w.getLsbD 46, db := w.extractLsb' 40 6, ds := w.extractLsb' 34 6,
    sb := w.extractLsb' 28 6, ss := w.extractLsb' 22 6, dk := w.extractLsb' 19 3, sk := w.extractLsb' 17 2 }

/-- Bits [127:64] of CPGATHER (R248). -/
structure GatherExt where
  ctr : BitVec 16
  ce : Bool
  sb : BitVec 6
  ss : BitVec 6
  str : BitVec 6
  ro : BitVec 6
  wl : BitVec 4
deriving DecidableEq, Repr

/-- CPGATHER's fields as bits [127:64]. -/
def GatherExt.bits (e : GatherExt) : W64 :=
  e.ctr ++ BitVec.ofBool e.ce ++ (0 : BitVec 1) ++ e.sb ++ e.ss ++ e.str ++ e.ro ++ e.wl ++ (0 : BitVec 18)

/-- CPGATHER's fields from bits [127:64]. -/
def GatherExt.parse (w : W64) : GatherExt :=
  { ctr := w.extractLsb' 48 16, ce := w.getLsbD 47, sb := w.extractLsb' 40 6, ss := w.extractLsb' 34 6,
    str := w.extractLsb' 28 6, ro := w.extractLsb' 22 6, wl := w.extractLsb' 18 4 }

/-- Operand B of the scalar layout (R44): BI, Sb, IMM30. -/
def SOpB.code : SOpB → Bool × BitVec 6 × BitVec 30
  | .reg r => (false, r, 0)
  | .imm v => (true, 0, v)

/-- The near spaces of CPY's DK and SK (R242). -/
def Space.kind3 (s : Space) : BitVec 3 := (0 : BitVec 1) ++ s.code

/-- SUB of an instruction of the saturation class: bit [14] (R50). -/
def satSub (sat : Bool) : BitVec 4 := bit4 sat 3

/-- Three operands of the common layout with type and qualifier. -/
def v3F (op : Opc) (k : Marks) (sub : BitVec 4) (t : Ty) (x y z : VCode) (m : MCode) : VFields :=
  { op := op, k := k, sub := sub, ty := t.code, x := x, y := y, z := z, m := m }

/-- Two operands of the common layout with type and qualifier. -/
def v2F (op : Opc) (k : Marks) (sub : BitVec 4) (t : Ty) (x y : VCode) (m : MCode) : VFields :=
  { op := op, k := k, sub := sub, ty := t.code, x := x, y := y, m := m }

/-- A scalar-layout instruction with operand B. -/
def sF (op : Opc) (k : Marks) (sub : BitVec 4) (d a : BitVec 6) (b : SOpB) : SFields :=
  { op := op, k := k, sub := sub, sd := d, sa := a, bi := b.code.1, sb := b.code.2.1, imm := b.code.2.2 }

/-- A near access (R171, R172). -/
def nearF (op : Opc) (k : Marks) (sub : BitVec 4) (t : Ty) (o : Ordn) (sc : Scope) (sp : Space) (x y z : BitVec 7) (m : MCode)
    (imm10 : BitVec 10) (imm : W32) : VFields :=
  { op := op, k := k, sub := sub, ty := t.code, ord := o.code, sc := sc.code, sp := sp.code, x := x, y := y, z := z, m := m,
    imm := imm10, ext := .w32 imm }

/-- The destination fields of CPY: X, DK, DB, DS (R242). -/
def CpyDst.code : CpyDst → VCode × BitVec 3 × BitVec 6 × BitVec 6
  | .near sp b x => (x, sp.kind3, b, 0)
  | .far b s x => (x, 3, base6 b, s)
  | .queue q => ((0x1E : BitVec 5) ++ q, 4, 0, 0)

/-- The source fields of CPY: SK, SB, SS (R242). -/
def CpySrc.code : CpySrc → BitVec 2 × BitVec 6 × BitVec 6
  | .near sp b => (sp.code, b, 0)
  | .far b s => (3, base6 b, s)

/-- The counter fields of CPY: CTR, CE, CRM (R242). -/
def ctrCode : Option (BitVec 16 × Bool) → BitVec 16 × Bool × Bool
  | none => (0, false, false)
  | some (c, r) => (c, true, r)

/-- The source fields of CPGATHER: SUB, SB, SS (R248). -/
def GatherSrc.code : GatherSrc → BitVec 4 × BitVec 6 × BitVec 6
  | .far b s => (0, base6 b, s)
  | .vault b => (1, b, 0)
  | .spad b => (2, b, 0)

/-- The source fields of OVLD: SUB, X, SP (R227). -/
def OvldSrc.code : OvldSrc → BitVec 4 × BitVec 7 × BitVec 2
  | .far b => (0, base7 b, 0)
  | .vault => (1, 0, 2)

/-- The variant fields of SHFL: SUB, Z, IMM10 (R103). -/
def ShflKind.code : ShflKind → BitVec 4 × VCode × BitVec 10
  | .idx z => (0, z, 0)
  | .up n => (1, 0, n)
  | .down n => (2, 0, n)
  | .xor n => (3, 0, n)

/-- The condition fields of BRA: SUB, K (R143). -/
def BraCond.code : BraCond → BitVec 4 × BitVec 7
  | .always => (0, 0)
  | .z s => (1, scal s)
  | .nz s => (2, scal s)
  | .none p => (3, p)
  | .any p => (4, p)

/-- The fields of an instruction, each where its encoding table puts it; the events have no encoding. -/
def toFields : Instr → Option Fields
  | .nop k hint => some (.n k hint)
  | .if_ k p off => some (.c { op := .if_, k := k, kk := p, off := off })
  | .else_ k off => some (.c { op := .else_, k := k, off := off })
  | .endif k => some (.v { op := .endif, k := k })
  | .loop k off => some (.c { op := .loop, k := k, off := off })
  | .brk k y => some (.v { op := .brk, k := k, y := y })
  | .cont k y => some (.v { op := .cont, k := k, y := y })
  | .endloop k off => some (.c { op := .endloop, k := k, off := off })
  | .bra k c off => some (.c { op := .bra, k := k, sub := c.code.1, kk := c.code.2, off := off })
  | .call k off => some (.c { op := .call, k := k, off := off })
  | .ocall k sk off => some (.c { op := .ocall, k := k, kk := scal sk, off := off })
  | .ret k => some (.v { op := .ret, k := k })
  | .rett k => some (.v { op := .ret, k := k, sub := 1 })
  | .exit k => some (.v { op := .exit, k := k })
  | .trap k n => some (.v { op := .trap, k := k, imm := n })
  | .bkpt k n => some (.v { op := .trap, k := k, sub := 1, imm := n })
  | .spawn k sp y z q imm =>
    some (.v { op := .spawn, k := k, sp := sp.code, y := scal y, z := scal z, imm := (0 : BitVec 7) ++ q, ext := .w32 imm })
  | .opinPin k y j => some (.v { op := .opin, k := k, y := scal y, imm := (0 : BitVec 4) ++ j })
  | .opinUnpin k y j => some (.v { op := .opin, k := k, sub := 1, y := scal y, imm := (0 : BitVec 4) ++ j })
  | .opinQuery k x y j => some (.v { op := .opin, k := k, sub := 2, x := scal x, y := scal y, imm := (0 : BitVec 4) ++ j })
  | .pand k x y z m => some (.v { op := .plog, k := k, x := x, y := y, z := z, m := m })
  | .por k x y z m => some (.v { op := .plog, k := k, sub := 1, x := x, y := y, z := z, m := m })
  | .pxor k x y z m => some (.v { op := .plog, k := k, sub := 2, x := x, y := y, z := z, m := m })
  | .pandn k x y z m => some (.v { op := .plog, k := k, sub := 3, x := x, y := y, z := z, m := m })
  | .pnot k x y m => some (.v { op := .plog, k := k, sub := 4, x := x, y := y, m := m })
  | .pmov k x y m => some (.v { op := .plog, k := k, sub := 5, x := x, y := y, m := m })
  | .pfirst k x y z n m => some (.v { op := .pfirst, k := k, x := x, y := y, z := scal z, imm := n, m := m })
  | .prange k x y z n m => some (.v { op := .pfirst, k := k, sub := 1, x := x, y := scal y, z := scal z, imm := n, m := m })
  | .pmap k x y m => some (.v { op := .pmap, k := k, x := x, y := y, m := m })
  | .pcnt k x y m => some (.v { op := .pcnt, k := k, x := scal x, y := y, m := m })
  | .pfind k x y z n m => some (.v { op := .pfind, k := k, x := scal x, y := y, z := scal z, imm := n, m := m })
  | .elect k x y m => some (.v { op := .elect, k := k, x := x, y := y, m := m })
  | .thin k t x y z m => some (.v (v3F .thin k 0 t x y z m))
  | .merge k t x y z m => some (.v (v3F .merge k 0 t x y z m))
  | .pget k x y z n => some (.v { op := .pword, k := k, x := scal x, y := y, z := scal z, imm := n })
  | .pput k x y z n => some (.v { op := .pword, k := k, sub := 1, x := x, y := scal y, z := scal z, imm := n })
  | .pspan k x y m => some (.v { op := .pspan, k := k, x := scal x, y := y, m := m })
  | .add k t sat x y z m => some (.v (v3F .add k (satSub sat) t x y z m))
  | .sub k t sat x y z m => some (.v (v3F .sub k (satSub sat) t x y z m))
  | .mul k t sat x y z m => some (.v (v3F .mul k (satSub sat) t x y z m))
  | .mulh k t x y z m => some (.v (v3F .mulh k 0 t x y z m))
  | .mad k t sat x y z w m => some (.v { v3F .mad k (satSub sat) t x y z m with ext := .w32 ((0 : BitVec 25) ++ w) })
  | .min k t x y z m => some (.v (v3F .min k 0 t x y z m))
  | .max k t x y z m => some (.v (v3F .max k 0 t x y z m))
  | .neg k t sat x y m => some (.v (v2F .neg k (satSub sat) t x y m))
  | .and_ k t x y z m => some (.v (v3F .and_ k 0 t x y z m))
  | .or_ k t x y z m => some (.v (v3F .or_ k 0 t x y z m))
  | .xor_ k t x y z m => some (.v (v3F .xor_ k 0 t x y z m))
  | .not_ k t x y m => some (.v (v2F .not_ k 0 t x y m))
  | .shl k t x y z m => some (.v (v3F .shl k 0 t x y z m))
  | .shr k t x y z m => some (.v (v3F .shr k 0 t x y z m))
  | .popc k x y m => some (.v (v2F .popc k 0 .b32 x y m))
  | .clz k x y m => some (.v (v2F .clz k 0 .b32 x y m))
  | .bfx k t x y z m => some (.v (v3F .bfx k 0 t x y z m))
  | .bfi k x y z w m => some (.v { v3F .bfi k 0 .b32 x y z m with ext := .w32 ((0 : BitVec 25) ++ w) })
  | .cmp k t cc x pe y z m => some (.v { v3F .cmp k cc.code t x y z m with imm := (0 : BitVec 3) ++ pe })
  | .sel k t x y z pc m => some (.v { v3F .sel k 0 t x y z m with imm := (0 : BitVec 3) ++ pc })
  | .movi k t x m imm => some (.v { op := .movi, k := k, ty := t.code, x := x, m := m, ext := .w32 imm })
  | .mov k t x y m => some (.v (v2F .mov k 0 t x y m))
  | .laneid k x m => some (.v { op := .laneid, k := k, x := x, m := m })
  | .bcast k t x y m => some (.v { op := .bcast, k := k, ty := t.code, x := x, y := scal y, m := m })
  | .cvt k src t x y m => some (.v (v2F .cvt k src.code t x y m))
  | .shfl k v x y m =>
    some (.v { op := .shfl, k := k, sub := v.code.1, x := x, y := y, z := v.code.2.1, imm := v.code.2.2, m := m })
  | .red k op t x y m => some (.v { op := .red, k := k, sub := op.code, ty := t.code, x := scal x, y := y, m := m })
  | .redidx k mx t x y m => some (.v { op := .redidx, k := k, sub := bit4 mx 0, ty := t.code, x := scal x, y := y, m := m })
  | .scan k op t x y m => some (.v (v2F .scan k op.code t x y m))
  | .rank k t x y m => some (.v (v2F .rank k 0 t x y m))
  | .vget k t x y z n m => some (.v { op := .vget, k := k, ty := t.code, x := scal x, y := y, z := scal z, imm := n, m := m })
  | .vput k t x y z m imm =>
    some (.v { op := .vput, k := k, ty := t.code, x := x, y := scal y, z := scal z, m := m, ext := .w32 imm })
  | .fadd k t x y z m => some (.v (v3F .fadd k 0 t x y z m))
  | .fsub k t x y z m => some (.v (v3F .fsub k 0 t x y z m))
  | .fmul k t x y z m => some (.v (v3F .fmul k 0 t x y z m))
  | .fma k t x y z w m => some (.v { v3F .fma k 0 t x y z m with ext := .w32 ((0 : BitVec 25) ++ w) })
  | .fmin k t x y z m => some (.v (v3F .fmin k 0 t x y z m))
  | .fmax k t x y z m => some (.v (v3F .fmax k 0 t x y z m))
  | .fneg k t x y m => some (.v (v2F .fsgn k 0 t x y m))
  | .fabs k t x y m => some (.v (v2F .fsgn k 1 t x y m))
  | .fcopysign k t x y z m => some (.v (v3F .fsgn k 2 t x y z m))
  | .fcmp k t cc x pe y z m => some (.v { v3F .fcmp k cc.code t x y z m with imm := (0 : BitVec 3) ++ pe })
  | .frcp k t x y m => some (.v (v2F .frcp k 0 t x y m))
  | .frsq k t x y m => some (.v (v2F .frsq k 0 t x y m))
  | .fsqrt k t x y m => some (.v (v2F .fsqrt k 0 t x y m))
  | .fexp2 k t x y m => some (.v (v2F .fexp2 k 0 t x y m))
  | .flog2 k t x y m => some (.v (v2F .flog2 k 0 t x y m))
  | .fdiv k t x y z m => some (.v (v3F .fdiv k 0 t x y z m))
  | .sadd k d a b => some (.s (sF .salu k 0 d a b))
  | .ssub k d a b => some (.s (sF .salu k 1 d a b))
  | .sand k d a b => some (.s (sF .salu k 2 d a b))
  | .sor k d a b => some (.s (sF .salu k 3 d a b))
  | .sxor k d a b => some (.s (sF .salu k 4 d a b))
  | .sshl k d a b => some (.s (sF .salu k 5 d a b))
  | .sshr k d a b => some (.s (sF .salu k 6 d a b))
  | .ssar k d a b => some (.s (sF .salu k 7 d a b))
  | .smin k d a b => some (.s (sF .salu k 8 d a b))
  | .smax k d a b => some (.s (sF .salu k 9 d a b))
  | .smul k d a b => some (.s (sF .smul k 0 d a b))
  | .scmp k cc d a b => some (.s (sF .scmp k cc.code d a b))
  | .sli k d imm => some (.s { op := .sli, k := k, sd := d, ext := .w64 imm })
  | .bset k d a b => some (.s (sF .bop k 0 (base6 d) a b))
  | .badd k d a b => some (.s (sF .bop k 1 (base6 d) (base6 a) b))
  | .bget k d a h => some (.s { op := .bop, k := k, sub := 2, sd := d, sa := base6 a, bi := true, imm := if h then 1 else 0 })
  | .mfs k d n => some (.s { op := .mfs, k := k, sd := d, bi := true, imm := (0 : BitVec 20) ++ n.number })
  | .mts k n a => some (.s { op := .mts, k := k, sa := a, bi := true, imm := (0 : BitVec 20) ++ n.number })
  | .setf k d a b => some (.s (sF .setf k 0 d a b))
  | .setg k d b => some (.s (sF .setg k 0 d 0 b))
  | .ld k t o sc sp x y z m imm => some (.v (nearF .ld k 0 t o sc sp x (scal y) z m 0 imm))
  | .lds k t o sc sp x y imm => some (.v (nearF .lds k 0 t o sc sp (scal x) (scal y) 0 0 0 imm))
  | .st k t o sc sp x y z m imm => some (.v (nearF .st k 0 t o sc sp x (scal y) z m 0 imm))
  | .sts k t o sc sp x y imm => some (.v (nearF .sts k 0 t o sc sp (scal x) (scal y) 0 0 0 imm))
  | .atom k op t o sc sp res x y z vs m imm =>
    some (.v (nearF .atom k op.code t o sc sp x (scal y) z m ((0 : BitVec 2) ++ BitVec.ofBool res ++ vs) imm))
  | .atoms k op t o sc sp x y z e imm =>
    some (.v (nearF .atoms k op.code t o sc sp (scal x) (scal y) (scal z) 0 ((0 : BitVec 4) ++ e) imm))
  | .fence k o sc => some (.v { op := .fence, k := k, ord := o.code, sc := sc.code })
  | .meet k form x j n => some (.v { op := .meet, k := k, sub := form.code, x := scal x, imm := (0 : BitVec 1) ++ n ++ j })
  | .ldb k sp x y i => some (.v { op := .ldb, k := k, sp := sp.code, x := base7 x, y := scal y, imm := i })
  | .stb k sp x y i => some (.v { op := .ldb, k := k, sub := 1, sp := sp.code, x := base7 x, y := scal y, imm := i })
  | .pldm k sp x y i => some (.v { op := .pldm, k := k, sp := sp.code, x := x, y := scal y, imm := i })
  | .pstm k sp x y i => some (.v { op := .pldm, k := k, sub := 1, sp := sp.code, x := x, y := scal y, imm := i })
  | .cpy k size o sc dst src y m ctr =>
    some (.v { op := .cpy, k := k, sub := size.code, ord := o.code, sc := sc.code, x := dst.code.1, y := y, m := m,
               ext := .w64 (CpyExt.bits ⟨(ctrCode ctr).1, (ctrCode ctr).2.1, (ctrCode ctr).2.2, dst.code.2.2.1, dst.code.2.2.2,
                 src.code.2.1, src.code.2.2, dst.code.2.1, src.code.1⟩) })
  | .cpgather k src o sc sp x y z str ro wl m ctr =>
    some (.v { op := .cpgather, k := k, sub := src.code.1, ord := o.code, sc := sc.code, sp := sp.code, x := scal x, y := y,
               z := scal z, m := m,
               ext := .w64 (GatherExt.bits ⟨ctr.getD 0, ctr.isSome, src.code.2.1, src.code.2.2, str, ro, wl⟩) })
  | .sort k o sc sp x y z tb km1 =>
    some (.v { op := .sort, k := k, ord := o.code, sc := sc.code, sp := sp.code, x := scal x, y := scal y, z := scal z,
               ext := .w32 (km1 ++ (0 : BitVec 10) ++ tb) })
  | .bclose k mx x => some (.v { op := .bclose, k := k, sub := bit4 mx 0, x := scal x })
  | .wait k vis mx trp x y =>
    some (.v { op := .wait, k := k, sub := (0 : BitVec 1) ++ BitVec.ofBool trp ++ BitVec.ofBool mx ++ BitVec.ofBool vis,
               x := scal x, y := scal y })
  | .ovld k src o sc y z ss slot idi cnt =>
    some (.v { op := .ovld, k := k, sub := src.code.1, ord := o.code, sc := sc.code, sp := src.code.2.2, x := src.code.2.1,
               y := scal y, z := scal z, ext := .w64 ((0 : BitVec 24) ++ cnt ++ slot ++ ss ++ idi) })
  | .depDec k y n => some (.v { op := .dep, k := k, y := scal y, imm := n })
  | .depAdd k y n z => some (.v { op := .dep, k := k, sub := 1, y := scal y, z := scal z, imm := n })
  | .depRead k x y n => some (.v { op := .dep, k := k, sub := 2, x := scal x, y := scal y, imm := n })
  | .tinv k x y z => some (.v { op := .tinv, k := k, x := base7 x, y := scal y, z := scal z })
  | .malloc k x y n => some (.v { op := .malloc, k := k, x := scal x, y := scal y, imm := (0 : BitVec 5) ++ n })
  | .mfree k y => some (.v { op := .mfree, k := k, y := scal y })
  | .mma k t maj gng o sc sp x y z m kb sk spl sm rs =>
    some (.v { op := .mma, k := k, sub := (0 : BitVec 2) ++ BitVec.ofBool gng ++ BitVec.ofBool maj, ty := t.code, ord := o.code,
               sc := sc.code, sp := sp.code, x := scal x, y := scal y, z := z, m := m, imm := (0 : BitVec 6) ++ kb,
               ext := .w64 ((0 : BitVec 34) ++ rs ++ sm ++ spl ++ sk) })
  | .mzero k y kb => some (.v { op := .mzero, k := k, y := scal y, imm := (0 : BitVec 6) ++ kb })
  | .mrd k t x y z kb r m =>
    some (.v { op := .mrd, k := k, ty := t.code, x := x, y := scal y, z := scal z, m := m, imm := r ++ kb })
  | .mst k t o sc sp x y z sa kb rs =>
    some (.v { op := .mst, k := k, ty := t.code, ord := o.code, sc := sc.code, sp := sp.code, x := scal x, y := scal y,
               z := scal z, imm := (0 : BitVec 6) ++ kb, ext := .w32 ((0 : BitVec 10) ++ sa ++ rs) })
  | .xdisp k o sc x y z c =>
    some (.v { op := .xdisp, k := k, ord := o.code, sc := sc.code, x := scal x, y := scal y, z := scal z,
               imm := (0 : BitVec 4) ++ c })
  | .xpull k x y z a => some (.v { op := .xpull, k := k, x := scal x, y := scal y, z := scal z, imm := (0 : BitVec 4) ++ a })
  | .xctlSetbias k x y z => some (.v { op := .xctl, k := k, x := scal x, y := scal y, z := scal z })
  | .xctlFlip k x => some (.v { op := .xctl, k := k, sub := 1, x := scal x })
  | .xctlSnap k sp y z n => some (.v { op := .xctl, k := k, sub := 2, sp := sp.code, y := scal y, z := scal z, imm := n })
  | .xctlRepl k x y z => some (.v { op := .xctl, k := k, sub := 3, x := scal x, y := scal y, z := scal z })
  | .xctlPin k x y p => some (.v { op := .xctl, k := k, sub := 4, x := scal x, y := scal y, imm := if p then 1 else 0 })
  | .xctlEvict k x y => some (.v { op := .xctl, k := k, sub := 5, x := scal x, y := scal y })
  | .xctlDone k x y => some (.v { op := .xctl, k := k, sub := 6, x := scal x, y := scal y })
  | .xctlClose k c => some (.v { op := .xctl, k := k, sub := 7, imm := if c then 1 else 0 })
  | .xbias k x y m => some (.v (v2F .xbias k 0 .f32 x y m))
  | .returnArrival _ _ _ => none
  | .scalarReturn _ _ _ => none
  | .storeQueueLeave _ => none
  | .spawnAppend _ => none
  | .writeArrival _ _ => none
  | .atomicStep _ _ => none
  | .qEntryReady _ _ => none
  | .registerRestored _ _ => none
  | .copyTransfer _ _ _ _ _ => none
  | .sortComplete _ _ => none
  | .tinvStart _ _ => none
  | .tinvComplete _ _ => none
  | .walkComplete _ _ _ _ _ => none
  | .ovldComplete _ _ _ => none
  | .admissionLoadComplete _ _ => none
  | .matrixCommit _ => none
  | .mrdExecute _ => none
  | .mstWrite _ => none
  | .mallocGrant _ => none
  | .engineHang _ => none
  | .runArbitration _ => none
  | .recordHeadCheck _ _ => none
  | .counterTrigger _ _ => none
  | .frameCountRead _ _ _ => none
  | .frameAdmit _ _ _ _ _ => none
  | .successorBirth _ => none
  | .deferredFillGrant _ => none
  | .fillComplete _ _ => none
  | .fillFail _ _ _ => none
  | .evictionEnd _ _ => none
  | .replicaComplete _ _ => none
  | .xpullPop _ => none
  | .remoteSignal _ _ => none
  | .peerAccess _ _ _ _ => none
  | .hostWindowAccess _ _ _ _ => none
  | .tailDoorbell _ _ _ => none
  | .headWrite _ _ _ => none
  | .haltClear _ _ => none
  | .ertConfigWrite _ _ _ => none
  | .retry _ _ => none
  | .consWrite _ _ _ => none
  | .registerWrite _ _ _ => none
  | .create _ _ _ => none
  | .destroy _ _ => none
  | .preempt _ _ => none
  | .freezeComplete _ => none
  | .resume _ _ _ => none
  | .readSign _ _ => none
  | .quote _ _ _ => none
  | .engineReset _ _ => none
  | .warmReset _ => none
  | .status _ => none
  | .cert _ => none
  | .powerGood => none
  | .stage1 _ => none
  | .energyEpochEnd _ => none
  | .energyRefresh _ => none
  | .class3Window => none
  | .droopDetect _ => none
  | .droopEnd _ => none
  | .clockHop _ _ => none
  | .clockPatternChange _ _ => none
  | .errorDetected _ _ _ _ => none
  | .selfTestDone _ _ _ => none
  | .braceCompare _ => none
  | .fetchFault _ => none
  | .masterCycle _ => none
  | .coldReset => none
  | .powerLoss => none
  | .creditReturn _ => none

/-- The saturation bit of SUB (R50). -/
def satOf (sub : BitVec 4) : Bool := sub.getLsbD 3

/-- Operand B of a scalar-layout word (R44). -/
def sopB (f : SFields) : SOpB := if f.bi then .imm f.imm else .reg f.sb

/-- A three-operand lane instruction. -/
def un3 (f : VFields) (c : Ty → VCode → VCode → VCode → MCode → Instr) : Except FetchErr Instr := do
  let t ← tyOf f.ty
  return c t f.x f.y f.z f.m

/-- A two-operand lane instruction. -/
def un2 (f : VFields) (c : Ty → VCode → VCode → MCode → Instr) : Except FetchErr Instr := do
  let t ← tyOf f.ty
  return c t f.x f.y f.m

/-- The classes of a near access (R172). -/
def unNear (f : VFields) (c : Ty → Ordn → Scope → Space → Instr) : Except FetchErr Instr := do
  let t ← tyOf f.ty
  let sc ← scopeOf f.sc
  let sp ← spaceOf f.sp
  return c t (ordOf f.ord) sc sp

/-- The destination of CPY (R242, R243). -/
def cpyDstOf (x : VCode) (e : CpyExt) : Except FetchErr CpyDst :=
  if e.dk = 3 then do
    let b ← base6Of e.db
    return .far b e.ds x
  else if e.dk = 4 then
    if x.extractLsb' 2 5 = 0x1E then .ok (.queue (x.extractLsb' 0 2)) else .error .illegalOperand
  else if e.dk.toNat < 3 then do
    let sp ← spaceOf (e.dk.extractLsb' 0 2)
    return .near sp e.db x
  else .error .illegalOperand

/-- The source of CPY (R242, R243). -/
def cpySrcOf (e : CpyExt) : Except FetchErr CpySrc :=
  if e.sk = 3 then do
    let b ← base6Of e.sb
    return .far b e.ss
  else do
    let sp ← spaceOf e.sk
    return .near sp e.sb

/-- The counter of CPY; CRM without CE is refused (R243). -/
def ctrOf (e : CpyExt) : Except FetchErr (Option (BitVec 16 × Bool)) :=
  if e.ce then .ok (some (e.ctr, e.crm)) else if e.crm then .error .illegalOperand else .ok none

/-- The instruction of a common-layout word: steps 5 and 6 of R53 as far as a code selects a variant, a type, a scope, a space or a register class. An argument that the form does not use is left 0. -/
def ofV (f : VFields) : Except FetchErr Instr :=
  match f.op with
  | .endif => do
    plain f.sub
    return .endif f.k
  | .brk => do
    plain f.sub
    return .brk f.k f.y
  | .cont => do
    plain f.sub
    return .cont f.k f.y
  | .ret => variant [.ret f.k, .rett f.k] f.sub
  | .exit => do
    plain f.sub
    return .exit f.k
  | .trap => variant [.trap f.k f.imm, .bkpt f.k f.imm] f.sub
  | .spawn => do
    let sp ← spaceOf f.sp
    let y ← scalOf f.y
    let z ← scalOf f.z
    return .spawn f.k sp y z (f.imm.extractLsb' 0 3) f.ext.imm32
  | .opin => do
    let v ← variant [0, 1, 2] f.sub
    let y ← scalOf f.y
    let j := f.imm.extractLsb' 0 6
    if v = 0 then return .opinPin f.k y j
    else if v = 1 then return .opinUnpin f.k y j
    else
      let x ← scalOf f.x
      return .opinQuery f.k x y j
  | .plog => 
    variant [.pand f.k f.x f.y f.z f.m, .por f.k f.x f.y f.z f.m, .pxor f.k f.x f.y f.z f.m,
      .pandn f.k f.x f.y f.z f.m, .pnot f.k f.x f.y f.m, .pmov f.k f.x f.y f.m] f.sub
  | .pfirst => do
    let v ← variant [0, 1] f.sub
    let z ← scalOf f.z
    if v = 0 then return .pfirst f.k f.x f.y z f.imm f.m
    else
      let y ← scalOf f.y
      return .prange f.k f.x y z f.imm f.m
  | .pmap => return .pmap f.k f.x f.y f.m
  | .pcnt => do
    let x ← scalOf f.x
    return .pcnt f.k x f.y f.m
  | .pfind => do
    let x ← scalOf f.x
    let z ← scalOf f.z
    return .pfind f.k x f.y z f.imm f.m
  | .elect => return .elect f.k f.x f.y f.m
  | .thin => un3 f (.thin f.k)
  | .merge => un3 f (.merge f.k)
  | .pword => do
    let v ← variant [0, 1] f.sub
    let z ← scalOf f.z
    if v = 0 then
      let x ← scalOf f.x
      return .pget f.k x f.y z f.imm
    else
      let y ← scalOf f.y
      return .pput f.k f.x y z f.imm
  | .pspan => do
    let x ← scalOf f.x
    return .pspan f.k x f.y f.m
  | .add => un3 f (fun t => .add f.k t (satOf f.sub))
  | .sub => un3 f (fun t => .sub f.k t (satOf f.sub))
  | .mul => un3 f (fun t => .mul f.k t (satOf f.sub))
  | .mulh => un3 f (.mulh f.k)
  | .mad => un3 f (fun t x y z m => .mad f.k t (satOf f.sub) x y z (f.ext.imm32.extractLsb' 0 7) m)
  | .min => un3 f (.min f.k)
  | .max => un3 f (.max f.k)
  | .neg => un2 f (fun t => .neg f.k t (satOf f.sub))
  | .and_ => un3 f (.and_ f.k)
  | .or_ => un3 f (.or_ f.k)
  | .xor_ => un3 f (.xor_ f.k)
  | .not_ => un2 f (.not_ f.k)
  | .shl => un3 f (.shl f.k)
  | .shr => un3 f (.shr f.k)
  | .popc => do
    only f.ty Ty.b32.code
    return .popc f.k f.x f.y f.m
  | .clz => do
    only f.ty Ty.b32.code
    return .clz f.k f.x f.y f.m
  | .bfx => un3 f (.bfx f.k)
  | .bfi => do
    only f.ty Ty.b32.code
    return .bfi f.k f.x f.y f.z (f.ext.imm32.extractLsb' 0 7) f.m
  | .cmp => do
    let cc ← variant allICond f.sub
    un3 f (fun t x y z m => .cmp f.k t cc x (f.imm.extractLsb' 0 7) y z m)
  | .sel => un3 f (fun t x y z m => .sel f.k t x y z (f.imm.extractLsb' 0 7) m)
  | .movi => do
    let t ← tyOf f.ty
    return .movi f.k t f.x f.m
      (match t with
        | .bf16 | .f16 => (0 : BitVec 16) ++ f.ext.imm32.extractLsb' 0 16
        | _ => f.ext.imm32)
  | .mov => un2 f (.mov f.k)
  | .laneid => return .laneid f.k f.x f.m
  | .bcast => do
    let t ← tyOf f.ty
    let y ← scalOf f.y
    return .bcast f.k t f.x y f.m
  | .cvt => do
    let src ← variant allCvtSrc f.sub
    un2 f (.cvt f.k src)
  | .shfl => do
    let v ← variant [ShflKind.idx f.z, .up f.imm, .down f.imm, .xor f.imm] f.sub
    return .shfl f.k v f.x f.y f.m
  | .red => do
    let op ← variant allRedOp f.sub
    let t ← tyOf f.ty
    let x ← scalOf f.x
    return .red f.k op t x f.y f.m
  | .redidx => do
    let mx ← variant [false, true] f.sub
    let t ← tyOf f.ty
    let x ← scalOf f.x
    return .redidx f.k mx t x f.y f.m
  | .scan => do
    let op ← variant allScanOp f.sub
    un2 f (.scan f.k op)
  | .rank => do
    plain f.sub
    un2 f (.rank f.k)
  | .vget => do
    plain f.sub
    let t ← tyOf f.ty
    let x ← scalOf f.x
    let z ← scalOf f.z
    return .vget f.k t x f.y z f.imm f.m
  | .vput => do
    plain f.sub
    let t ← tyOf f.ty
    let y ← scalOf f.y
    let z ← scalOf f.z
    return .vput f.k t f.x y z f.m f.ext.imm32
  | .fadd => un3 f (.fadd f.k)
  | .fsub => un3 f (.fsub f.k)
  | .fmul => un3 f (.fmul f.k)
  | .fma => un3 f (fun t x y z m => .fma f.k t x y z (f.ext.imm32.extractLsb' 0 7) m)
  | .fmin => un3 f (.fmin f.k)
  | .fmax => un3 f (.fmax f.k)
  | .fsgn => do
    let v ← variant [0, 1, 2] f.sub
    if v = 0 then un2 f (.fneg f.k) else if v = 1 then un2 f (.fabs f.k) else un3 f (.fcopysign f.k)
  | .fcmp => do
    let cc ← variant allFCond f.sub
    un3 f (fun t x y z m => .fcmp f.k t cc x (f.imm.extractLsb' 0 7) y z m)
  | .frcp => un2 f (.frcp f.k)
  | .frsq => un2 f (.frsq f.k)
  | .fsqrt => un2 f (.fsqrt f.k)
  | .fexp2 => un2 f (.fexp2 f.k)
  | .flog2 => un2 f (.flog2 f.k)
  | .fdiv => un3 f (.fdiv f.k)
  | .ld => do
    plain f.sub
    let y ← scalOf f.y
    unNear f (fun t o sc sp => .ld f.k t o sc sp f.x y f.z f.m f.ext.imm32)
  | .lds => do
    plain f.sub
    let x ← scalOf f.x
    let y ← scalOf f.y
    unNear f (fun t o sc sp => .lds f.k t o sc sp x y f.ext.imm32)
  | .st => do
    plain f.sub
    let y ← scalOf f.y
    unNear f (fun t o sc sp => .st f.k t o sc sp f.x y f.z f.m f.ext.imm32)
  | .sts => do
    plain f.sub
    let x ← scalOf f.x
    let y ← scalOf f.y
    unNear f (fun t o sc sp => .sts f.k t o sc sp x y f.ext.imm32)
  | .atom => do
    let op ← variant allAtomOp f.sub
    let y ← scalOf f.y
    let res := f.imm.getLsbD 7
    unNear f (fun t o sc sp =>
      .atom f.k op t o sc sp res (if res then f.x else 0) y f.z (f.imm.extractLsb' 0 7) f.m f.ext.imm32)
  | .atoms => do
    let op ← variant allAtomOp f.sub
    let x ← scalOf f.x
    let y ← scalOf f.y
    let z ← scalOf f.z
    unNear f (fun t o sc sp => .atoms f.k op t o sc sp x y z (if op = .cas then f.imm.extractLsb' 0 6 else 0) f.ext.imm32)
  | .fence => do
    plain f.sub
    let sc ← scopeOf f.sc
    return .fence f.k (ordOf f.ord) sc
  | .meet => do
    let form ← variant allMeetForm f.sub
    let x ← scalOf f.x
    return .meet f.k form x (f.imm.extractLsb' 0 4) (f.imm.extractLsb' 4 5)
  | .ldb => do
    let store ← variant [false, true] f.sub
    let sp ← spaceOf f.sp
    let x ← base7Of f.x
    let y ← scalOf f.y
    return if store then .stb f.k sp x y f.imm else .ldb f.k sp x y f.imm
  | .pldm => do
    let store ← variant [false, true] f.sub
    let sp ← spaceOf f.sp
    let y ← scalOf f.y
    return if store then .pstm f.k sp f.x y f.imm else .pldm f.k sp f.x y f.imm
  | .cpy => do
    let size ← variant allCpySize f.sub
    let sc ← scopeOf f.sc
    let e := CpyExt.parse f.ext.imm64
    let dst ← cpyDstOf f.x e
    let src ← cpySrcOf e
    let ctr ← ctrOf e
    return .cpy f.k size (ordOf f.ord) sc dst src f.y f.m ctr
  | .cpgather => do
    let v ← variant [0, 1, 2] f.sub
    let sc ← scopeOf f.sc
    let sp ← spaceOf f.sp
    let x ← scalOf f.x
    let z ← scalOf f.z
    let e := GatherExt.parse f.ext.imm64
    let ctr := if e.ce then some e.ctr else none
    if v = 0 then
      let b ← base6Of e.sb
      return .cpgather f.k (.far b e.ss) (ordOf f.ord) sc sp x f.y z e.str e.ro e.wl f.m ctr
    else
      return .cpgather f.k (if v = 1 then .vault e.sb else .spad e.sb) (ordOf f.ord) sc sp x f.y z e.str e.ro e.wl f.m ctr
  | .sort => do
    let sc ← scopeOf f.sc
    let sp ← spaceOf f.sp
    let x ← scalOf f.x
    let y ← scalOf f.y
    let z ← scalOf f.z
    return .sort f.k (ordOf f.ord) sc sp x y z (f.ext.imm32.extractLsb' 0 6) (f.ext.imm32.extractLsb' 16 16)
  | .bclose => do
    let mx ← variant [false, true] f.sub
    let x ← scalOf f.x
    return .bclose f.k mx x
  | .wait => do
    let _ ← variant [0, 1, 2, 3, 4, 5, 6, 7] f.sub
    let x ← scalOf f.x
    let y ← scalOf f.y
    return .wait f.k (f.sub.getLsbD 0) (f.sub.getLsbD 1) (f.sub.getLsbD 2) x y
  | .ovld => do
    let v ← variant [0, 1] f.sub
    only f.sp (if v = 0 then 0 else 2)
    let sc ← scopeOf f.sc
    let y ← scalOf f.y
    let z ← scalOf f.z
    let w := f.ext.imm64
    let rest := fun src => Instr.ovld f.k src (ordOf f.ord) sc y z (w.extractLsb' 24 6) (w.extractLsb' 30 6)
      (w.extractLsb' 0 24) (w.extractLsb' 36 4)
    if v = 0 then
      let b ← base7Of f.x
      return rest (.far b)
    else return rest .vault
  | .dep => do
    let v ← variant [0, 1, 2] f.sub
    let y ← scalOf f.y
    if v = 0 then return .depDec f.k y f.imm
    else if v = 1 then
      let z ← scalOf f.z
      return .depAdd f.k y f.imm z
    else
      let x ← scalOf f.x
      return .depRead f.k x y f.imm
  | .tinv => do
    let x ← base7Of f.x
    let y ← scalOf f.y
    let z ← scalOf f.z
    return .tinv f.k x y z
  | .malloc => do
    let x ← scalOf f.x
    let y ← scalOf f.y
    return .malloc f.k x y (f.imm.extractLsb' 0 5)
  | .mfree => do
    let y ← scalOf f.y
    return .mfree f.k y
  | .mma => do
    let _ ← variant [0, 1, 2, 3] f.sub
    let x ← scalOf f.x
    let y ← scalOf f.y
    let w := f.ext.imm64
    unNear f (fun t o sc sp => .mma f.k t (f.sub.getLsbD 0) (f.sub.getLsbD 1) o sc sp x y f.z f.m (f.imm.extractLsb' 0 4)
      (w.extractLsb' 0 6) (w.extractLsb' 6 6) (w.extractLsb' 12 6) (w.extractLsb' 18 12))
  | .mzero => do
    let y ← scalOf f.y
    return .mzero f.k y (f.imm.extractLsb' 0 4)
  | .mrd => do
    let t ← tyOf f.ty
    let y ← scalOf f.y
    let z ← scalOf f.z
    return .mrd f.k t f.x y z (f.imm.extractLsb' 0 4) (f.imm.extractLsb' 4 6) f.m
  | .mst => do
    let x ← scalOf f.x
    let y ← scalOf f.y
    let z ← scalOf f.z
    let w := f.ext.imm32
    unNear f (fun t o sc sp => .mst f.k t o sc sp x y z (w.extractLsb' 16 6) (f.imm.extractLsb' 0 4) (w.extractLsb' 0 16))
  | .xdisp => do
    let sc ← scopeOf f.sc
    let x ← scalOf f.x
    let y ← scalOf f.y
    let z ← scalOf f.z
    return .xdisp f.k (ordOf f.ord) sc x y z (f.imm.extractLsb' 0 6)
  | .xpull => do
    let x ← scalOf f.x
    let y ← scalOf f.y
    let z ← scalOf f.z
    return .xpull f.k x y z (f.imm.extractLsb' 0 6)
  | .xctl => do
    let v ← variant [0, 1, 2, 3, 4, 5, 6, 7] f.sub
    if v = 0 then
      let x ← scalOf f.x
      let y ← scalOf f.y
      let z ← scalOf f.z
      return .xctlSetbias f.k x y z
    else if v = 1 then
      let x ← scalOf f.x
      return .xctlFlip f.k x
    else if v = 2 then
      let sp ← spaceOf f.sp
      let y ← scalOf f.y
      let z ← scalOf f.z
      return .xctlSnap f.k sp y z f.imm
    else if v = 3 then
      let x ← scalOf f.x
      let y ← scalOf f.y
      let z ← scalOf f.z
      return .xctlRepl f.k x y z
    else if v = 7 then return .xctlClose f.k (f.imm.getLsbD 0)
    else
      let x ← scalOf f.x
      let y ← scalOf f.y
      return if v = 4 then .xctlPin f.k x y (f.imm.getLsbD 0) else if v = 5 then .xctlEvict f.k x y else .xctlDone f.k x y
  | .xbias => do
    only f.ty Ty.f32.code
    return .xbias f.k f.x f.y f.m
  | _ => .error .illegalOpcode

/-- The instruction of a control-layout word (R143, R230). -/
def ofC (f : CFields) : Except FetchErr Instr :=
  match f.op with
  | .if_ => do
    plain f.sub
    return .if_ f.k f.kk f.off
  | .else_ => do
    plain f.sub
    return .else_ f.k f.off
  | .loop => do
    plain f.sub
    return .loop f.k f.off
  | .endloop => do
    plain f.sub
    return .endloop f.k f.off
  | .call => do
    plain f.sub
    return .call f.k f.off
  | .bra => do
    let v ← variant [0, 1, 2, 3, 4] f.sub
    if v = 0 then return .bra f.k .always f.off
    else if v = 3 then return .bra f.k (.none f.kk) f.off
    else if v = 4 then return .bra f.k (.any f.kk) f.off
    else
      let s ← scalOf f.kk
      return .bra f.k (if v = 1 then .z s else .nz s) f.off
  | .ocall => do
    let s ← scalOf f.kk
    return .ocall f.k s f.off
  | _ => .error .illegalOpcode

/-- The instruction of a scalar-layout word (R110, R121, R210). -/
def ofS (f : SFields) : Except FetchErr Instr :=
  match f.op with
  | .salu => 
    variant [.sadd f.k f.sd f.sa (sopB f), .ssub f.k f.sd f.sa (sopB f), .sand f.k f.sd f.sa (sopB f),
      .sor f.k f.sd f.sa (sopB f), .sxor f.k f.sd f.sa (sopB f), .sshl f.k f.sd f.sa (sopB f), .sshr f.k f.sd f.sa (sopB f),
      .ssar f.k f.sd f.sa (sopB f), .smin f.k f.sd f.sa (sopB f), .smax f.k f.sd f.sa (sopB f)] f.sub
  | .smul => do
    plain f.sub
    return .smul f.k f.sd f.sa (sopB f)
  | .scmp => do
    let cc ← variant allSCond f.sub
    return .scmp f.k cc f.sd f.sa (sopB f)
  | .sli => do
    plain f.sub
    return .sli f.k f.sd f.ext.imm64
  | .bop => do
    let v ← variant [0, 1, 2] f.sub
    if v = 0 then
      let d ← base6Of f.sd
      return .bset f.k d f.sa (sopB f)
    else if v = 1 then
      let d ← base6Of f.sd
      let a ← base6Of f.sa
      return .badd f.k d a (sopB f)
    else
      let a ← base6Of f.sa
      if f.bi = false then .error .illegalOperand
      else if 1 < f.imm.toNat then .error .illegalOperand
      else return .bget f.k f.sd a (f.imm.getLsbD 0)
  | .mfs => do
    plain f.sub
    if f.bi = false then .error .illegalOperand
    else
      let n ← sregOf (f.imm.extractLsb' 0 10)
      return .mfs f.k f.sd n
  | .mts => do
    plain f.sub
    if f.bi = false then .error .illegalOperand
    else
      let n ← sregOf (f.imm.extractLsb' 0 10)
      return .mts f.k n f.sa
  | .setf => return .setf f.k f.sd f.sa (sopB f)
  | .setg => return .setg f.k f.sd (sopB f)
  | _ => .error .illegalOpcode

/-- The instruction that the fields of a word stand for. -/
def ofFields : Fields → Except FetchErr Instr
  | .n k hint => .ok (.nop k hint)
  | .v f => ofV f
  | .c f => ofC f
  | .s f => ofS f

/-- Steps 5 to 7 of R53 on the fields of a word: the variant and the codes, the operand rules, then the reserved bits, which are those that the encoder of the instruction found would not write. -/
def check (pair : Bool) (f : Fields) : Except FetchErr Instr :=
  match ofFields f with
  | .error e => .error e
  | .ok i => if WellFormed pair i = false then .error .illegalOperand
    else if toFields i = some f then .ok i else .error .reservedField

/-- The length of an instruction in 32-bit words (R36). -/
def Ext.words : Ext → Nat
  | .none => 2
  | .w32 _ => 3
  | .w64 _ => 4

/-- Steps 1 to 7 of R53 on the bits that stand at the program counter, `room` words before the end of their fetch block: the instruction and its length in words. Bits above the length are not looked at. -/
def decode (pair : Bool) (room : Nat) (w : BitVec 128) : Except FetchErr (Instr × Nat) :=
  let len : BitVec 2 := w.extractLsb' 0 2
  if len = 3 then .error .illegalEncoding
  else if room < len.toNat + 2 then .error .illegalEncoding
  else match opcodeOf (w.extractLsb' 4 7) with
    | none => .error .illegalOpcode
    | some op =>
      if op.len ≠ len then .error .illegalEncoding
      else match check pair (Fields.parse op (w.extractLsb' 0 64) (Ext.parse len (w.extractLsb' 64 64))) with
        | .error e => .error e
        | .ok i => .ok (i, len.toNat + 2)

/-- The bits of an instruction, bits [127:0], and its length in words; none for an event. -/
def encode (i : Instr) : Option (BitVec 128 × Nat) :=
  match toFields i with
  | some f => some (f.bits, f.ext.words)
  | none => none

/-- The instruction that the decoder reads from a word numbered as the operation table numbers it, at the start of a fetch block of a frame on a core pair; none where it refuses, and none for a FILL word (R37). -/
def decodeTableWord (_nbits w : Nat) : Option Instr :=
  match decode true 8 (BitVec.ofNat 128 w) with
  | .ok (i, _) => some i
  | .error _ => none

end Sys2Proof
end

