-- ==== Sys2Proof/Config.lean ====
section
/-! DEFINITION. Config.lean: what the spec leaves to the part or to the outside world: free values (constants without a body) and the fixed figures. -/

namespace Sys2Proof.Config

/-- ML-DSA-44 signature of a message digest under a key of the lantern (R351, R369): the keys are not given, so it is a free value. The first argument names the key: 0 energy, 1 identity; the second is a count, fresh for each signature of a quote. -/
opaque signature : Nat → Nat → List Byte → List Byte
/-- SHA3-256 of a byte string: the spec names the function and does not define it, so it is a free value (R351, R369). -/
opaque sha3 : List Byte → List Byte
/-- The energy public key of a quote (R369), 1,312 bytes; a free value. -/
opaque energyKey : Nat → Byte
/-- The identity key's certificate chain (R355, CERT); a free value. -/
opaque certChain : Nat → Byte
/-- The length of the certificate chain in bytes; a free value. -/
opaque certLen : Nat
/-- The ROM version of a quote, 4 bytes (R369); a free value. -/
opaque romVersion : BitVec 32
/-- The device serial number (R350); a free value. -/
opaque serial : W64
/-- The 64-byte response of a mailbox command other than STATUS: the spec gives no layout for its status and its length (R355, R369); a free value of both and of a count that is fresh for each response. -/
opaque response : Bool → Nat → Nat → List Byte
/-- A byte of the 64-byte command area of a function's mailbox as a read returns it: the spec gives commands no layout and the area no reset value (R355, R359); a free value of the function, of a count of the responses so far, and of the place. -/
opaque commandByte : Nat → Nat → Nat → Byte
/-- SHA3-256 of a partition record in a quote (R369), by the record's fields: the spec gives the record no byte layout; a free value. -/
opaque recordDigest : List Nat → List Byte
/-- The fixed function of R363: the UALink port, one of the four of an engine's own die (R11), of the traffic from a partition to a peer; a free value. -/
opaque peerPort : Nat → Nat → Fin 4
/-- The CXL port of a die, one of eight, that a pool physical address decodes to (R11, R362): system software programs the decoders, so it is a free value, by die and address. -/
opaque poolPort : Nat → Nat → Fin 8
/-- The messages that a link carries in a window of 1,024 master cycles, by link (R364): the spec gives the share and not the capacity; a free value. -/
opaque linkCapacity : Nat → Nat

/-- INUSE after a pop that finds it at 65,535 (R285, R291): the field has 16 bits and the spec states no sum beyond them; a free value, by the number of the ERT step. -/
opaque inuseBeyond : Nat → BitVec 16

/-- The fabric credits of a UALink port beyond the first (R259); a free value. -/
opaque creditsBeyondOne : Nat

/-- The number among the links of the UALink port by which the blocks and engines of a die reach a peer for a partition: ports 0 to 3 are on die 0, 4 to 7 on die 1 (R11, R363; log 77). -/
def peerLink (part die peer : Nat) : Nat := 4 * (die % 2) + (peerPort part peer).val
/-- The number of a CXL port among the links (R11). -/
abbrev cxlLink (port : Nat) : Nat := 8 + port
/-- The number of the PCIe port among the links (R11). -/
abbrev pcieLink : Nat := 24
/-- The number of the collar among the links (R11, R12). -/
abbrev collar : Nat := 25
/-- The die of the blocks that exist once per device: the lantern, the management controller and the PCIe port (R11); the task scheduler and the expert residency table are put there too (DESIGN CHOICE, log 86). -/
abbrev blockDie : Nat := 0
/-- Lanes of a link: UALink ports 0 to 7, CXL ports 8 to 23, the PCIe port 24 (R1, R11). -/
def linkLanes (l : Nat) : Nat := if l < 8 then 4 else if l < 24 then 8 else if l = 24 then 16 else 0
/-- Cores of the device (R7). -/
abbrev cores : Nat := 256
/-- Bytes of a vault (R9). -/
abbrev vaultBytes : Nat := 33554432
/-- Length limit of a run (R158). -/
abbrev runLimit : Nat := 24
/-- Entries of a strand's store queue (R239). -/
abbrev storeQueueLen : Nat := 32
/-- Commands of a copy channel (R238). -/
abbrev copyChannelLen : Nat := 64
/-- Commands of a matrix channel (R198). -/
abbrev matrixChannelLen : Nat := 16
/-- Outstanding returning instructions of a strand (R323). -/
abbrev returnLimit : Nat := 32
/-- Pegs of an operand store (R10). -/
abbrev corePegs : Nat := 32768
/-- Concurrent walks of a die (R308). -/
abbrev walkers : Nat := 1024
/-- Pages of a die's wait list (R309). -/
abbrev waitListLen : Nat := 4096
/-- Entries of a copy TLB (R312). -/
abbrev copyTlbLen : Nat := 1024
/-- Entries of a die TLB (R312). -/
abbrev dieTlbLen : Nat := 32768
/-- Slots of a partition's result store (R329). -/
abbrev resultSlots : Nat := 4096
/-- Fabric credits of a UALink port at reset: the spec gives no number, so it is a free value, at least 1 (log 30). -/
abbrev portCredits : Nat := creditsBeyondOne + 1

end Sys2Proof.Config
end

