-- ==== Sys2Proof/Machine/State.lean ====
section
/-! DEFINITION. State.lean: the whole state of the device (R22) as plain data, the reasons a step can stop, and the state after cold reset. -/

namespace Sys2Proof.Machine

/-- A sparse table: keys with the values that differ from a default, keys rising. -/
abbrev Tbl (α : Type) := List (Nat × α)

/-- Memory: cells at rising addresses, none holding the value of an unlisted one. One list holds every memory, at the keys of Ops.lean. -/
abbrev Memory := List Host.Cell

/-- A program counter value (R139). -/
structure PC where
  gen : BitVec 16
  ovid : BitVec 24
  word : BitVec 14
deriving DecidableEq, Repr

/-- The fault codes of R320. -/
inductive Code
  | illegalOpcode | illegalEncoding | illegalOperand | reservedField | privilege | nearBounds | misaligned | pegExhausted
  | stackDepth | mapDrop | overlayAbsent | codeReplaced | scaleLayout | gang | accRange | format | launchMismatch
  | copyError | engineReset | uncorrectable | trap | bkpt
deriving DecidableEq, Repr

/-- KIND of a control-stack entry (R140). -/
inductive CKind | base | if_ | else_ | lhead | lbody | call | trap
deriving DecidableEq, Repr

/-- A control-stack entry (R140). -/
structure CEntry where
  map : LaneMap
  link : PC
  fcopy : W32
  kind : CKind
deriving DecidableEq, Repr

/-- A vector register or queue entry: its occupied lanes, rising, with their values (R17, R58). -/
abbrev VReg := List (Nat × W32)

/-- A tag (R328) with the core ordinal: partition, core ordinal, strand slot, sequence number. -/
structure Tag where
  part : Nat
  ordinal : Nat
  slot : Nat
  seq : Nat
deriving DecidableEq, Repr

/-- What the in-flight record says of a MEET that has arrived (R325, R326): its issue number, its tag, its first word. -/
structure MeetOp where
  ord : Nat
  tag : Tag
  insn : W64
deriving DecidableEq, Repr

/-- The causes of R157 with what the parked instruction still has to do. -/
inductive Park
  /-- switch marker S -/
  | marker
  /-- read of an empty Q register -/
  | qEmpty (q : Nat)
  /-- fetch from a slot still loading -/
  | fetch
  /-- evicted registers are read: they, and the operands and the destination of the instruction, which stay (R78) -/
  | restore (regs keep : List Nat)
  /-- FENCE: its ordering and scope, and its issue number -/
  | fence (o : Ordn) (sc : Scope) (ord : Nat)
  /-- MEET before its arrival -/
  | meetArrive (form : MeetForm) (x : SCode) (j n : Nat) (ph : BitVec 16) (op : MeetOp)
  /-- MEET waiting for the phase to change from `t`; `op` is there when the arrival was its own -/
  | meetWait (x : SCode) (j : Nat) (t : BitVec 16) (op : Option MeetOp)
  /-- gang arrival whose ARR bit is set -/
  | gang
  /-- WAIT on a batch; `pc` is the WAIT's address -/
  | wait (vis mx trp : Bool) (x : SCode) (n : W32) (pc : PC)
  /-- MALLOC not granted -/
  | malloc
  /-- XPULL before its pop -/
  | xpull (ord : Nat)
  /-- a braced strand at a comparison point -/
  | brace
  /-- a resumed strand whose copy-channel commands are replayed before it issues (R260) -/
  | replay
deriving DecidableEq, Repr

/-- Strand states (R160). A frozen strand keeps the state it parks again in. -/
inductive Life
  | ready | running | parked (c : Park) | exiting
  | frozenReady | frozenParked (c : Park) | frozenExiting
  | killed | gone
deriving DecidableEq, Repr

/-- One atomic step of ATOM or ATOMS (R178). -/
structure AStep where
  op : AtomOp
  ty : Ty
  d : W32
  e : W32
  /-- the result is returned: to the strand's returning instruction `ord` of the entry, lane or scalar of the unit -/
  res : Bool
deriving DecidableEq, Repr

/-- What one unit of a store-queue entry does at its address. -/
inductive UnitOp
  | write (data : List Byte)
  | atom (a : AStep)
deriving DecidableEq, Repr

/-- One unit (R328) of a store-queue entry: its index, its memory key, what it does, and the lane offset of a vector form (R326). -/
structure SUnit where
  unit : Nat
  key : Nat
  op : UnitOp
  off : W32
  /-- the pass of a vector form that makes it (R170) -/
  pass : Nat := 0
deriving DecidableEq, Repr

/-- What a command or a SPAWN reads, in pieces of 16 bytes: the memory key of each, and its bytes once they are read. -/
abbrev Pieces := List (Nat × Option (List Byte))

/-- The entries of a store queue (R239) by what happens when they leave. -/
inductive SKind
  | units
  /-- SPAWN of the record in these pieces of 16 bytes to the queue (R272) -/
  | spawn (pieces : Pieces) (q : Nat)
  /-- DEP.DEC, DEP.ADD: counter and addend -/
  | dep (c : Nat) (add : W32)
  /-- XCTL.SNAP: the memory keys of its words, the first expert key -/
  | snap (words : List Nat) (k0 : W32)
deriving DecidableEq, Repr

/-- A store-queue entry (R239). -/
structure SEntry where
  ord : Nat
  tag : Tag
  o : Ordn
  sc : Scope
  kind : SKind
  units : List SUnit
  /-- KIND, ADDR, AUX, destination and first word for the in-flight record (R325) -/
  ikind : Nat
  addr : W80
  aux : W32
  insn : W64
  /-- the address of its instruction, which TRAPPC names for an uncorrectable error (R336) -/
  pc : BitVec 54
  /-- its strand replays it: its units ask the tag store first (R330, R331) -/
  replayed : Bool
  /-- traffic class (R12, R364) -/
  cls : Nat := 0
deriving DecidableEq, Repr

/-- A write or atomic step that has left a queue and is not yet performed (R183): its strand, its entry without units, its unit. -/
structure Sent where
  sid : Nat
  entry : SEntry
  u : SUnit
  /-- the write of a SNAP: the strands of the core see it only when performed -/
  snap : Bool
  /-- its place among all that its core has sent (R189) -/
  num : Nat
  /-- a write of an engine command of the strand, which the entry names (R256, R257) -/
  engine : Bool := false
deriving DecidableEq, Repr

/-- Kinds of instruction whose values are still to come: the returning ones (R74), and LDB and PLDM, whose destination is interlocked (R176). -/
inductive RKind | ld | lds | atom | atoms | mrd | xpull | ldb | pldm
deriving DecidableEq, Repr

/-- One value still to return: its lane (or the number of its scalar), the near address read, the lane offset, the data of an atomic step (R326), the value once performed. -/
structure RUnit where
  lane : Nat
  key : Nat
  off : W32
  d : W32 := 0
  e : W32 := 0
  val : Option W64
  /-- the pass of a vector form that makes it (R170) -/
  pass : Nat := 0
deriving DecidableEq, Repr

/-- An outstanding returning instruction (R323), or an LDB or PLDM with a value not yet read (R176). -/
structure Ret where
  ord : Nat
  kind : RKind
  /-- vector, base or map destination, or for scalar kinds the scalar of each unit -/
  dest : Nat
  wide : Bool
  ty : Ty
  dests : List SCode
  units : List RUnit
  tag : Tag
  addr : W80
  insn : W64
  /-- the address of its instruction (R336) -/
  pc : BitVec 54
  /-- a load that is an acquire (R189) -/
  acq : Bool := false
  /-- a later access of the strand was performed or left its queue before this load was performed (R186) -/
  passed : Bool := false
  /-- traffic class (R12, R364) -/
  cls : Nat := 0
  /-- the four values of an XPULL once its pop is made (R302) -/
  four : List W64 := []
deriving DecidableEq, Repr

/-- A place that a copy engine reads or writes: near, by memory key, or a far address. -/
inductive Loc | near (key : Nat) | far (a : W80)
deriving DecidableEq, Repr

/-- A unit (R328) of a copy-channel command: its index, its lane, source (none: zero bytes), destination (none: a queue register), length, and its bytes once they are read. -/
structure CUnit where
  unit : Nat
  lane : Nat
  src : Option Loc
  dst : Option Loc
  len : Nat
  dat : Option (List Byte) := none
deriving DecidableEq, Repr

/-- The commands of a copy channel (R241). -/
inductive CmdKind
  /-- CPY: element size, the queue of a DK 4 form, counter and its kind -/
  | cpy (n : Nat) (queue : Option Nat) (ctr : Option (Nat × Bool))
  /-- CPGATHER: counter -/
  | gather (ctr : Option Nat)
  /-- SORT: source, destination and table keys, pairs, keys counted; its units are the pairs it reads, and then the words it writes -/
  | sort (src dst tb n k : Nat)
  /-- OVLD: its first slot, slots, the generations taken; its units are the chunks of its source -/
  | ovld (slot n : Nat) (gens : List (BitVec 16))
  /-- TINV: ASID or any, first address, pages, whether it has started, the walks to wait for -/
  | tinv (asid : Option (BitVec 16)) (a : W80) (n : Nat) (started : Bool) (walks : List Nat)
deriving DecidableEq, Repr

/-- A command of a copy channel (R238). -/
structure Cmd where
  ord : Nat
  tag : Tag
  batch : Option W32
  kind : CmdKind
  o : Ordn
  sc : Scope
  /-- units not done -/
  units : List CUnit
  /-- arrived data of a Q form, by lane -/
  arrived : VReg
  /-- the peers that back the destination pages met; none for a page no peer backs -/
  peers : List (Option Nat)
  /-- SORT: its pairs are read; a queue form: its lanes are done (R240, R251, R256) -/
  readDone : Bool
  addr : W80
  insn : BitVec 128
  /-- the traffic class of its strand at issue (R364) -/
  cls : Nat
  /-- the address of its instruction (R336) -/
  pc : BitVec 54
  /-- its strand replays it and issues nothing before it is complete (R260) -/
  replayed : Bool := false
  /-- a unit of it has been read or written (R325) -/
  started : Bool := false
deriving DecidableEq, Repr

/-- The copy channel of a strand (R238). -/
structure CopyCh where
  cmds : List Cmd
  cpbatch : W32
  rdone : W32
  vdone : W32
  st : Tbl W64
deriving DecidableEq, Repr

/-- The B descriptor of a gang (R211). -/
structure BDesc where
  sp : Space
  sb : W64
  spl : W64
  sm : W64
  ty : Ty
  maj : Bool
  fmt : Nat
  pl : Nat
  spn : Nat
deriving DecidableEq, Repr

/-- The matrix commands (R202). -/
inductive MKind
  /-- MMA: rows with the keys of their A data, the B descriptor, the gang it arrived in and whether it has closed, its A rows and B -/
  | mma (rows : List (Nat × Nat)) (bd : BDesc) (gang : Option Nat) (closed : Bool) (a b : Pieces)
  | mzero
  /-- MRD: the row, type, rounding, flushing, format -/
  | mrd (row : Nat) (ty : Ty) (f : W32)
  /-- MST: destination by the space, base and stride, type, F, the places of its scale tiles, the tiles it uses, and how many of its elements are written -/
  | mst (sp : Space) (base rs : Nat) (ty : Ty) (f : W32) (w a : Nat) (ws as : Pieces) (done : Nat)
  /-- MFREE: the banks -/
  | mfree (m : BitVec 16)
deriving DecidableEq, Repr

/-- A command of a matrix channel (R198); `gord` is its place in the device's issue order. -/
structure MCmd where
  ord : Nat
  gord : Nat
  tag : Tag
  batch : Option W32
  bank : Nat
  kind : MKind
  o : Ordn
  sc : Scope
  insn : BitVec 128
  /-- the address of its instruction (R336) -/
  pc : BitVec 54
  cls : Nat := 0
deriving DecidableEq, Repr

/-- The matrix channel of a strand (R198). -/
structure MxCh where
  cmds : List MCmd
  mxbatch : W32
  rdone : W32
  vdone : W32
  st : Tbl W64
  rst : Bool
deriving DecidableEq, Repr

/-- The record of a strand for one meeting point (R166). -/
structure MeetRec where
  pend : Bool
  ph : BitVec 16
deriving DecidableEq, Repr

/-- A header of the in-flight record (R325). -/
abbrev IfrHeader := BitVec 256

/-- One entry of the in-flight record: its header and its payload bytes (R324). -/
structure IfrEntry where
  header : IfrHeader
  payload : List Byte
deriving DecidableEq, Repr

/-- A strand. A strand that is gone keeps its entry for its queues and channels. -/
structure Strand where
  life : Life
  /-- partition, frame (its key), core and strand slot -/
  part : Nat
  frame : Nat
  core : Nat
  slot : Nat
  priv : Bool
  /-- the identity and launch registers (R66) -/
  sidx : Nat
  frameId : W32
  fsize : Nat
  ext : Nat
  span : Nat
  launchId : W32
  args : Tbl W64
  ecl : Nat
  /-- V0-V119 (R58) -/
  v : Tbl VReg
  /-- Q0-Q3 (R60) -/
  q : Tbl (List VReg)
  /-- P1-P95 (R61) -/
  p : Tbl LaneMap
  /-- S1-S63 (R62) -/
  sr : Tbl W64
  /-- B0-B15 (R62) -/
  b : Tbl W80
  f : W32
  g : BitVec 16
  disc : Nat
  mapdrop : W32
  stray : W32
  runcut : W32
  batchstat : W64
  idem : BitVec 38
  handler : BitVec 38
  absvec : BitVec 38
  trapcode : W64
  trappc : BitVec 54
  prio : Nat
  pegquota : Nat
  pc : PC
  /-- the sequential advance has left the slot: the next fetch raises ILLEGAL-ENCODING at this address (R38) -/
  slotEnd : Option PC
  stack : List CEntry
  /-- registers in the backing area, and the registers by their last write, latest first (R78) -/
  evicted : List Nat
  written : List Nat
  /-- the backing range: window offset and bytes (R81) -/
  bkOff : Nat
  bkLen : Nat
  /-- instructions issued so far: the issue number of the next one -/
  ord : Nat
  sq : List SEntry
  /-- release fences not yet met: issue number and scope (R183) -/
  fences : List (Nat × Scope)
  rets : List Ret
  /-- the LDB and PLDM whose values are not all read (R156, R176) -/
  locks : List Ret
  /-- loads performed before earlier atomics of the strand made their steps: issue number, key, length (R186) -/
  ahead : List (Nat × Nat × Nat)
  /-- how much its core had sent at the strand's last acquire: what was sent before happens-before what it does now (R189) -/
  seen : Nat
  copy : CopyCh
  mx : MxCh
  meets : Tbl MeetRec
  /-- arbitration: AGE and the moment it became Ready (R274, R276) -/
  age : Nat
  readyAt : Nat
  /-- the parked instruction carries S: the strand waits for its returns next (R41) -/
  sMark : Bool
  /-- the in-flight record written at the freeze (R324) -/
  ifr : List IfrEntry
  /-- braced execution (R370): the twin, this copy is the shadow, signature, held writes (key, bytes), the comparison just passed, a checkpoint due at the next issue, mismatches at it, what the primary made for the shadow: at key 2n the scalars that instruction n wrote at issue, at 2n + 1 a lane and the value returned to it -/
  twin : Option Nat
  shadow : Bool
  sig : W64
  held : List (Nat × List Byte)
  passed : Bool
  ckDue : Bool
  misses : Nat
  mirror : List (Nat × List W64)
deriving DecidableEq, Repr

/-- A meeting point (R166). -/
structure MeetPt where
  phase : BitVec 16
  arr : BitVec 16
  cnt : Nat
  ab : Bool
deriving DecidableEq, Repr

/-- A rendezvous latch (R198). -/
structure Latch where
  isOpen : Bool
  /-- the number of the gang that opened it -/
  gid : Nat
  gm : BitVec 16
  arr : BitVec 16
  bd : BDesc
deriving DecidableEq, Repr

/-- A task record, 1,024 bits (R264). -/
abbrev TaskRec := BitVec 1024

/-- A frame: its record, its placement, what its strands share (R163, R166, R197, R198). -/
structure Frame where
  part : Nat
  /-- the launch (its key in the partition) -/
  launch : Nat
  frameId : W32
  launchId : W32
  record : TaskRec
  /-- one core, or the two cores of a pair, even first, with the offset of the half in each scratchpad -/
  cores : List Nat
  bases : List Nat
  spb : Nat
  /-- HELD, by core -/
  held : Tbl (BitVec 16)
  latch : Tbl Latch
  meet : Tbl MeetPt
  fab : Bool
  /-- the allocation was inherited by hand-over (R338) -/
  inherited : Bool
  /-- the data image written at admission (R33) -/
  image : List (Nat × Byte)
  /-- strands still live, by key -/
  strands : List Nat
  /-- the frame has ended and waits for its successor's birth (R155, R278) -/
  waitsSucc : Bool
  /-- the frame was discarded at a freeze and is born again at resumption: the live strands by index with their IDEM and their backing offset (R338) -/
  reborn : List (Nat × BitVec 38 × Nat)
  gone : Bool
  /-- the twin frame of a braced pair, and whether this is the shadow -/
  twin : Option Nat
  shadow : Bool
deriving DecidableEq, Repr

/-- States of an instruction-store slot (R221). -/
inductive SlotSt | empty | loading | loaded | firmware
deriving DecidableEq, Repr

/-- The record of an instruction-store slot (R221). -/
structure Slot where
  ovid : BitVec 24
  idx : BitVec 4
  cnt : BitVec 4
  gen : BitVec 16
  pin : BitVec 8
  st : SlotSt
deriving DecidableEq, Repr

/-- A leaf as a TLB holds it (R312). -/
structure Tlb where
  part : Nat
  asid : BitVec 16
  /-- A[79:16] of the page's first byte; a 4 GiB page has its low 16 bits 0 -/
  vpn : W64
  big : Bool
  leaf : BitVec 128
  hcnt : Nat
deriving DecidableEq, Repr

/-- An admission load under way (R233): overlay, window offset of the image, first slot, slots, the generations taken. -/
structure AdmLoad where
  ovid : BitVec 24
  img : Nat
  slot : Nat
  n : Nat
  part : Nat
  gens : List (BitVec 16)
deriving DecidableEq, Repr

/-- A MALLOC request (R197): the strand, the banks, the destination. -/
structure BankReq where
  sid : Nat
  n : Nat
  x : SCode
deriving DecidableEq, Repr

/-- A core (R10): its run (R158), arbitration (R274), bank requests (R197), instruction store (R221), copy TLB (R312), writes under way (R183), sequence numbers of its strand slots (R328). -/
structure Core where
  running : Option Nat
  runLen : Nat
  runCharge : Nat
  ebudget : W64
  lastchg : W32
  reqs : List BankReq
  slots : Tbl Slot
  loads : List AdmLoad
  tlb : List Tlb
  sent : List Sent
  /-- how much it has sent so far (R189) -/
  leaves : Nat
  seqs : Tbl Nat
  spareUsed : Bool
  retired : Bool
deriving DecidableEq, Repr

/-- Who asked for a walk: a command of a strand, or the fill of an ERT entry. -/
inductive Asker | copy (sid ord : Nat) | fill (e : Nat)
deriving DecidableEq, Repr

/-- A walk in progress (R308): its number, partition, ASID, page, who asked, its traffic class; the ranges of the TINVs that started since (first address, pages), which drop its result where it meets them (R315). -/
structure Walk where
  num : Nat
  part : Nat
  asid : BitVec 16
  vpn : W64
  who : Asker
  cls : Nat
  ranges : List (W80 × Nat)
deriving DecidableEq, Repr

/-- A die (R11): CYCLE and the master cycles counted (R341), TLB, walks, wait list and who waits for its pages (R308, R309), clocks (R374), energy copies and whether their refresh is due (R349). -/
structure Die where
  cycle : W64
  all : Nat
  tlb : List Tlb
  walks : List Walk
  waits : List (Nat × BitVec 16 × W64)
  waiters : List (Nat × W64 × Asker)
  /-- the droop response: 0 none, 1 over, n + 1 with n master cycles left (R374) -/
  droop : Nat
  source : Bool
  hopWaits : Bool
  hopping : Bool
  energy : Tbl W64
  refreshDue : Bool
deriving DecidableEq, Repr

/-- STATE of an ERT entry (R285). -/
inductive ErtSt | absent | filling | resident | evicting | pinned
deriving DecidableEq, Repr

/-- A descriptor (R287). -/
structure Desc where
  key : W32
  first : W32
  count : Nat
  fail : Bool
deriving DecidableEq, Repr

/-- An ERT entry (R285) with its wait queue and the fill under way. -/
structure Ert where
  rc : W32
  biasB : W32
  biasA : W32
  inuse : BitVec 16
  qcnt : Nat
  rcopy : BitVec 34
  rv : Bool
  rbusy : Bool
  vcopy : BitVec 34
  rpl : Nat
  fpl : BitVec 4
  spn : BitVec 2
  t : BitVec 16
  farb : W80
  use : W32
  ferr : Nat
  pinreq : Bool
  defer : Bool
  st : ErtSt
  valid : Bool
  key : W32
  /-- the wait queue: WCNT is its length (R287) -/
  waiters : List Desc
  /-- the engine flags of the XDISP that started the fill (R296) -/
  fillO : Ordn
  fillSc : Scope
deriving DecidableEq, Repr

/-- The error counters (R345). -/
structure ErrCnt where
  corr : W32
  uncorr : W32
  soft : W32
  retire : W32
  engreset : W32
  kill : W32
  cfgrej : W32
deriving DecidableEq, Repr

/-- The energy counters in microjoules and their remainders in 2^-32 microjoule (R346). -/
structure Energy where
  compute : W64
  vault : W64
  fabric : W64
  idle : W64
  remC : W32
  remV : W32
  remF : W32
  remI : W32
deriving DecidableEq, Repr

/-- A signed reading record: 640 bits and its signature (R350, R351). -/
structure Reading where
  body : BitVec 640
  sig : List Byte
deriving DecidableEq, Repr

/-- How far the head record of a launch queue has come (R269). -/
inductive Stage
  /-- not checked -/
  | fresh
  /-- checked; with CW it waits for its counter; `zero` once the counter has held 0 -/
  | waiting (zero : Bool)
  /-- satisfied, its count still to be read -/
  | satisfied
  /-- the launch with this key is created -/
  | launched (key : Nat)
deriving DecidableEq, Repr

/-- The history of a frame count that is read relaxed (R269, R270): its window offset, the values that its word has held in coherence order since it was first published, the place of the one that the scheduler last read. -/
structure CountWord where
  off : Nat
  hist : List W32
  read : Nat
deriving DecidableEq, Repr

/-- A launch queue (R262). -/
structure LQueue where
  base : Nat
  sz : Nat
  head : W32
  tail : W32
  kok : Bool
  halt : Bool
  err : Nat
  erridx : W32
  stage : Stage
  /-- the record read when it was checked -/
  cur : TaskRec
  /-- for each record that a doorbell or a SPAWN has published and whose count is a relaxed read: its index, the window offset of the count, the place in the history of its word of the oldest value that a read may return (R269, R270) -/
  counts : List (W32 × Nat × Nat)
deriving DecidableEq, Repr

/-- A launch in progress (R267, R269, R278). -/
structure Launch where
  record : TaskRec
  count : Nat
  launchId : W32
  /-- the launch queue of the chain of records that made it: its KOK judges the records named as successors -/
  home : Nat
  /-- the next frame to place -/
  next : Nat
  queue : Option Nat
  succ : Option TaskRec
  /-- the successor record has been read -/
  succRead : Bool
  /-- the successor launch, once a frame was handed over -/
  succId : Option W32
deriving DecidableEq, Repr

/-- A record queue of the partition (R361). -/
structure RecQ where
  qbase : Nat
  qsz : Nat
  prod : W32
  cons : W32
  held : List (BitVec 256)
deriving DecidableEq, Repr

/-- STATE of a partition (R354). -/
inductive PartSt | free | live | frozen
deriving DecidableEq, Repr

/-- A partition: its record (R354), launch queues, expert state (R286), record queues (R361), counters, tag store (R329). -/
structure Part where
  st : PartSt
  rcd : PartRecord
  queues : Tbl LQueue
  launches : Tbl Launch
  nextLaunch : W32
  lastServed : Nat
  ert : Tbl Ert
  ready : List Desc
  dused : Nat
  sel : Bool
  closed : Bool
  frames : List Nat
  step : W32
  /-- deferred fills, oldest first; fills that wait for a victim's eviction: (entry, victim) -/
  deferred : List Nat
  takes : List (Nat × Nat)
  /-- parked XPULLs in order -/
  pulls : List Nat
  absentQ : RecQ
  eventQ : RecQ
  errs : ErrCnt
  energy : Energy
  ring : List Reading
  tags : List (Tag × Nat)
  /-- remote signals performed, by peer and by the core ordinal and tag they carried (R331) -/
  signalTags : List (Nat × Nat)
  results : List ((Tag × Nat) × W32)
  /-- the cores saved by the last freeze, rising, with their state (R334) -/
  saved : List (Nat × Core)
  /-- the histories of the frame counts that are read relaxed (R269) -/
  words : List CountWord
  /-- the freeze is under way and not yet reported -/
  freezing : Bool
deriving DecidableEq, Repr

/-- A choice still to come: an event of another agent, or the core that issues next. -/
inductive Choice | event (i : Instr) | core (c : Nat)
deriving DecidableEq, Repr

/-- What the device sends to a peer (R247, R363), with its traffic class (R364) and its tag (R328): a write with its unit, or a counter signal. -/
inductive PeerMsg
  | write (part peer : Nat) (off : Nat) (data : List Byte) (tag : Tag) (unit cls : Nat)
  | signal (part peer ctr : Nat) (tag : Tag) (cls : Nat)
deriving DecidableEq, Repr

/-- A remote signal of a command with CRM = 1 (R247): partition, peer, counter, tag, traffic class, die of the engine. -/
structure Signal where
  part : Nat
  peer : Nat
  ctr : Nat
  tag : Tag
  cls : Nat
  die : Nat
deriving DecidableEq, Repr

/-- The state of the device. -/
structure State where
  mem : Memory
  strands : Tbl Strand
  frames : Tbl Frame
  cores : Tbl Core
  dies : Tbl Die
  parts : Tbl Part
  /-- dependence counters (R344) -/
  counters : Tbl W32
  /-- ACT of each cluster, and by how much its k falls short of 16 (R342, R373) -/
  act : Tbl W64
  kslow : Tbl (BitVec 4)
  /-- device error counters and the energy of UNASSIGNED (R345, R346) -/
  errs : ErrCnt
  unassigned : Energy
  /-- the lantern's non-volatile store: SEQ by partition number, EPOCH (R351), the fused minimum version (R367) -/
  seq : Tbl W64
  epoch : W64
  fused : BitVec 16
  /-- start status (R355, R366) -/
  stage : Nat
  /-- a warm reset has come since the last start: stage 1 loads the same firmware (R368) -/
  warmed : Bool
  failCode : BitVec 8
  version : BitVec 16
  failed : List Nat
  firmware : List Byte
  expansion : List Byte
  powered : Bool
  /-- master cycles of die 0 at the last epoch end and at the last periodic reading; CYCLE of both dies at the last epoch end -/
  epochAt : Nat
  readingAt : Nat
  cyc0 : W64
  cyc1 : W64
  /-- mailbox response and result buffers, by function (R355) -/
  response : Tbl (List Byte)
  result : Tbl (List Byte)
  /-- MSI-X vectors signalled: (function, vector), latest first (R359) -/
  msix : List (Nat × Nat)
  /-- bytes read by the last host or peer access (R360, R363) -/
  answer : List Byte
  /-- peer traffic sent, latest first; fabric credits used by port; signals that wait for a credit (R247, R259) -/
  peerOut : List PeerMsg
  creditsUsed : Tbl Nat
  signals : List Signal
  /-- class-3 messages of a partition on a link in this window, at key 32 · partition + link (R364) -/
  class3 : Tbl Nat
  /-- master cycles of die 0 at the start of that window -/
  class3At : Nat
  /-- link state (R22): the lanes with which a link is trained, 0 untrained; the messages it has carried, at key 4 · link + class (R12, R364) -/
  links : Tbl Nat
  carried : Tbl Nat
  /-- cycles of die 0 in this epoch for which a cluster had an owner that it has no more, at key 33 · cluster + owner (32: none), and since when it has its present one (R347) -/
  owned : Tbl Nat
  ownedFrom : Tbl Nat
  /-- 128-byte vault requests in this epoch, at key 33 · (4 · die + s) + partition, and bytes that a link has moved in it, at key 33 · link + partition (32: UNASSIGNED) (R170, R347) -/
  requests : Tbl Nat
  moved : Tbl Nat
  /-- units retired or under self-test (R372) -/
  retired : List HwUnit
  testing : List HwUnit
  /-- checkpoints of braced strands (R370) -/
  ckpts : Tbl Strand
  /-- the model's own fields: the choices still to come, the core that issues when there are none, the strand that issues, the next key, the places in the orders of matrix commands and of strands becoming Ready -/
  agenda : List Choice
  turn : Nat
  cur : Nat
  next : Nat
  gord : Nat
  clock : Nat
deriving DecidableEq, Repr

/-- Reasons the machine stops with a fault: there are none, every fault of the spec is delivered to a strand or to the partition, and the machine goes on (R321, R322). -/
inductive Fault
deriving DecidableEq, Repr

/-- Reasons a step is refused. -/
inductive Refusal
  /-- An instruction without a meaning yet: raised by its arm of `exec`; safe. -/
  | notModelled (mnemonic : String)
deriving DecidableEq, Repr

/-! The reset values of the parts (R6). -/

/-- The zero PC. -/
def PC.zero : PC := ⟨0, 0, 0⟩

/-- The reset value of a copy channel (R238). -/
def CopyCh.reset : CopyCh := ⟨[], 0, 0, 0, []⟩

/-- The reset value of a matrix channel (R198). -/
def MxCh.reset : MxCh := ⟨[], 0, 0, 0, [], false⟩

/-- A strand before its birth: every register at the reset value of its card, no instruction, no frame. -/
def Strand.blank : Strand :=
  { life := .gone, part := 0, frame := 0, core := 0, slot := 0, priv := false, sidx := 0, frameId := 0, fsize := 1, ext := 16,
    span := 16, launchId := 0, args := [], ecl := 0, v := [], q := [], p := [], sr := [], b := [], f := 0, g := 0, disc := 0,
    mapdrop := 0, stray := 0, runcut := 0, batchstat := 0, idem := 0, handler := 0, absvec := 0, trapcode := 0, trappc := 0,
    prio := 0, pegquota := 1, pc := PC.zero, slotEnd := none, stack := [], evicted := [], written := [], bkOff := 0, bkLen := 0,
    ord := 0, sq := [], fences := [], rets := [], locks := [], ahead := [], seen := 0, copy := CopyCh.reset, mx := MxCh.reset, meets := [], age := 0, readyAt := 0, sMark := false,
    ifr := [], twin := none, shadow := false, sig := 0, held := [], passed := false, ckDue := false, misses := 0, mirror := [] }

/-- A meeting point at admission (R166). -/
def MeetPt.reset : MeetPt := ⟨0, 0, 0, false⟩

/-- The record of a strand for a meeting point at admission (R166). -/
def MeetRec.reset : MeetRec := ⟨false, 0⟩

/-- A B descriptor of zeros (R198). -/
def BDesc.zero : BDesc := ⟨.spad, 0, 0, 0, .b32, false, 0, 0, 0⟩

/-- A latch at reset (R198). -/
def Latch.reset : Latch := ⟨false, 0, 0, 0, BDesc.zero⟩

/-- A frame that does not exist. -/
def Frame.blank : Frame :=
  { part := 0, launch := 0, frameId := 0, launchId := 0, record := 0, cores := [], bases := [], spb := 0, held := [], latch := [],
    meet := [], fab := false, inherited := false, image := [], strands := [], waitsSucc := false, reborn := [], gone := true,
    twin := none, shadow := false }

/-- A slot at cold reset (R221); slot 0 is `Slot.firmware`. -/
def Slot.empty : Slot := ⟨0, 0, 0, 0, 0, .empty⟩

/-- Slot 0 at cold reset (R221). -/
def Slot.firmware : Slot := ⟨0, 0, 0, 0, 255, .firmware⟩

/-- A core at cold reset. -/
def Core.reset : Core :=
  { running := none, runLen := 0, runCharge := 0, ebudget := 0, lastchg := 0, reqs := [], slots := [(0, Slot.firmware)], loads := [],
    tlb := [], sent := [], leaves := 0, seqs := [], spareUsed := false, retired := false }

/-- A die at cold reset. -/
def Die.reset : Die :=
  { cycle := 0, all := 0, tlb := [], walks := [], waits := [], waiters := [], droop := 0, source := false, hopWaits := false,
    hopping := false, energy := [], refreshDue := false }

/-- An ERT entry at reset: all zero (R284). -/
def Ert.zero : Ert :=
  { rc := 0, biasB := 0, biasA := 0, inuse := 0, qcnt := 0, rcopy := 0, rv := false, rbusy := false, vcopy := 0, rpl := 0, fpl := 0,
    spn := 0, t := 0, farb := 0, use := 0, ferr := 0, pinreq := false, defer := false, st := .absent, valid := false, key := 0,
    waiters := [], fillO := .rlx, fillSc := .strand }

/-- Error counters at reset (R345). -/
def ErrCnt.zero : ErrCnt := ⟨0, 0, 0, 0, 0, 0, 0⟩

/-- Energy counters at reset (R346). -/
def Energy.zero : Energy := ⟨0, 0, 0, 0, 0, 0, 0, 0⟩

/-- A launch queue at creation (R262). -/
def LQueue.zero : LQueue := ⟨0, 0, 0, 0, false, false, 0, 0, .fresh, 0, []⟩

/-- A record queue at creation (R361). -/
def RecQ.zero : RecQ := ⟨0, 0, 0, 0, []⟩

/-- The record of a free partition. -/
def freeRecord : PartRecord :=
  { clm := 0, win := [], rv := 0, cbase := 0, ccnt := 0, ebase := 0, ecnt := 0, fasid := 0, dq := 0, pbase := 0, fsz := 0, nfr := 0,
    rootdir := 0, casid := 0, hsbase := 0, shadowbase := 0, bkbase := 0, bklen := 0, kok := 0, cxlsh := 0, tcmax := 0, c3sh := 0,
    brace := false, ebud := 0, chw := 0 }

/-- A free partition. -/
def Part.free : Part :=
  { st := .free, rcd := freeRecord, queues := [], launches := [], nextLaunch := 1, lastServed := 7, ert := [],
    ready := [], dused := 0, sel := false, closed := false, frames := [], step := 0, deferred := [], takes := [], pulls := [],
    absentQ := RecQ.zero, eventQ := RecQ.zero, errs := ErrCnt.zero, energy := Energy.zero, ring := [], tags := [], signalTags := [],
    results := [], saved := [], words := [], freezing := false }

/-- The state right after cold reset: every counter and memory empty, every partition FREE, stage 0, nothing on the agenda. -/
def State.reset : State :=
  { mem := [], strands := [], frames := [], cores := [], dies := [], parts := [], counters := [], act := [], kslow := [],
    errs := ErrCnt.zero, unassigned := Energy.zero, seq := [], epoch := 0, fused := 0, stage := 0, warmed := false, failCode := 0, version := 0,
    failed := [], firmware := [], expansion := [], powered := false, epochAt := 0, readingAt := 0, cyc0 := 0, cyc1 := 0,
    response := [], result := [], msix := [], answer := [], peerOut := [], creditsUsed := [], signals := [], class3 := [], class3At := 0,
    links := [], carried := [], owned := [], ownedFrom := [], requests := [], moved := [], retired := [], testing := [], ckpts := [], agenda := [], turn := 0, cur := 0, next := 1, gord := 0, clock := 0 }

end Sys2Proof.Machine
end

