-- ==== Sys2Proof/Machine/Ops.lean ====
section
/-! DEFINITION. Ops.lean: tables, memory and its keys, the accessors of the state, the instruction store, record queues, pegs and eviction (R77 to R80), kill (R322), taking an exception (R321) and returning from one (R152). -/

namespace Sys2Proof.Machine

/-! Tables. -/

/-- The value of a key; `d` when the table does not list it. -/
def Tbl.get {α : Type} (d : α) : Tbl α → Nat → α
  | [], _ => d
  | (k', v) :: r, k => if k' = k then v else Tbl.get d r k

/-- A pair put before the first greater key. -/
def Tbl.ins {α : Type} (k : Nat) (v : α) : Tbl α → Tbl α
  | [] => [(k, v)]
  | (k', v') :: r => if k < k' then (k, v) :: (k', v') :: r else (k', v') :: Tbl.ins k v r

/-- The table without a key. -/
def Tbl.del {α : Type} (t : Tbl α) (k : Nat) : Tbl α := t.filter (fun e => decide (e.1 ≠ k))

/-- The table with a key set; the default value is not listed. -/
def Tbl.set {α : Type} [DecidableEq α] (d : α) (t : Tbl α) (k : Nat) (v : α) : Tbl α :=
  if v = d then t.del k else Tbl.ins k v (t.del k)

/-! Memory: one list of cells (R9, R10, R163, R197, R221, R305). -/

/-- A byte; an unlisted one is 0 (DESIGN CHOICE, log 3). -/
def Memory.read (m : Memory) (k : Nat) : Byte := Tbl.get 0 m k

/-- A byte written. -/
def Memory.write (m : Memory) (k : Nat) (v : Byte) : Memory := Tbl.set 0 m k v

/-- `n` bytes from a key upward. -/
def Memory.readN (m : Memory) (k n : Nat) : List Byte := (List.range n).map (fun i => m.read (k + i))

/-- Bytes written from a key upward. -/
def Memory.writeL (m : Memory) (k : Nat) : List Byte → Memory
  | [] => m
  | b :: r => Memory.writeL (m.write k b) (k + 1) r

/-- A range of bytes set to 0. -/
def Memory.clear (m : Memory) (k n : Nat) : Memory := m.filter (fun c => decide (c.1 < k) || decide (k + n ≤ c.1))

/-- Cells put in one after another. -/
def Memory.putCells (m : Memory) : List Host.Cell → Memory
  | [] => m
  | c :: r => Memory.putCells (m.write c.1 c.2) r

/-- A range copied to another place, every byte read before any is written. -/
def Memory.copy (m : Memory) (src dst n : Nat) : Memory :=
  (m.clear dst n).putCells
    ((m.filter (fun c => decide (src ≤ c.1) && decide (c.1 < src + n))).map (fun c => (c.1 - src + dst, c.2)))

/-- Addresses strictly rise. -/
def Memory.rising : List Nat → Bool
  | [] => true
  | [_] => true
  | a :: b :: r => decide (a < b) && Memory.rising (b :: r)

/-- The canonical form: addresses strictly rising, no cell holding 0. -/
def Memory.wf (m : Memory) : Bool := Memory.rising (m.map (·.1)) && m.all (fun c => decide (c.2 ≠ 0))

/-- A value as `n` bytes, little-endian (R3). -/
def toBytes (n v : Nat) : List Byte := (List.range n).map (fun i => BitVec.ofNat 8 (v / 256 ^ i))

/-- The value of little-endian bytes (R3). -/
def ofBytes : List Byte → Nat
  | [] => 0
  | b :: r => b.toNat + 256 * ofBytes r

/-- Key of a pool physical byte (R305). -/
def poolKey (p : Nat) : Nat := p
/-- Key of byte `o` of vault `v` (R9). -/
def vaultKey (v o : Nat) : Nat := 2 ^ 64 + v * 2 ^ 25 + o
/-- Key of byte `b` of the scratchpad of core `c` (R10). -/
def spadKey (c b : Nat) : Nat := 2 ^ 65 + c * 2 ^ 19 + b
/-- Key of byte `b` of bank `k` of core `c` (R197). -/
def accKey (c k b : Nat) : Nat := 2 ^ 66 + c * 2 ^ 18 + k * 2 ^ 14 + b
/-- Key of byte `b` of the firmware runtime, slot 0 of every core (R221). -/
def firmwareKey (b : Nat) : Nat := 2 ^ 68 + b
/-- Key of byte `b` of slot `j` of core `c` (R221). -/
def codeKey (c j b : Nat) : Nat := if j = 0 then firmwareKey b else 2 ^ 67 + c * 2 ^ 18 + j * 4096 + b

/-- A key of a vault byte. -/
def isVault (k : Nat) : Bool := decide (2 ^ 64 ≤ k) && decide (k < 2 ^ 65)

/-- The ordering point of a near byte (R164, R9): its vault, or the port of the core that owns the scratchpad. -/
def pointOf (k : Nat) : Nat := if isVault k then k / 2 ^ 25 else 2 ^ 50 + k / 2 ^ 19

/-! Accessors. -/

/-- The strand with a key. -/
def State.strand (s : State) (u : Nat) : Strand := Tbl.get Strand.blank s.strands u
/-- The state with a strand set. -/
def State.setStrand (s : State) (u : Nat) (t : Strand) : State := { s with strands := Tbl.set Strand.blank s.strands u t }
/-- The strand that issues. -/
def State.me (s : State) : Strand := s.strand s.cur
/-- The state with the issuing strand set. -/
def State.setMe (s : State) (t : Strand) : State := s.setStrand s.cur t
/-- A frame. -/
def State.frame (s : State) (u : Nat) : Frame := Tbl.get Frame.blank s.frames u
/-- The state with a frame set. -/
def State.setFrame (s : State) (u : Nat) (f : Frame) : State := { s with frames := Tbl.set Frame.blank s.frames u f }
/-- A core. -/
def State.core (s : State) (c : Nat) : Core := Tbl.get Core.reset s.cores c
/-- The state with a core set. -/
def State.setCore (s : State) (c : Nat) (k : Core) : State := { s with cores := Tbl.set Core.reset s.cores c k }
/-- A die. -/
def State.die (s : State) (d : Nat) : Die := Tbl.get Die.reset s.dies d
/-- The state with a die set. -/
def State.setDie (s : State) (d : Nat) (x : Die) : State := { s with dies := Tbl.set Die.reset s.dies d x }
/-- A partition. -/
def State.part (s : State) (p : Nat) : Part := Tbl.get Part.free s.parts p
/-- The state with a partition set. -/
def State.setPart (s : State) (p : Nat) (x : Part) : State := { s with parts := Tbl.set Part.free s.parts p x }
/-- A dependence counter (R344). -/
def State.counter (s : State) (c : Nat) : W32 := Tbl.get 0 s.counters c

/-- The issue number of a sent unit. -/
def Sent.ord (e : Sent) : Nat := e.entry.ord
/-- Its tag. -/
def Sent.tag (e : Sent) : Tag := e.entry.tag
/-- Its entry is replayed. -/
def Sent.replayed (e : Sent) : Bool := e.entry.replayed

/-- A strand that acquires: what its core has sent so far happens-before what it does from now on (R189; DESIGN CHOICE, log 82). -/
def Strand.acquires (t : Strand) (s : State) : Strand := { t with seen := (s.core t.core).leaves }

/-- Die of a core (R7). -/
def dieOf (c : Nat) : Nat := c / 128
/-- Cluster of a core (R7). -/
def clusterOf (c : Nat) : Nat := c / 8
/-- The core below a vault (R7). -/
def vaultCore (v : Nat) : Nat := v / 2
/-- Die of a vault (R9). -/
def vaultDie (v : Nat) : Nat := v / 256

/-- The stacked SRAM die of a vault, 4 · die + s (R9). -/
def vaultSram (v : Nat) : Nat := v / 64

/-- Key of byte `o` of a partition's vault window (R165); an offset past the window comes round within it, so that what system software places there stays confined to its partition (R5, log 67). -/
def windowKey (p : Part) (o : Nat) : Nat :=
  match p.rcd.win with
  | [] => 2 ^ 69 + o
  | v :: r => vaultKey ((v :: r).getD (o / 2 ^ 25 % (r.length + 1)) v) (o % 2 ^ 25)
/-- Bytes of the vault window. -/
def windowSize (p : Part) : Nat := 2 ^ 25 * p.rcd.win.length
/-- Bytes of the window below the reserved vaults. -/
def openSize (p : Part) : Nat := 2 ^ 25 * (p.rcd.win.length - p.rcd.rv)

/-- The clusters of a mask, rising. -/
def clustersOf (m : W32) : List Nat := (List.range 32).filter (fun c => m.getLsbD c)
/-- The cores of a mask of clusters, rising. -/
def coresOf (m : W32) : List Nat := (clustersOf m).flatMap (fun c => (List.range 8).map (fun i => 8 * c + i))
/-- The rank of a core among its partition's cores (R328). -/
def ordinalOf (p : Part) (c : Nat) : Nat := ((coresOf p.rcd.clm).takeWhile (fun x => decide (x ≠ c))).length

/-- An increment that saturates at 0xFFFF_FFFF (R340, R345). -/
def satAdd (w : W32) (n : Nat) : W32 := BitVec.ofNat 32 (Nat.min (w.toNat + n) (2 ^ 32 - 1))

/-- A partition's error counters changed (R345). -/
def State.modErrs (s : State) (p : Nat) (f : ErrCnt → ErrCnt) : State :=
  s.setPart p { s.part p with errs := f (s.part p).errs }

/-- CFGREJ gains 1: that of the partition, or of the device where the partition is FREE (R345). -/
def State.cfgRej (s : State) (p : Nat) : State :=
  if (s.part p).st = .free then { s with errs := { s.errs with cfgrej := satAdd s.errs.cfgrej 1 } }
  else s.modErrs p (fun e => { e with cfgrej := satAdd e.cfgrej 1 })

/-- The traffic class of a strand's accesses and commands (R364). -/
def State.classOf (s : State) (t : Strand) : Nat := Nat.min t.prio (s.part t.part).rcd.tcmax

/-- The class of fills, replicas and hotness updates (R364). -/
def fillClass (p : Part) : Nat := Nat.min 1 p.rcd.tcmax

/-- The class in which a message of class `cls` travels on a link: class 3 as long as the partition's share of the link's window lasts, then class 2 (R364). -/
def State.linkClass (s : State) (part link cls : Nat) : Nat :=
  if cls = 3 ∧ (s.part part).rcd.c3sh * Config.linkCapacity link < 64 * (Tbl.get 0 s.class3 (32 * part + link) + 1) then 2 else cls

/-- A count added to. -/
def Tbl.count (t : Tbl Nat) (k n : Nat) : Tbl Nat := Tbl.set 0 t k (Tbl.get 0 t k + n)

/-- The key of a partition's count at a source of energy; 32 stands for UNASSIGNED (R347). -/
abbrev countKey (x part : Nat) : Nat := 33 * x + Nat.min part 32

/-- A message of a partition, with `n` bytes of data, carried by a link (R12, R347, R364; log 58). -/
def State.carry (s : State) (part link cls n : Nat) : State :=
  let c := s.linkClass part link cls
  { s with
    class3 := if c = 3 then Tbl.count s.class3 (32 * part + link) 1 else s.class3
    carried := Tbl.count s.carried (4 * link + c) 1
    moved := Tbl.count s.moved (countKey link part) n }

/-- The vault of a vault byte's key. -/
def keyVault (k : Nat) : Nat := (k - 2 ^ 64) / 2 ^ 25

/-- The die of a near byte: that of its vault, or of the core of its scratchpad (R7, R9). -/
def keyDie (k : Nat) : Nat := if isVault k then vaultDie (keyVault k) else dieOf ((k - 2 ^ 65) / 2 ^ 19)

/-- The lines of 128 bytes that `n` bytes at an address meet, each by its first byte there and its bytes (R170). -/
def linesOf (a n : Nat) : List (Nat × Nat) :=
  if n = 0 then []
  else (List.range ((a + n - 1) / 128 + 1 - a / 128)).map (fun i =>
    let b := Nat.max a (128 * (a / 128 + i))
    (b, Nat.min (a + n) (128 * (a / 128 + i + 1)) - b))

/-- Requests of a partition to a vault counted (R347). -/
def State.request (s : State) (part vault n : Nat) : State := { s with requests := Tbl.count s.requests (countKey (vaultSram vault) part) n }

/-- A message of a partition between two dies, carried by the collar (R11, R12). -/
def State.cross (s : State) (part a b cls n : Nat) : State := if a = b then s else s.carry part Config.collar cls n

/-- An access from a die to `n` near bytes of one line: a request to its vault, over the collar where that is on the other die (R12, R170, R364). -/
def State.reach (s : State) (part die k n cls : Nat) : State :=
  (if isVault k then s.request part (keyVault k) 1 else s).cross part die (keyDie k) cls n

/-- An access of a core to near bytes of one line. -/
def State.carryNear (s : State) (part core k n cls : Nat) : State := s.reach part (dieOf core) k n cls

/-- An access from a die to `n` bytes of a partition's vault window, line by line. -/
def State.carryWindow (s : State) (part die o n cls : Nat) : State :=
  (linesOf o n).foldl (fun s e => s.reach part die (windowKey (s.part part) e.1) e.2 cls) s

/-- A message between a die and a peer: by the peer's UALink port of that die (R11, R363; log 77). -/
def State.carryPeer (s : State) (part die peer cls n : Nat) : State := s.carry part (Config.peerLink part die peer) cls n

/-! Lane maps. -/

/-- The map of the lanes below `n`. -/
def lanesBelow (n : Nat) : LaneMap := BitVec.ofNat 1024 (2 ^ n - 1)

/-- The lanes of a map, rising. -/
def laneList (m : LaneMap) : List Nat := (List.range 1024).filter (fun l => m.getLsbD l)

/-- The lanes of a map below an extent, rising. -/
def lanesIn (n : Nat) (m : LaneMap) : List Nat := (List.range n).filter (fun l => m.getLsbD l)

/-- The map of a list of lanes. -/
def mapOf (l : List Nat) : LaneMap := l.foldl (fun m i => m ||| BitVec.ofNat 1024 (2 ^ i)) 0

/-- The map M(Vn) of a vector register (R58). -/
def VReg.map (v : VReg) : LaneMap := mapOf (List.map (·.1) v)

/-- The value of a lane; 0 where the register has none. -/
def VReg.lane (v : VReg) (l : Nat) : W32 := Tbl.get 0 v l

/-- The set bits of a word of `n` bits. -/
def popcount {n : Nat} (w : BitVec n) : Nat := ((List.range n).filter (fun i => w.getLsbD i)).length

/-! The instruction store (R221 to R224). -/

/-- A slot record of a core. -/
def Core.slot (c : Core) (j : Nat) : Slot := Tbl.get Slot.empty c.slots j
/-- A core with a slot record set. -/
def Core.setSlot (c : Core) (j : Nat) (x : Slot) : Core := { c with slots := Tbl.set Slot.empty c.slots j x }

/-- The slot that holds part `i` of an overlay (R223, R224). -/
def Core.slotOf (c : Core) (ovid : BitVec 24) (i : Nat) : Option Nat :=
  (List.range 64).find? (fun j => decide ((c.slot j).ovid = ovid) && decide ((c.slot j).idx.toNat = i) && decide ((c.slot j).st ≠ .empty))

/-- The first slot of a resident overlay (R223). -/
def Core.resident (c : Core) (ovid : BitVec 24) : Option Nat := c.slotOf ovid 0

/-- The words of a resident overlay: 1,024·(CNT + 1); 0 when it is not resident (R43). -/
def Core.words (c : Core) (ovid : BitVec 24) : Nat :=
  match c.resident ovid with
  | some j => 1024 * ((c.slot j).cnt.toNat + 1)
  | none => 0

/-- The PC of a word of a resident overlay, with the generation of the slot that holds it (R43, R224); none outside it. -/
def Core.pcAt (c : Core) (ovid : BitVec 24) (w : Nat) : Option PC :=
  if w < c.words ovid then
    match c.slotOf ovid (w / 1024) with
    | some j => some { gen := (c.slot j).gen, ovid := ovid, word := BitVec.ofNat 14 w }
    | none => none
  else none

/-- The slot a PC names, if its generation still holds (R224). -/
def Core.slotAt (c : Core) (pc : PC) : Option Nat :=
  match c.slotOf pc.ovid (pc.word.toNat / 1024) with
  | some j => if (c.slot j).gen = pc.gen then some j else none
  | none => none

/-- A PC value as its 54 bits (R139). -/
def PC.bits (p : PC) : BitVec 54 := p.gen ++ p.ovid ++ p.word

/-- The address `n` words on, in the same slot (R38). -/
def PC.plus (p : PC) (n : Nat) : PC := { p with word := BitVec.ofNat 14 (p.word.toNat + n) }

/-- The sequential advance of `n` words leaves the slot (R38). -/
def PC.leaves (p : PC) (n : Nat) : Bool := decide (1024 ≤ p.word.toNat % 1024 + n)

/-- A strand's PC moved past `n` words; leaving the slot makes the next fetch fault at `at` (R38). -/
def Strand.advance (t : Strand) (n : Nat) : Strand :=
  if t.pc.leaves n then { t with slotEnd := some t.pc } else { t with pc := t.pc.plus n }

/-- A strand's PC set by a transfer. -/
def Strand.goto (t : Strand) (pc : PC) : Strand := { t with pc := pc, slotEnd := none }

/-! Registers. -/

/-- A scalar register; S0 reads 0 (R62). -/
def Strand.s (t : Strand) (r : SCode) : W64 := if r = 0 then 0 else Tbl.get 0 t.sr r.toNat
/-- A scalar register written; a write to S0 is discarded (R47). -/
def Strand.setS (t : Strand) (r : SCode) (v : W64) : Strand := if r = 0 then t else { t with sr := Tbl.set 0 t.sr r.toNat v }
/-- The scope: the map of the top control-stack entry (R140). -/
def Strand.scope (t : Strand) : LaneMap :=
  match t.stack with
  | e :: _ => e.map
  | [] => 0

/-! Record queues (R361). -/

/-- A record queue lies wholly in the reserved vaults. -/
def RecQ.placed (p : Part) (q : RecQ) : Bool :=
  decide (openSize p ≤ q.qbase) && decide (q.qbase + 32 * 2 ^ q.qsz ≤ windowSize p)

/-- There is room for one more record. -/
def RecQ.room (q : RecQ) : Bool := decide ((q.prod - q.cons).toNat < 2 ^ q.qsz)

/-- One record appended: written with its SEQ, PROD advanced. -/
def recAppend (m : Memory) (p : Part) (q : RecQ) (r : BitVec 256) : Memory × RecQ :=
  let v := r.toNat + q.prod.toNat * 2 ^ 32
  (m.writeL (windowKey p (q.qbase + 32 * (q.prod.toNat % 2 ^ q.qsz))) (toBytes 32 v), { q with prod := q.prod + 1 })

/-- Held records appended while there is room. -/
def recDrain (p : Part) : Nat → Memory → RecQ → Memory × RecQ × Nat
  | 0, m, q => (m, q, 0)
  | n + 1, m, q =>
    match q.held with
    | r :: rest =>
      if q.placed p && q.room then
        let (m', q') := recAppend m p { q with held := rest } r
        let (m'', q'', k) := recDrain p n m' q'
        (m'', q'', k + 1)
      else (m, q, 0)
    | [] => (m, q, 0)

/-- An MSI-X vector of a function signalled (R359). -/
def State.signal (s : State) (fn v : Nat) : State := { s with msix := (fn, v) :: s.msix }

/-- `k` signals. -/
def signalN (fn v : Nat) : Nat → State → State
  | 0, s => s
  | k + 1, s => signalN fn v k (s.signal fn v)

/-- The held records of a partition's queue moved as far as there is room (R361), each carried to its vault (R12; DESIGN CHOICE, log 86). -/
def State.drainQ (s : State) (p : Nat) (event : Bool) : State :=
  let x := s.part p
  let q := if event then x.eventQ else x.absentQ
  let (m, q', k) := recDrain x q.held.length s.mem q
  let s1 := (List.range k).foldl (fun s i =>
    s.carryWindow p Config.blockDie (q.qbase + 32 * ((q.prod.toNat + i) % 2 ^ q.qsz)) 32 1) s
  signalN (p + 1) (if event then 2 else 1) k
    ({ s1 with mem := m }.setPart p (if event then { x with eventQ := q' } else { x with absentQ := q' }))

/-- A record given to a partition's queue: held behind the earlier ones, appended when there is room (R361). -/
def State.report (s : State) (p : Nat) (event : Bool) (r : BitVec 256) : State :=
  let x := s.part p
  let s' := s.setPart p (if event then { x with eventQ := { x.eventQ with held := x.eventQ.held ++ [r] } }
    else { x with absentQ := { x.absentQ with held := x.absentQ.held ++ [r] } })
  s'.drainQ p event

/-! Pegs, the map store and eviction (R77 to R80). -/

/-- A vector register or the oldest entry of a queue register (R58, R60). -/
def Strand.vec (t : Strand) (c : Nat) : VReg :=
  if c < 120 then Tbl.get [] t.v c else (Tbl.get [] t.q (c - 120)).headD []

/-- Pegs of `n` lanes (R70). -/
def pegsOf (n : Nat) : Nat := (n + 7) / 8

/-- The sum of a function over a list. -/
def sumOf {α : Type} (f : α → Nat) (l : List α) : Nat := (l.map f).foldl (· + ·) 0

/-- Pegs of a vector register. -/
def Strand.regPegs (t : Strand) (r : Nat) : Nat := pegsOf (t.vec r).length

/-- The vector registers that hold pegs of the operand store. -/
def Strand.inStore (t : Strand) : List Nat := (List.map (·.1) t.v).filter (fun r => !t.evicted.contains r)

/-- Pegs of the Q entries. -/
def Strand.queuePegs (t : Strand) : Nat := sumOf (fun e => sumOf (fun (v : VReg) => pegsOf v.length) e.2) t.q

/-- Bytes of the span words of a map in the map store: one word for each non-empty span (R17, R79). -/
def Strand.spanBytes (t : Strand) (m : LaneMap) : Nat :=
  if m = 0 then 0
  else (t.span / 8) * ((List.range (t.ext / t.span)).filter (fun i => m.extractLsb' (i * t.span) t.span ≠ 0)).length

/-- Bytes of a map in the map store: its summary word, 8 bytes (DESIGN CHOICE, log 21), an empty map has one too, and its span words (R17, R58, R79). -/
def Strand.mapBytes (t : Strand) (m : LaneMap) : Nat := 8 + t.spanBytes m

/-- Bytes of the map store that P registers, scopes and Q entries use (R79). -/
def Strand.fixedMapBytes (t : Strand) : Nat :=
  8 * 95 + sumOf (fun e => t.spanBytes e.2) t.p + sumOf (fun e => t.mapBytes e.map) t.stack
    + sumOf (fun e => sumOf (fun (v : VReg) => t.mapBytes v.map) e.2) t.q

/-- Bytes of the map store that the vector registers use when those of `out` are evicted too and those of `gone` give up their span words (R79). -/
def Strand.regMapBytes (t : Strand) (gone out : List Nat) : Nat :=
  8 * (120 - ((out ++ t.evicted).filter (fun r => !gone.contains r)).dedup.length)
    + sumOf (fun r => t.spanBytes (t.vec r).map) (t.inStore.filter (fun r => !out.contains r && !gone.contains r))

/-- The maps of the strand fit its share of 32 KiB (R79). -/
def Strand.mapsFit (t : Strand) : Bool := decide (t.regMapBytes [] [] + t.fixedMapBytes ≤ 32768)

/-- The registers a returning instruction of the strand still writes. -/
def Strand.awaited (t : Strand) : List Nat :=
  t.rets.flatMap (fun r => match r.kind with
    | .ld | .atom | .mrd => if r.wide then [r.dest, r.dest + 1] else [r.dest]
    | _ => [])

/-- Whether the strand fits its quota and map share with the registers of `out` evicted, those of `gone` released, `pegs` pegs and `maps` bytes of maps added. -/
def Strand.fits (t : Strand) (gone out : List Nat) (pegs maps : Nat) : Bool :=
  decide (sumOf t.regPegs (t.inStore.filter (fun r => !out.contains r && !gone.contains r)) + t.queuePegs + pegs ≤ t.pegquota)
    && decide (t.regMapBytes gone out + t.fixedMapBytes + maps ≤ 32768)

/-- The fewest candidates, in order, whose eviction makes the strand fit. -/
def Strand.evictUntil (t : Strand) (gone : List Nat) (pegs maps : Nat) : List Nat → List Nat → Option (List Nat)
  | out, [] => if t.fits gone out pegs maps then some out else none
  | out, c :: r => if t.fits gone out pegs maps then some out else t.evictUntil gone pegs maps (c :: out) r

/-- What making room finds. -/
inductive RoomFor
  /-- the strand with the registers evicted -/
  | ok (t : Strand)
  /-- only registers with outstanding returns stand in the way -/
  | wait
  /-- the backing area or the quota does not hold what is needed -/
  | full
deriving DecidableEq, Repr

/-- Room for `pegs` pegs and `maps` bytes of maps (R78 to R80): `keep` is never evicted, `gone` is released before. -/
def Strand.makeRoom (t : Strand) (keep gone : List Nat) (pegs maps : Nat) : RoomFor :=
  let cand := t.written.reverse.filter (fun r => t.inStore.contains r && !keep.contains r && decide (t.vec r ≠ []))
  let free := cand.filter (fun r => !t.awaited.contains r)
  match t.evictUntil gone pegs maps [] free with
  | some out =>
    if out = [] then .ok t
    else if sumOf t.regPegs ((out ++ t.evicted).filter (fun r => !gone.contains r)) * 32 ≤ t.bkLen then .ok { t with evicted := out ++ t.evicted }
    else .full
  | none =>
    match t.evictUntil gone pegs maps [] cand with
    | some _ => .wait
    | none => .full

/-- A strand with registers evicted until its maps fit their share, when they can be (R79). -/
def Strand.fitMaps (t : Strand) : Strand :=
  if t.mapsFit then t
  else match t.makeRoom [] [] 0 0 with
    | .ok t' => t'
    | _ => t

/-- Registers of a strand moved between its core and its backing range, in class 1 (R12, R78, R364): where they lie within the range is not architectural (R81), and the model counts them from its start (DESIGN CHOICE, log 86). -/
def State.carryBacking (s : State) (t : Strand) (regs : List Nat) : State :=
  s.carryWindow t.part (dieOf t.core) t.bkOff (32 * sumOf t.regPegs regs) 1

/-- The registers evicted in `t` and not yet in `old`. -/
def Strand.leftSince (t old : Strand) : List Nat := t.evicted.filter (fun r => !old.evicted.contains r)

/-- A strand set, with the registers that it has evicted since carried to the backing area. -/
def State.setEvicting (s : State) (u : Nat) (t : Strand) : State :=
  (s.carryBacking t (t.leftSince (s.strand u))).setStrand u t

/-! Replay of the copy channel (R260). -/

/-- The queue register of a command. -/
def Cmd.queue (c : Cmd) : Option Nat :=
  match c.kind with
  | .cpy _ q _ => q
  | _ => none

/-- The next entry of a queue register has its lanes and waits for the strand: the register holds 8 entries, or no peg can be freed for it (R80, R240). -/
def Strand.queueStuck (t : Strand) (q : Nat) : Bool :=
  match t.copy.cmds.find? (fun c => decide (c.queue = some q)) with
  | some c => c.readDone && (decide (8 ≤ (Tbl.get [] t.q q).length) || decide (t.makeRoom [] [] (pegsOf c.arrived.length) (t.mapBytes c.arrived.map) = .full))
  | none => false

/-- The strand replays a copy-channel command: it issues nothing until the command is complete (R260); a queue form whose lanes are done behind a queue register that only the strand can empty holds nothing back (R240; DEDUCED, log 55). -/
def Strand.replaying (t : Strand) : Bool :=
  t.copy.cmds.any (fun c => c.replayed && !(c.readDone && (match c.queue with
    | some q => t.queueStuck q
    | none => false)))

/-! Runs and readiness (R158, R160). -/

/-- A strand made Ready now, behind those Ready before it; one whose parked instruction carries S first waits for its returns (R41), and a resumed one for the replay of its copy-channel commands (R260). -/
def State.makeReady (s : State) (u : Nat) : State :=
  let t := s.strand u
  if t.sMark && decide (t.rets ≠ []) then s.setStrand u { t with life := .parked .marker, sMark := false }
  else if t.replaying then s.setStrand u { t with life := .parked .replay, sMark := false }
  else { s.setStrand u { t with life := .ready, readyAt := s.clock, sMark := false } with clock := s.clock + 1 }

/-- The end of a core's run (R158); its charge is kept for the next arbitration (R276). -/
def State.endRun (s : State) (c : Nat) : State := s.setCore c { s.core c with running := none }

/-- A strand that lives on its core: born and not frozen, killed or gone. -/
def Life.live : Life → Bool
  | .ready | .running | .parked _ | .exiting => true
  | _ => false

/-- The live strands on a core. -/
def State.liveOn (s : State) (c : Nat) : List (Nat × Strand) := s.strands.filter (fun e => decide (e.2.core = c) && e.2.life.live)

/-! Meeting points (R166, R181). -/

/-- A meeting point of a frame. -/
def Frame.point (f : Frame) (j : Nat) : MeetPt := Tbl.get MeetPt.reset f.meet j
/-- A frame with a meeting point set. -/
def Frame.setPoint (f : Frame) (j : Nat) (m : MeetPt) : Frame := { f with meet := Tbl.set MeetPt.reset f.meet j m }
/-- A strand's record of a meeting point. -/
def Strand.meetRec (t : Strand) (j : Nat) : MeetRec := Tbl.get MeetRec.reset t.meets j
/-- A strand with its record of a meeting point set. -/
def Strand.setMeetRec (t : Strand) (j : Nat) (r : MeetRec) : Strand := { t with meets := Tbl.set MeetRec.reset t.meets j r }

/-- The check of R181 on point `j` after an arrival, an EXIT or a kill: AB is set when the live strands can no longer make up CNT. -/
def meetCheck (s : State) (fu j : Nat) : State :=
  let f := s.frame fu
  let m := f.point j
  let free := (f.strands.filter (fun u => !m.arr.getLsbD (s.strand u).sidx)).length
  if m.arr ≠ 0 ∧ popcount m.arr + free < m.cnt then s.setFrame fu (f.setPoint j { m with ab := true }) else s

/-- The check of R181 on every meeting point. -/
def meetCheckAll (s : State) (fu : Nat) : State := (List.range 16).foldl (fun s j => meetCheck s fu j) s

/-- The arrival of strand `u` at point `j` with count `n` (R181): no check for abandonment or a set bit. -/
def meetArrival (s : State) (u j n : Nat) : State :=
  let t := s.strand u
  let f := s.frame t.frame
  let m := f.point j
  let cnt := if m.arr = 0 then (if n = 0 then t.fsize else n) else m.cnt
  let arr := m.arr ||| BitVec.ofNat 16 (2 ^ t.sidx)
  let m' : MeetPt := if popcount arr = cnt then { m with phase := m.phase + 1, arr := 0, cnt := cnt } else { m with arr := arr, cnt := cnt }
  let s' := (s.setFrame t.frame (f.setPoint j m')).setStrand u (t.setMeetRec j { pend := true, ph := m.phase })
  meetCheck s' t.frame j

/-- A WAIT of R181 is done: the phase has changed, the point or the frame is abandoned, or nobody else is left and nobody has arrived. -/
def meetDone (s : State) (u j : Nat) (t : BitVec 16) : Bool :=
  let f := s.frame (s.strand u).frame
  let m := f.point j
  decide (m.phase ≠ t) || f.fab || m.ab || (decide (m.arr = 0) && decide (f.strands.filter (· ≠ u) = []))

/-- The end of a WAIT of R181: PEND cleared, the status written; OK is an acquire. -/
def meetFinish (s : State) (u j : Nat) (t : BitVec 16) (x : SCode) : State :=
  let st := s.strand u
  let m := (s.frame st.frame).point j
  let st' := (st.setMeetRec j { st.meetRec j with pend := false }).setS x (if m.phase ≠ t then 0 else 1)
  s.setStrand u (if m.phase ≠ t then st'.acquires s else st')

/-- t of a WAIT of R181: the recorded phase while PEND is set, else the present one. -/
def meetFrom (s : State) (u j : Nat) : BitVec 16 :=
  let t := s.strand u
  if (t.meetRec j).pend then (t.meetRec j).ph else ((s.frame t.frame).point j).phase

/-- One parked MEET of a frame taken up again when its cause has cleared; the second value says whether it was. -/
def meetWake (s : State) (u : Nat) : State × Bool :=
  let t := s.strand u
  let f := s.frame t.frame
  match t.life with
  | .parked (.meetWait x j ph _) => if meetDone s u j ph then ((meetFinish s u j ph x).makeReady u, true) else (s, false)
  | .parked (.meetArrive form x j n ph op) =>
    let m := f.point j
    if f.fab || m.ab then
      match form with
      | .arr => ((s.setStrand u (t.setS x 1)).makeReady u, true)
      | _ => ((meetFinish s u j (meetFrom s u j) x).makeReady u, true)
    else if m.phase ≠ ph then
      if m.arr.getLsbD t.sidx then (s.setStrand u { t with life := .parked (.meetArrive form x j n m.phase op) }, false)
      else
        let s' := meetArrival s u j n
        match form with
        | .arr => ((s'.setStrand u ((s'.strand u).setS x 0)).makeReady u, true)
        | _ => (s'.setStrand u { s'.strand u with life := .parked (.meetWait x j m.phase (some op)) }, true)
    else (s, false)
  | _ => (s, false)

/-- Every parked MEET of a frame taken up until none moves, in the order in which the frame's strands are listed (DESIGN CHOICE, log 16); `n` bounds the rounds. -/
def meetWakeAll (fu : Nat) : Nat → State → State
  | 0, s => s
  | n + 1, s =>
    let (s', moved) := (s.frame fu).strands.foldl (fun (a : State × Bool) u => let (b, w) := meetWake a.1 u; (b, a.2 || w)) (s, false)
    if moved then meetWakeAll fu n s' else s'

/-! The end of a strand (R155 step 3, R322). -/

/-- The latch of a frame on a core. -/
def Frame.latchOn (f : Frame) (c : Nat) : Latch := Tbl.get Latch.reset f.latch c

/-- The batch number after another (R253). -/
def nextBatch (n : W32) : W32 := if n + 1 = 0 then 1 else n + 1

/-- A done mark advanced over the batches that have completed. -/
def advanceMark (last : W32) (open_ : W32 → Bool) : Nat → W32 → W32
  | 0, d => d
  | n + 1, d => if d = last then d else if open_ (nextBatch d) then d else advanceMark last open_ n (nextBatch d)

/-- Every piece is read. -/
def Pieces.read (l : Pieces) : Bool := List.all l (fun e => e.2.isSome)

/-- A matrix command in its channel is READ-DONE: an MMA whose rows and B are read, an MST whose scale tiles are read (R217). -/
def MCmd.readDone (c : MCmd) : Bool :=
  match c.kind with
  | .mma _ _ _ _ a b => a.read && b.read
  | .mst _ _ _ _ _ _ _ ws as _ => ws.read && as.read
  | _ => false

/-- The done marks of a matrix channel advanced: a command is VISIBLE when it leaves the channel (R217). -/
def MxCh.advance (m : MxCh) : MxCh :=
  { m with
    rdone := advanceMark m.mxbatch (fun b => m.cmds.any (fun c => decide (c.batch = some b) && !c.readDone)) 128 m.rdone
    vdone := advanceMark m.mxbatch (fun b => m.cmds.any (fun c => decide (c.batch = some b))) 128 m.vdone }

/-- A status word with an error recorded: FIRST keeps the first (R252). -/
def markError (w : W64) (code : Nat) : W64 := if w.getLsbD 0 then w else w ||| BitVec.ofNat 64 (code * 256 + 1)

/-- The place of a command's status: its batch's, or 64 before it is in one. -/
def statusPlace (b : Option W32) : Nat :=
  match b with
  | some b => b.toNat % 64
  | none => 64

/-- A status table with an error recorded for a command's batch. -/
def markAt (st : Tbl W64) (b : Option W32) (code : Nat) : Tbl W64 := Tbl.set 0 st (statusPlace b) (markError (Tbl.get 0 st (statusPlace b)) code)

/-- An MMA that waits for its gang to close. -/
def MCmd.held (c : MCmd) : Bool :=
  match c.kind with
  | .mma _ _ (some _) false _ _ => true
  | _ => false

/-- The channel of a strand without the MMA that an abandoned gang held; its batch is marked with GANG (R213). -/
def abandonMma (mx : MxCh) : MxCh :=
  { mx with cmds := mx.cmds.filter (fun c => !c.held), st := (mx.cmds.filter MCmd.held).foldl (fun st (c : MCmd) => markAt st c.batch 5) mx.st }.advance

/-- Abandonment of the open latch of a frame on a core (R213): the members that arrived lose their held MMAs, those that have ended since among them. -/
def abandonGang (s : State) (fu c : Nat) : State :=
  let f := s.frame fu
  let l := f.latchOn c
  let s' := { s with strands := s.strands.map (fun (e : Nat × Strand) =>
    if e.2.frame = fu ∧ e.2.core = c ∧ l.arr.getLsbD e.2.sidx = true then (e.1, { e.2 with mx := abandonMma e.2.mx }) else e) }
  let s'' := s'.setFrame fu { s'.frame fu with latch := Tbl.set Latch.reset f.latch c Latch.reset }
  f.strands.foldl (fun s u => match (s.strand u).life with
    | .parked .gang => if (s.strand u).core = c then s.makeReady u else s
    | _ => s) s''

/-- The latches that a strand's end abandons: one that names it and has no arrival of it (R213). -/
def gangCheck (s : State) (u : Nat) : State :=
  let t := s.strand u
  let l := (s.frame t.frame).latchOn t.core
  if l.isOpen && l.gm.getLsbD t.sidx && !l.arr.getLsbD t.sidx then abandonGang s t.frame t.core else s

/-- The end of a frame ends its open latches: the MMAs still held in them are discarded (R213; DESIGN CHOICE, log 52). -/
def State.endLatches (s : State) (fu : Nat) : State :=
  (s.frame fu).cores.foldl (fun s c => if ((s.frame fu).latchOn c).isOpen then abandonGang s fu c else s) s

/-- The frame ended: its allocation and its banks return to the free pools. -/
def State.dropFrame (s : State) (fu : Nat) : State :=
  let s := s.endLatches fu
  s.setFrame fu { s.frame fu with gone := true, held := [], latch := [] }

/-- Step 3 of R155: pegs, maps, backing range, Q entries and stack released; queues and channels stay. -/
def State.releaseStrand (s : State) (u : Nat) : State :=
  let t := s.strand u
  let s' := s.setStrand u { t with life := .gone, v := [], q := [], p := [], stack := [], evicted := [], written := [], bkLen := 0, rets := [], locks := [] }
  s'.setFrame t.frame { s'.frame t.frame with strands := (s'.frame t.frame).strands.filter (· ≠ u) }

/-- The kill record of R361, SEQ left 0. -/
def killRecord (t : Strand) (code : W64) (pc : BitVec 54) : BitVec 256 :=
  (0 : BitVec 10) ++ pc ++ code ++ t.frameId ++ t.launchId ++ (0 : BitVec 32) ++ (0 : BitVec 20) ++ BitVec.ofNat 4 t.sidx ++ (2 : BitVec 8)

/-- The kill of a strand (R322) with the code and address of its record; the results kept for returns it no longer takes are freed, and its pending MALLOC requests and XPULL are withdrawn (DESIGN CHOICE, log 87). A strand whose record cannot be held yet keeps its slot, with its place in the order of records (R361). -/
def State.kill (s : State) (u : Nat) (code : W64) (pc : BitVec 54) : State :=
  let t := s.strand u
  let p := s.part t.part
  let s := s.setPart t.part { p with
    errs := { p.errs with kill := satAdd p.errs.kill 1 }, pulls := p.pulls.filter (· ≠ u), results := p.results.filter (fun e => !t.rets.any (fun r => decide (r.tag = e.1.1))) }
  let s := s.setCore t.core { s.core t.core with reqs := (s.core t.core).reqs.filter (fun r => decide (r.sid ≠ u)) }
  let s := gangCheck s u
  let s := s.releaseStrand u
  let f := s.frame t.frame
  let s := s.setFrame t.frame { f with fab := true }
  let s := meetCheckAll s t.frame
  let s := meetWakeAll t.frame 64 s
  let s := if (s.frame t.frame).strands = [] then s.dropFrame t.frame else s
  let full := decide (256 ≤ (s.part t.part).eventQ.held.length)
  let s := if full then { s.setStrand u { s.strand u with life := .killed, readyAt := s.clock } with clock := s.clock + 1 }
    else s.setStrand u { s.strand u with life := .gone }
  let s := if (s.core t.core).running = some u then s.endRun t.core else s
  s.report t.part true (killRecord t code pc)

/-! Taking an exception (R318 to R321). -/

/-- CODE of R320. -/
def Code.num : Code → Nat
  | .illegalOpcode => 1 | .illegalEncoding => 2 | .illegalOperand => 3 | .reservedField => 4 | .privilege => 5 | .nearBounds => 6
  | .misaligned => 7 | .pegExhausted => 8 | .stackDepth => 9 | .mapDrop => 10 | .overlayAbsent => 11 | .codeReplaced => 12
  | .scaleLayout => 13 | .gang => 14 | .accRange => 15 | .format => 16 | .launchMismatch => 17 | .copyError => 18
  | .engineReset => 19 | .uncorrectable => 20 | .trap => 21 | .bkpt => 22

/-- TRAPCODE (R319). -/
def trapWord (c : Code) (detail : Nat) : W64 := BitVec.ofNat 64 (detail % 2 ^ 24 * 2 ^ 32 + c.num)

/-- OVID and WORD of HANDLER, ABSVEC and IDEM (R318). -/
def vecOvid (v : BitVec 38) : BitVec 24 := v.extractLsb' 14 24
/-- WORD of HANDLER, ABSVEC and IDEM (R318). -/
def vecWord (v : BitVec 38) : Nat := (v.extractLsb' 0 14).toNat

/-- Where the delivery of a fault goes (R321): none when it kills instead. -/
def trapTarget (s : State) (t : Strand) (c : Code) : Option PC :=
  let target := if c = .overlayAbsent ∧ t.absvec ≠ 0 then t.absvec else t.handler
  if c = .uncorrectable then none
  else if target = 0 then none
  else if 32 ≤ t.stack.length then none
  else (s.core t.core).pcAt (vecOvid target) (vecWord target)

/-- The strand as the delivery of a fault leaves it (R321): TRAPCODE, TRAPPC, the TRAP entry with the scope and F, the PC; ENGINE-RESET clears RST (R198). -/
def Strand.take (t : Strand) (c : Code) (detail : Nat) (a resume dest : PC) : Strand :=
  { t with
    trapcode := trapWord c detail
    trappc := a.bits
    stack := { map := t.scope, link := resume, fcopy := t.f, kind := .trap } :: t.stack
    pc := dest
    slotEnd := none
    passed := false
    sMark := false
    mx := if c = .engineReset then { t.mx with rst := false } else t.mx }

/-- Taking an exception (R321): fault `c` of strand `u`, raised at `a`, to be resumed at `resume`. Registers leave the operand store when the pushed scope exceeds the map share, as far as the backing area takes them (R79, log 66). The run ends and the strand is Ready at its handler, or it is killed. -/
def takeFault (s : State) (u : Nat) (c : Code) (detail : Nat) (a resume : PC) : State :=
  let t := s.strand u
  match trapTarget s t c with
  | none => s.kill u (trapWord c detail) a.bits
  | some dest =>
    let s := s.setEvicting u (t.take c detail a resume dest).fitMaps
    let s := if (s.core t.core).running = some u then s.endRun t.core else s
    s.makeReady u

/-- The entries from the highest one of a kind downward (R152): none when an entry of `stops` or the BASE entry comes first. -/
def popTo (kind : CKind) (stops : List CKind) : List CEntry → Option (CEntry × List CEntry)
  | [] => none
  | e :: r => if e.kind = kind then some (e, r) else if e.kind = .base ∨ e.kind ∈ stops then none else popTo kind stops r

end Sys2Proof.Machine
end

