-- ==== Sys2Proof/Machine/Operands.lean ====
section
/-! DEFINITION. Operands.lean: operand forms: map registers and qualifiers (R61, R82), vector operands and queue pops (R59, R60), operating maps (R68, R69), map discipline (R72), room for results and for registers that come back (R77 to R80), near addresses and their checks (R163 to R168). -/

namespace Sys2Proof.Machine

/-! Map registers. -/

/-- Lanes 0 to L − 1. -/
def Strand.all (t : Strand) : LaneMap := lanesBelow t.ext

/-- A map register; P0 reads the scope (R46, R61). -/
def Strand.mapReg (t : Strand) (c : MCode) : LaneMap := if c = 0 then t.scope else Tbl.get 0 t.p c.toNat

/-- A map register written; P0 is never written (R61). -/
def Strand.setMapReg (t : Strand) (c : MCode) (m : LaneMap) : Strand := if c = 0 then t else { t with p := Tbl.set 0 t.p c.toNat m }

/-- The qualifier q: P[M], or lanes 0 to L − 1 when M is zero (R82). -/
def Strand.qual (t : Strand) (m : MCode) : LaneMap := if m = 0 then t.all else t.mapReg m

/-- The birth map: the scope ∧ P[M], or the scope alone when M is zero (R69). -/
def Strand.birth (t : Strand) (m : MCode) : LaneMap := if m = 0 then t.scope else t.scope &&& t.mapReg m

/-! Base registers. -/

/-- A base register (R62). -/
def Strand.base (t : Strand) (r : BCode) : W80 := Tbl.get 0 t.b r.toNat
/-- A base register written (R62). -/
def Strand.setBase (t : Strand) (r : BCode) (v : W80) : Strand := { t with b := Tbl.set 0 t.b r.toNat v }

/-! Vector operands. -/

/-- A vector source: its code, and whether it names a pair (R59). -/
structure VSrc where
  code : VCode
  wide : Bool
deriving DecidableEq, Repr

/-- A vector operand as read: its registers' maps, one or two, and the values of its halves. -/
structure VOpd where
  maps : List LaneMap
  lo : VReg
  hi : VReg
deriving DecidableEq, Repr

/-- A vector source read: a pair's map is the intersection of the two maps (R59). -/
def Strand.readV (t : Strand) (v : VSrc) : VOpd :=
  let lo := t.vec v.code.toNat
  if v.wide then
    let hi := t.vec (v.code.toNat + 1)
    { maps := [lo.map, hi.map], lo := lo, hi := hi }
  else { maps := [lo.map], lo := lo, hi := [] }

/-- The map of an operand. -/
def VOpd.map (o : VOpd) : LaneMap :=
  match o.maps with
  | [a, b] => a &&& b
  | [a] => a
  | _ => 0

/-- The value of a lane, 64 bits; the high half is 0 for a 32-bit operand. -/
def VOpd.at (o : VOpd) (l : Nat) : W64 := o.hi.lane l ++ o.lo.lane l

/-- How an operating map is formed. -/
inductive How
  /-- no vector operand -/
  | none
  /-- the intersection of the sources' maps and the qualifier (R68) -/
  | meet
  /-- THIN: also a map operand (R87) -/
  | thin (z : MCode)
  /-- MERGE (R88) -/
  | merge
  /-- SEL (R99) -/
  | pick (pc : MCode)
  /-- MMA: of lanes 0 to 63 (R206) -/
  | rows
  /-- the birth map (R69) -/
  | birth
  /-- MRD: its lanes 0 to 63 (R215) -/
  | birthRows
  /-- VPUT: one lane of the birth map (R109) -/
  | put (z : SCode) (imm : W32)
deriving DecidableEq, Repr

/-- The vector use of an instruction: its sources, qualifier, whether its type is a 64-bit one, and how its operating map is formed. -/
structure Oper where
  srcs : List VSrc
  m : MCode
  wide : Bool
  how : How
deriving DecidableEq, Repr

/-- No vector operand. -/
def Oper.no : Oper := ⟨[], 0, false, .none⟩

/-- Sources of one width under a qualifier. -/
def Oper.of (wide : Bool) (m : MCode) (l : List VCode) : Oper := ⟨l.map (fun c => ⟨c, wide⟩), m, wide, .meet⟩

/-- The vector use of every instruction. -/
def operOf : Instr → Oper
  | .pmap _ _ y m => .of false m [y]
  | .thin _ ty _ y z m => { Oper.of ty.wide m [y] with how := .thin z }
  | .merge _ ty _ y z m => { Oper.of ty.wide m [y, z] with how := .merge }
  | .add _ ty _ _ y z m | .sub _ ty _ _ y z m | .mul _ ty _ _ y z m => .of ty.wide m [y, z]
  | .mulh _ ty _ y z m | .min _ ty _ y z m | .max _ ty _ y z m => .of ty.wide m [y, z]
  | .mad _ ty _ _ y z w m => .of ty.wide m [y, z, w]
  | .neg _ ty _ _ y m | .not_ _ ty _ y m | .mov _ ty _ y m => .of ty.wide m [y]
  | .and_ _ ty _ y z m | .or_ _ ty _ y z m | .xor_ _ ty _ y z m => .of ty.wide m [y, z]
  | .shl _ ty _ y z m | .shr _ ty _ y z m => .of ty.wide m [y, z]
  | .popc _ _ y m | .clz _ _ y m => .of false m [y]
  | .bfx _ _ _ y z m => .of false m [y, z]
  | .bfi _ _ y z w m => .of false m [y, z, w]
  | .cmp _ ty _ _ _ y z m => .of ty.wide m [y, z]
  | .sel _ ty _ y z pc m => { Oper.of ty.wide m [y, z] with how := .pick pc }
  | .movi _ ty _ m _ => ⟨[], m, ty.wide, .birth⟩
  | .laneid _ _ m => ⟨[], m, false, .birth⟩
  | .bcast _ ty _ _ m => ⟨[], m, ty.wide, .birth⟩
  | .cvt _ src ty _ y m => ⟨[⟨y, src.wide⟩], m, src.wide || ty.wide, .meet⟩
  | .shfl _ (.idx z) _ y m => .of false m [y, z]
  | .shfl _ _ _ y m => .of false m [y]
  | .red _ _ ty _ y m => .of ty.wide m [y]
  | .redidx _ _ _ _ y m | .scan _ _ _ _ y m | .rank _ _ _ y m => .of false m [y]
  | .vget _ ty _ y _ _ m => .of ty.wide m [y]
  | .vput _ ty _ _ z m imm => ⟨[], m, ty.wide, .put z imm⟩
  | .fadd _ _ _ y z m | .fsub _ _ _ y z m | .fmul _ _ _ y z m | .fmin _ _ _ y z m | .fmax _ _ _ y z m => .of false m [y, z]
  | .fcopysign _ _ _ y z m | .fdiv _ _ _ y z m => .of false m [y, z]
  | .fma _ _ _ y z w m => .of false m [y, z, w]
  | .fneg _ _ _ y m | .fabs _ _ _ y m | .frcp _ _ _ y m | .frsq _ _ _ y m => .of false m [y]
  | .fsqrt _ _ _ y m | .fexp2 _ _ _ y m | .flog2 _ _ _ y m => .of false m [y]
  | .fcmp _ _ _ _ _ y z m => .of false m [y, z]
  | .ld _ ty _ _ _ _ _ z m _ => ⟨[⟨z, false⟩], m, ty.wide, .meet⟩
  | .st _ ty _ _ _ x _ z m _ => ⟨[⟨x, ty.wide⟩, ⟨z, false⟩], m, ty.wide, .meet⟩
  | .atom _ op _ _ _ _ _ _ _ z vs m _ => ⟨[⟨z, false⟩, ⟨vs, decide (op = .cas)⟩], m, false, .meet⟩
  | .cpy _ _ _ _ (.near _ _ x) _ y m _ | .cpy _ _ _ _ (.far _ _ x) _ y m _ => .of false m [y, x]
  | .cpy _ _ _ _ (.queue _) _ y m _ => .of false m [y]
  | .cpgather _ _ _ _ _ _ y _ _ _ _ m _ => .of false m [y]
  | .mma _ _ _ _ _ _ _ _ _ z m _ _ _ _ _ => { Oper.of false m [z] with how := .rows }
  | .mrd _ _ _ _ _ _ _ m => ⟨[], m, false, .birthRows⟩
  | .xbias _ _ y m => .of false m [y]
  | _ => .no

/-- The maps of the sources, pairs giving two. -/
def Strand.srcMaps (t : Strand) (o : Oper) : List LaneMap := o.srcs.flatMap (fun v => (t.readV v).maps)

/-- The intersection of maps within lanes 0 to L − 1. -/
def Strand.meetOf (t : Strand) (l : List LaneMap) : LaneMap := l.foldl (· &&& ·) t.all

/-- The operating map (R68, R69, R87, R88, R99, R109); empty for an instruction without vector operand. -/
def Strand.operMap (t : Strand) (o : Oper) : LaneMap :=
  let src (i : Nat) : LaneMap := match o.srcs[i]? with
    | some v => (t.readV v).map
    | none => 0
  match o.how with
  | .none => 0
  | .meet => t.meetOf (t.srcMaps o) &&& t.qual o.m
  | .thin z => t.meetOf (t.srcMaps o) &&& t.mapReg z &&& t.qual o.m
  | .merge => (src 0 ||| src 1) &&& t.qual o.m
  | .pick pc => ((src 0 &&& t.mapReg pc) ||| (src 1 &&& (t.all ^^^ (t.mapReg pc &&& t.all)))) &&& t.qual o.m
  | .rows => t.meetOf (t.srcMaps o) &&& t.qual o.m &&& lanesBelow 64
  | .birth => t.birth o.m
  | .birthRows => t.birth o.m &&& lanesBelow 64
  | .put z imm =>
    let j := (t.s z).toNat + imm.toNat
    if j < t.ext then t.birth o.m &&& mapOf [j] else 0

/-- The lanes dropped by a difference of the source maps (R72); none for MERGE and SEL (R73). -/
def Strand.dropCount (t : Strand) (o : Oper) : Nat :=
  match o.how with
  | .merge | .pick _ => 0
  | _ =>
    let l := t.srcMaps o
    popcount (l.foldl (· ||| ·) 0) - popcount (t.meetOf l)

/-- The operating map as R68 and R69 name it, by which charge and arbitration go: that of VPUT and MRD is the whole birth map and that of MMA its source's, whichever lanes they work on (DEDUCED, log 50). -/
def Strand.namedMap (t : Strand) (o : Oper) : LaneMap :=
  match o.how with
  | .put _ _ | .birthRows => t.birth o.m
  | .rows => t.operMap { o with how := .meet }
  | _ => t.operMap o

/-- k of R343: the lanes of the operating map, doubled where a type of the instruction has 64 bits (for a CVT on either side, log 50); 1 without vector operand. -/
def Strand.lanesK (t : Strand) (o : Oper) : Nat :=
  match o.how with
  | .none => 1
  | _ => popcount (t.namedMap o) * (if o.wide then 2 else 1)

/-- The numbers of the queue registers read, each once. -/
def Oper.queues (o : Oper) : List Nat := ((o.srcs.filter (fun v => 120 ≤ v.code.toNat)).map (fun v => v.code.toNat - 120)).dedup

/-- The vector registers read. -/
def Oper.vregs (o : Oper) : List Nat :=
  o.srcs.flatMap (fun v => if 120 ≤ v.code.toNat then [] else if v.wide then [v.code.toNat, v.code.toNat + 1] else [v.code.toNat])

/-- One entry of each queue register read is popped (R60). -/
def Strand.popQ (t : Strand) (o : Oper) : Strand :=
  { t with q := o.queues.foldl (fun q n => Tbl.set [] q n (Tbl.get [] q n).tail) t.q }

/-- MAPDROP under DISC 1 (R72). -/
def Strand.countDrop (t : Strand) (o : Oper) : Strand :=
  if t.disc = 1 then { t with mapdrop := satAdd t.mapdrop (t.dropCount o) } else t

/-! Base and map registers that an instruction reads or writes (R156). -/

/-- The base registers of an instruction. -/
def basesOf : Instr → List Nat
  | .bset _ d _ _ | .bget _ _ d _ | .ldb _ _ d _ _ | .stb _ _ d _ _ | .tinv _ d _ _ => [d.toNat]
  | .badd _ d a _ => [d.toNat, a.toNat]
  | .cpy _ _ _ _ d c _ _ _ =>
    (match d with
    | .far b _ _ => [b.toNat]
    | _ => []) ++ (match c with
    | .far b _ => [b.toNat]
    | _ => [])
  | .cpgather _ (.far b _) _ _ _ _ _ _ _ _ _ _ _ => [b.toNat]
  | .ovld _ (.far b) _ _ _ _ _ _ _ _ => [b.toNat]
  | _ => []

/-- The map registers of an instruction: its qualifier, the map operands of its operating map, its sources and destinations; P0, the scope, is none. -/
def mapsOf (i : Instr) : List Nat :=
  let o := operOf i
  let form : List MCode := match o.how with
    | .thin z => [z]
    | .pick pc => [pc]
    | _ => []
  let own : List MCode := match i with
    | .pand _ x y z m | .por _ x y z m | .pxor _ x y z m | .pandn _ x y z m => [x, y, z, m]
    | .pnot _ x y m | .pmov _ x y m | .pfirst _ x y _ _ m | .elect _ x y m => [x, y, m]
    | .prange _ x _ _ _ m | .pmap _ x _ m => [x, m]
    | .pcnt _ _ y m | .pfind _ _ y _ _ m | .pspan _ _ y m => [y, m]
    | .pget _ _ y _ _ => [y]
    | .pput _ x _ _ _ | .pldm _ _ x _ _ | .pstm _ _ x _ _ => [x]
    | .cmp _ _ _ x pe _ _ _ | .fcmp _ _ _ x pe _ _ _ => [x, pe]
    | .if_ _ p _ | .brk _ p | .cont _ p | .bra _ (.none p) _ | .bra _ (.any p) _ => [p]
    | _ => []
  ((o.m :: form ++ own).map (·.toNat)).filter (fun c => decide (c ≠ 0))

/-- A fence with an acquire. -/
def fenceAcq : Instr → Bool
  | .fence _ .acq _ | .fence _ .ar _ => true
  | _ => false

/-! Destinations (R70, R77 to R80). -/

/-- The registers of a destination. -/
def destRegs (x : VCode) (wide : Bool) : List Nat := if wide then [x.toNat, x.toNat + 1] else [x.toNat]

/-- The strand with registers taken out of the backing area (R78). -/
def Strand.withBack (t : Strand) (l : List Nat) : Strand := { t with evicted := t.evicted.filter (fun r => !l.contains r) }

/-- Room for the sources, evicted ones among them, and a result of `n` lanes in a destination; an old value that is no source is released first (R77, R78). -/
def Strand.roomFor (t : Strand) (o : Oper) (x : VCode) (wide : Bool) (m : LaneMap) : RoomFor :=
  let d := destRegs x wide
  let n := popcount m
  (t.withBack o.vregs).makeRoom (o.vregs ++ d) (d.filter (fun r => !o.vregs.contains r)) (d.length * pegsOf n) (d.length * t.spanBytes m)

/-- One vector register replaced whole (R70). -/
def Strand.putReg (t : Strand) (r : Nat) (v : VReg) : Strand :=
  { t with v := Tbl.set [] t.v r v, evicted := t.evicted.filter (· ≠ r), written := r :: t.written.filter (· ≠ r) }

/-- A destination replaced whole on a map, with a value for each lane (R70); a pair takes the high halves too. -/
def Strand.putV (t : Strand) (x : VCode) (wide : Bool) (m : LaneMap) (f : Nat → W64) : Strand :=
  let ls := lanesIn t.ext m
  let t' := t.putReg x.toNat (ls.map (fun l => (l, (f l).extractLsb' 0 32)))
  if wide then t'.putReg (x.toNat + 1) (ls.map (fun l => (l, (f l).extractLsb' 32 32))) else t'

/-- The vector destination of an instruction (R46, R59). -/
def destOf : Instr → List Nat
  | .thin _ ty x _ _ _ | .merge _ ty x _ _ _ | .add _ ty _ x _ _ _ | .sub _ ty _ x _ _ _ | .mul _ ty _ x _ _ _ => destRegs x ty.wide
  | .mulh _ ty x _ _ _ | .min _ ty x _ _ _ | .max _ ty x _ _ _ | .mad _ ty _ x _ _ _ _ | .neg _ ty _ x _ _ => destRegs x ty.wide
  | .not_ _ ty x _ _ | .mov _ ty x _ _ | .and_ _ ty x _ _ _ | .or_ _ ty x _ _ _ | .xor_ _ ty x _ _ _ => destRegs x ty.wide
  | .shl _ ty x _ _ _ | .shr _ ty x _ _ _ | .sel _ ty x _ _ _ _ | .movi _ ty x _ _ | .bcast _ ty x _ _ => destRegs x ty.wide
  | .cvt _ _ ty x _ _ | .vput _ ty x _ _ _ _ | .ld _ ty _ _ _ x _ _ _ _ => destRegs x ty.wide
  | .popc _ x _ _ | .clz _ x _ _ | .bfx _ _ x _ _ _ | .bfi _ x _ _ _ _ | .laneid _ x _ | .shfl _ _ x _ _ | .scan _ _ _ x _ _ => destRegs x false
  | .rank _ _ x _ _ | .fadd _ _ x _ _ _ | .fsub _ _ x _ _ _ | .fmul _ _ x _ _ _ | .fma _ _ x _ _ _ _ | .fmin _ _ x _ _ _ => destRegs x false
  | .fmax _ _ x _ _ _ | .fneg _ _ x _ _ | .fabs _ _ x _ _ | .fcopysign _ _ x _ _ _ | .frcp _ _ x _ _ | .frsq _ _ x _ _ => destRegs x false
  | .fsqrt _ _ x _ _ | .fexp2 _ _ x _ _ | .flog2 _ _ x _ _ | .fdiv _ _ x _ _ _ | .mrd _ _ x _ _ _ _ _ | .xbias _ x _ _ => destRegs x false
  | .atom _ _ _ _ _ _ true x _ _ _ _ _ => destRegs x false
  | _ => []

/-- The evicted registers that an instruction reads (R78). -/
def Strand.lost (t : Strand) (o : Oper) : List Nat := o.vregs.dedup.filter (fun r => t.evicted.contains r)

/-- Room in the operand store for registers that come back, with the operands and the destination of the instruction kept (R78). -/
def Strand.restoreRoom (t : Strand) (keep back : List Nat) : RoomFor := (t.withBack back).makeRoom keep [] 0 0

/-- What an instruction keeps in the operand store: its vector operands and its destination (R78). -/
def keepOf (i : Instr) : List Nat := (operOf i).vregs ++ destOf i

/-- The instruction reads evicted registers that can come back: it waits for them (R78). -/
def Strand.restores (t : Strand) (i : Instr) : Bool :=
  decide (t.lost (operOf i) ≠ []) && decide (t.restoreRoom (keepOf i) (t.lost (operOf i)) ≠ .full)

/-- The instruction without a vector destination whose fault list names PEG-EXHAUSTED: CMP (R102). Those of the others do not (R91, R109, R129, R150, R154, R179; DEDUCED, log 81): such an instruction reads a register that cannot come back where it lies, and its map write is made whether or not a register can leave. -/
def faultsOnRoom : Instr → Bool
  | .cmp _ _ _ _ _ _ _ _ => true
  | _ => false

/-- Its sources alone exceed the quota, or evicted ones cannot come back (R80). -/
def Strand.sourcesExhaust (t : Strand) (o : Oper) : Bool :=
  decide (t.pegquota < sumOf t.regPegs o.vregs.dedup + t.queuePegs)
    || (decide (t.lost o ≠ []) && decide (t.restoreRoom o.vregs (t.lost o) = .full))

/-! Near space (R163 to R168). -/

/-- The place of a core in a frame's cores. -/
def Frame.half (f : Frame) (c : Nat) : Nat := if f.cores.head? = some c then 0 else 1

/-- The core and base of the half that a space names for a strand (R164). -/
def halfOf (f : Frame) (core : Nat) (sp : Space) : Nat × Nat :=
  let i := match sp with
    | .spadp => 1 - f.half core
    | _ => f.half core
  (f.cores.getD i core, f.bases.getD i 0)

/-- The bytes of a near space for a strand (R168); engine commands count the reserved vaults too where `engine`. -/
def nearSize (s : State) (t : Strand) (sp : Space) (engine : Bool) : Nat :=
  match sp with
  | .vault => if t.priv || engine then windowSize (s.part t.part) else openSize (s.part t.part)
  | _ => (s.frame t.frame).spb

/-- The key of byte `a` of a near space of a strand. -/
def nearKey (s : State) (t : Strand) (sp : Space) (a : Nat) : Nat :=
  match sp with
  | .vault => windowKey (s.part t.part) a
  | _ =>
    let (c, b) := halfOf (s.frame t.frame) t.core sp
    spadKey c (b + a)

/-- The address of R167 without bounds. -/
def nearAddr (t : Strand) (y : SCode) (lane : Nat) (imm : Int) : Int := ((t.s y).toNat : Int) + (lane : Int) + imm

/-- The checks of R168 on accesses (lane, address) of `n` bytes with an alignment unit. -/
def nearCheck (size n unit : Nat) (l : List (Nat × Int)) : Option (Code × Nat) :=
  match l.find? (fun e => decide (e.2 < 0) || decide ((size : Int) < e.2 + (n : Int))) with
  | some e => some (.nearBounds, e.1)
  | none =>
    match l.find? (fun e => decide (e.2 % (unit : Int) ≠ 0)) with
    | some e => some (.misaligned, e.1)
    | none => none

end Sys2Proof.Machine

namespace Sys2Proof

/-- Bytes of an access by type (R172). -/
def Ty.bytes : Ty → Nat
  | .s8 | .n8 | .bpn => 1
  | .s16 | .n16 | .bf16 | .f16 => 2
  | .s64 | .n64 => 8
  | _ => 4

end Sys2Proof
end

