-- ==== Sys2Proof/Machine/Flags.lean ====
section
/-! DEFINITION. Flags.lean: the fields of F (R118), STATUS (R67), integer and scalar conditions (R98, R111), branch conditions (R151), integer ranges and values by type (R92). -/

namespace Sys2Proof.Machine

/-! The format register F. -/

/-- F.FMT -/
def fFMT (f : W32) : Nat := (f.extractLsb' 0 3).toNat
/-- F.PL -/
def fPL (f : W32) : Nat := (f.extractLsb' 3 3).toNat
/-- F.RM -/
def fRM (f : W32) : Nat := (f.extractLsb' 6 2).toNat
/-- F.FZ -/
def fFZ (f : W32) : Bool := f.getLsbD 8
/-- F.SCL -/
def fSCL (f : W32) : Nat := (f.extractLsb' 9 2).toNat
/-- F.SPN -/
def fSPN (f : W32) : Nat := (f.extractLsb' 11 2).toNat

/-- A value F may take (R121). -/
def fValid (f : W32) : Bool :=
  decide (f.extractLsb' 13 19 = 0) && decide (fFMT f < 3) && decide (fSCL f ≠ 3) && decide (fSPN f ≠ 3)

/-! STATUS (R67). -/

/-- STATUS of a strand; `pair` says that its frame runs on a core pair. -/
def Strand.status (t : Strand) (pair : Bool) : W64 :=
  let bit (b : Bool) (i : Nat) : Nat := if b then 2 ^ i else 0
  BitVec.ofNat 64 (bit (t.stack.any (fun e => decide (e.kind = .trap))) 3 + bit (decide (t.idem ≠ 0)) 2 + bit pair 1 + bit t.priv 0)

end Sys2Proof.Machine

namespace Sys2Proof

/-! Integers by type (R92). -/

/-- Width of a type in bits. -/
def Ty.width : Ty → Nat
  | .s8 | .n8 | .bpn => 8
  | .s16 | .n16 | .bf16 | .f16 => 16
  | .s64 | .n64 => 64
  | _ => 32

/-- S types. -/
def Ty.isSigned : Ty → Bool
  | .s8 | .s16 | .s32 | .s64 => true
  | _ => false

/-- The least value of a type. -/
def Ty.lo (ty : Ty) : Int := if ty.isSigned then -(2 : Int) ^ (ty.width - 1) else 0
/-- The greatest value of a type. -/
def Ty.hi (ty : Ty) : Int := if ty.isSigned then (2 : Int) ^ (ty.width - 1) - 1 else (2 : Int) ^ ty.width - 1

/-- The integer the low bits of a pattern denote under a width and signedness. -/
def intOf (w : Nat) (signed : Bool) (x : W64) : Int :=
  let n := x.toNat % 2 ^ w
  if signed ∧ 2 ^ (w - 1) ≤ n then (n : Int) - (2 : Int) ^ w else (n : Int)

/-- val(x) of R92. -/
def Ty.val (ty : Ty) (x : W64) : Int := intOf ty.width ty.isSigned x

/-- wrap(x): the pattern of an integer in a type's width. -/
def Ty.wrap (ty : Ty) (v : Int) : W64 := BitVec.ofInt 64 (v % (2 : Int) ^ ty.width)

/-- sat(e, lo, hi) of a type as a pattern, or wrap(e). -/
def Ty.narrow (ty : Ty) (sat : Bool) (v : Int) : W64 :=
  if sat then ty.wrap (if v < ty.lo then ty.lo else if ty.hi < v then ty.hi else v) else ty.wrap v

/-! Conditions. -/

/-- Conditions of CMP on values (R98). -/
def ICond.holds (c : ICond) (a b : Int) : Bool :=
  match c with
  | .eq => decide (a = b)
  | .ne => decide (a ≠ b)
  | .lt => decide (a < b)
  | .le => decide (a ≤ b)
  | .gt => decide (b < a)
  | .ge => decide (b ≤ a)

/-- Conditions of SCMP (R111). -/
def SCond.holds (c : SCond) (a b : W64) : Bool :=
  match c with
  | .eq => decide (a = b)
  | .ne => decide (a ≠ b)
  | .lt => decide (a.toInt < b.toInt)
  | .le => decide (a.toInt ≤ b.toInt)
  | .gt => decide (b.toInt < a.toInt)
  | .ge => decide (b.toInt ≤ a.toInt)
  | .ltu => decide (a.toNat < b.toNat)
  | .leu => decide (a.toNat ≤ b.toNat)
  | .gtu => decide (b.toNat < a.toNat)
  | .geu => decide (b.toNat ≤ a.toNat)

/-- Conditions of BRA (R151). -/
def BraCond.taken (c : BraCond) (t : Machine.Strand) : Bool :=
  match c with
  | .always => true
  | .z r => decide (t.s r = 0)
  | .nz r => decide (t.s r ≠ 0)
  | .none p => decide (t.mapReg p = 0)
  | .any p => decide (t.mapReg p ≠ 0)

/-- Operand B of the scalar layout: S[Sb] or sext64(IMM30) (R110). -/
def SOpB.get (b : SOpB) (t : Machine.Strand) : W64 :=
  match b with
  | .reg r => t.s r
  | .imm v => v.signExtend 64

end Sys2Proof
end

