-- ==== Sys2Proof/Machine/Float.lean ====
section
/-! DEFINITION. Float.lean: the floating-point formats to the bit (R115 to R117), one exact rounding (R122), flushing (R123), NaNs (R124), the arithmetic of R126 to R132, order keys (R131), and the accumulation of R138. -/

namespace Sys2Proof.Machine

/-- A floating-point format: exponent bits and fraction bits (R115). -/
structure Fmt where
  eb : Nat
  mb : Nat
deriving DecidableEq, Repr

/-- F32. -/
def fmtF32 : Fmt := ⟨8, 23⟩
/-- F16. -/
def fmtF16 : Fmt := ⟨5, 10⟩
/-- BF16. -/
def fmtBF16 : Fmt := ⟨8, 7⟩

/-- Bits of the format without its sign. -/
def Fmt.bits (f : Fmt) : Nat := f.eb + f.mb
/-- The magnitude pattern of infinity. -/
def Fmt.infBits (f : Fmt) : Nat := (2 ^ f.eb - 1) * 2 ^ f.mb
/-- The canonical NaN (R117). -/
def Fmt.nan (f : Fmt) : Nat := f.infBits + 2 ^ (f.mb - 1)
/-- The exponent of the smallest subnormal: 1 − bias − m. -/
def Fmt.emin (f : Fmt) : Int := 2 - (2 : Int) ^ (f.eb - 1) - (f.mb : Int)

/-- A value: NaN, an infinity, or (−1)^neg · m · 2^e. -/
inductive FVal
  | nan
  | inf (neg : Bool)
  | fin (neg : Bool) (m : Nat) (e : Int)
deriving DecidableEq, Repr

/-- The magnitude pattern of the low bits of a lane (R116). -/
def Fmt.mag (f : Fmt) (x : Nat) : Nat := x % 2 ^ f.bits
/-- The sign bit. -/
def Fmt.neg (f : Fmt) (x : Nat) : Bool := x.testBit f.bits
/-- A pattern is a NaN. -/
def Fmt.isNan (f : Fmt) (x : Nat) : Bool := decide (f.infBits < f.mag x)
/-- A pattern with a sign. -/
def Fmt.signed (f : Fmt) (neg : Bool) (mag : Nat) : Nat := if neg then 2 ^ f.bits + mag else mag

/-- A subnormal replaced by a zero of its sign when FZ is 1 (R123). -/
def Fmt.flush (f : Fmt) (fz : Bool) (x : Nat) : Nat :=
  if fz ∧ f.mag x < 2 ^ f.mb then f.signed (f.neg x) 0 else f.signed (f.neg x) (f.mag x)

/-- The value of a pattern (R115). -/
def Fmt.value (f : Fmt) (x : Nat) : FVal :=
  let e := f.mag x / 2 ^ f.mb
  let m := f.mag x % 2 ^ f.mb
  if f.infBits < f.mag x then .nan
  else if f.mag x = f.infBits then .inf (f.neg x)
  else if e = 0 then .fin (f.neg x) m f.emin
  else .fin (f.neg x) (2 ^ f.mb + m) (f.emin + (e : Int) - 1)

/-- The rounding mode rounds a magnitude of this sign away from zero when it is not exact: 2 for the nearer, ties to even. -/
def awayMode (rm : Nat) (neg : Bool) : Nat :=
  match rm with
  | 0 => 2
  | 1 => 0
  | 2 => if neg then 0 else 1
  | _ => if neg then 1 else 0

/-- A magnitude m · 2^(−sh), `st` telling that a smaller positive amount is still to be added, rounded to an integer. -/
def roundShift (rm : Nat) (neg : Bool) (m sh : Nat) (st : Bool) : Nat :=
  let far := decide (Nat.log2 m + 2 < sh)
  let n := if far then 0 else m >>> sh
  let r := if far then m else m - (n <<< sh)
  let exact := decide (r = 0) && !st
  let up := match awayMode rm neg with
    | 0 => false
    | 1 => !exact
    | _ =>
      if far ∨ sh = 0 then false
      else
        let h := 1 <<< (sh - 1)
        decide (h < r) || (decide (r = h) && (st || decide (n % 2 = 1)))
  if up then n + 1 else n

/-- Rounding to a format (R122) of (−1)^neg · (m + δ) · 2^e, with 0 < δ < 1 when `st` and δ = 0 otherwise. -/
def Fmt.round (f : Fmt) (rm : Nat) (neg : Bool) (m : Nat) (e : Int) (st : Bool) : Nat :=
  if m = 0 ∧ st = false then f.signed neg 0
  else
    let q := max ((Nat.log2 m : Int) + e - (f.mb : Int)) f.emin
    let n := if q ≤ e then roundShift rm neg (m <<< (e - q).toNat) 0 st else roundShift rm neg m (q - e).toNat st
    let b := (q - f.emin).toNat * 2 ^ f.mb + n
    if b < f.infBits then f.signed neg b
    else f.signed neg (if awayMode rm neg = 0 then f.infBits - 1 else f.infBits)

/-- A result flushed after rounding (R123). -/
def Fmt.roundF (f : Fmt) (rm : Nat) (fz : Bool) (neg : Bool) (m : Nat) (e : Int) (st : Bool) : Nat := f.flush fz (f.round rm neg m e st)

/-- An exact sum of two finite values: its sign, magnitude and exponent; an exact zero takes its sign by R122. -/
def finAdd (rm : Nat) (n1 : Bool) (m1 : Nat) (e1 : Int) (n2 : Bool) (m2 : Nat) (e2 : Int) : Bool × Nat × Int :=
  let e := min e1 e2
  let a := m1 <<< (e1 - e).toNat
  let b := m2 <<< (e2 - e).toNat
  if n1 = n2 then (n1, a + b, e)
  else if a = b then (decide (rm = 3), 0, e)
  else if b < a then (n1, a - b, e)
  else (n2, b - a, e)

/-- The result of a rounded operation on values, as a pattern. -/
def Fmt.ofVal (f : Fmt) (rm : Nat) (fz : Bool) : FVal → Nat
  | .nan => f.nan
  | .inf n => f.signed n f.infBits
  | .fin n m e => f.roundF rm fz n m e false

/-- Exact addition of values (R122, R124, R126). -/
def fvAdd (rm : Nat) : FVal → FVal → FVal
  | .nan, _ => .nan
  | _, .nan => .nan
  | .inf a, .inf b => if a = b then .inf a else .nan
  | .inf a, _ => .inf a
  | _, .inf b => .inf b
  | .fin n1 m1 e1, .fin n2 m2 e2 =>
    let (n, m, e) := finAdd rm n1 m1 e1 n2 m2 e2
    .fin n m e

/-- Exact multiplication of values (R122, R124). -/
def fvMul : FVal → FVal → FVal
  | .nan, _ => .nan
  | _, .nan => .nan
  | .inf a, .inf b => .inf (a != b)
  | .inf a, .fin b m _ => if m = 0 then .nan else .inf (a != b)
  | .fin a m _, .inf b => if m = 0 then .nan else .inf (a != b)
  | .fin a m1 e1, .fin b m2 e2 => .fin (a != b) (m1 * m2) (e1 + e2)

/-- The sign changed. -/
def FVal.flip : FVal → FVal
  | .nan => .nan
  | .inf a => .inf (!a)
  | .fin a m e => .fin (!a) m e

/-- The floor of a square root, found bit by bit from bit `i` − 1 down, starting from `r`. -/
def isqrtFrom (n : Nat) : Nat → Nat → Nat
  | 0, r => r
  | i + 1, r => if (r + 2 ^ i) * (r + 2 ^ i) ≤ n then isqrtFrom n i (r + 2 ^ i) else isqrtFrom n i r

/-- The floor of a square root. -/
def isqrt (n : Nat) : Nat := isqrtFrom n (Nat.log2 n / 2 + 1) 0

/-- FDIV: a / b (R126). -/
def Fmt.div (f : Fmt) (rm : Nat) (fz : Bool) : FVal → FVal → Nat
  | .nan, _ => f.nan
  | _, .nan => f.nan
  | .inf _, .inf _ => f.nan
  | .inf a, .fin b _ _ => f.signed (a != b) f.infBits
  | .fin a _ _, .inf b => f.signed (a != b) 0
  | .fin a m1 e1, .fin b m2 e2 =>
    if m2 = 0 then (if m1 = 0 then f.nan else f.signed (a != b) f.infBits)
    else f.roundF rm fz (a != b) ((m1 <<< 64) / m2) (e1 - e2 - 64) (decide ((m1 <<< 64) % m2 ≠ 0))

/-- FSQRT (R126). -/
def Fmt.sqrt (f : Fmt) (rm : Nat) (fz : Bool) : FVal → Nat
  | .nan => f.nan
  | .inf n => if n then f.nan else f.infBits
  | .fin n m e =>
    if m = 0 then f.signed n 0
    else if n then f.nan
    else
      let m' := if e % 2 = 0 then m else 2 * m
      let e' := if e % 2 = 0 then e else e - 1
      let r := isqrt (m' <<< 64)
      f.roundF rm fz false r (e' / 2 - 32) (decide (r * r ≠ m' <<< 64))

/-- FRSQ: 1 / sqrt(a) (R126). -/
def Fmt.rsqrt (f : Fmt) (rm : Nat) (fz : Bool) : FVal → Nat
  | .nan => f.nan
  | .inf n => if n then f.nan else 0
  | .fin n m e =>
    if m = 0 then f.signed n f.infBits
    else if n then f.nan
    else
      let m' := if e % 2 = 0 then m else 2 * m
      let e' := if e % 2 = 0 then e else e - 1
      let r := isqrt (2 ^ 128 / m')
      f.roundF rm fz false r (-(e' / 2) - 64) (decide (r * r * m' ≠ 2 ^ 128))

/-- Fraction bits of the fixed-point work of FEXP2 and FLOG2: far beyond what decides any rounding of a 24-bit result (DEDUCED, log 9). -/
def fixW : Nat := 256

/-- 2 · (z + z^3/3 + z^5/5 + …) in fixed point, `p` the present odd power and `k` its exponent: 2 · atanh z. -/
def atanhSum (zz : Nat) : Nat → Nat → Nat → Nat → Nat
  | 0, _, _, acc => acc
  | n + 1, k, p, acc => atanhSum zz n (k + 2) ((p * zz) >>> fixW) (acc + 2 * p / k)

/-- The natural logarithm of a / b in fixed point, for 1 ≤ a / b ≤ 2. -/
def lnFix (a b : Nat) : Nat :=
  let z := ((a - b) <<< fixW) / (a + b)
  atanhSum ((z * z) >>> fixW) 90 1 z 0

/-- 1 + x + x²/2! + … in fixed point, `t` the present term. -/
def expSum (x : Nat) : Nat → Nat → Nat → Nat → Nat
  | 0, _, _, acc => acc
  | n + 1, k, t, acc => expSum x n (k + 1) (((t * x) >>> fixW) / (k + 1)) (acc + t)

/-- FEXP2 (R126): exact for an integer; otherwise 2^a is irrational, so its rounding is that of a truncation with more to come. -/
def Fmt.exp2 (f : Fmt) (rm : Nat) (fz : Bool) : FVal → Nat
  | .nan => f.nan
  | .inf n => if n then 0 else f.infBits
  | .fin n m e =>
    if 0 ≤ e ∨ m = 0 then
      let i : Int := if m = 0 then 0 else if 64 ≤ e then 2 ^ 20 else ((m <<< e.toNat : Nat) : Int)
      f.roundF rm fz false 1 (if n then -i else i) false
    else
      let s := (-e).toNat
      let v : Int := if n then -(m : Int) else (m : Int)
      let i := v / (2 : Int) ^ s
      let r := (v % (2 : Int) ^ s).toNat
      if r = 0 then f.roundF rm fz false 1 i false
      else
        let x := (r * lnFix 2 1) >>> s
        f.roundF rm fz false (expSum x 70 0 (1 <<< fixW) 0) (i - (fixW : Int)) true

/-- FLOG2 (R126): exact for a power of two; otherwise irrational. -/
def Fmt.log2 (f : Fmt) (rm : Nat) (fz : Bool) : FVal → Nat
  | .nan => f.nan
  | .inf n => if n then f.nan else f.infBits
  | .fin n m e =>
    if m = 0 then f.signed true f.infBits
    else if n then f.nan
    else
      let l := Nat.log2 m
      let i := e + (l : Int)
      if m = 2 ^ l then
        (if i = 0 then 0 else f.roundF rm fz (decide (i < 0)) i.natAbs 0 false)
      else
        let v := i * (2 : Int) ^ fixW + (((lnFix m (2 ^ l) <<< fixW) / lnFix 2 1 : Nat) : Int)
        f.roundF rm fz (decide (v < 0)) v.natAbs (-(fixW : Int)) true

/-- A two-operand rounded instruction. -/
inductive FOp | add | sub | mul | div
deriving DecidableEq, Repr

/-- Exact subtraction of values: a difference of two zeros of one sign has that sign, and any other of two zeros is +0, or −0 under RDN (R122; DEDUCED, log 85). -/
def fvSub (rm : Nat) (a b : FVal) : FVal :=
  match a, b with
  | .fin n1 0 e, .fin n2 0 _ => .fin (if n1 = n2 then n1 else decide (rm = 3)) 0 e
  | a, b => fvAdd rm a b.flip

/-- FADD, FSUB, FMUL and FDIV of two patterns (R126). -/
def Fmt.arith (f : Fmt) (rm : Nat) (fz : Bool) (op : FOp) (x y : Nat) : Nat :=
  let a := f.value (f.flush fz x)
  let b := f.value (f.flush fz y)
  match op with
  | .add => f.ofVal rm fz (fvAdd rm a b)
  | .sub => f.ofVal rm fz (fvSub rm a b)
  | .mul => f.ofVal rm fz (fvMul a b)
  | .div => f.div rm fz a b

/-- FMA: a · b + c with one rounding (R126). -/
def Fmt.fma (f : Fmt) (rm : Nat) (fz : Bool) (x y z : Nat) : Nat :=
  f.ofVal rm fz (fvAdd rm (fvMul (f.value (f.flush fz x)) (f.value (f.flush fz y))) (f.value (f.flush fz z)))

/-- The one-operand rounded instructions. -/
inductive FFun | rcp | rsq | sqrt | exp2 | log2
deriving DecidableEq, Repr

/-- FRCP, FRSQ, FSQRT, FEXP2 and FLOG2 of a pattern (R126). -/
def Fmt.func (f : Fmt) (rm : Nat) (fz : Bool) (op : FFun) (x : Nat) : Nat :=
  let a := f.value (f.flush fz x)
  match op with
  | .rcp => f.div rm fz (.fin false 1 0) a
  | .rsq => f.rsqrt rm fz a
  | .sqrt => f.sqrt rm fz a
  | .exp2 => f.exp2 rm fz a
  | .log2 => f.log2 rm fz a

/-- The place of a pattern in numeric order; −0 and +0 are equal. -/
def Fmt.key (f : Fmt) (x : Nat) : Int := if f.neg x then -(f.mag x : Int) else (f.mag x : Int)

/-- The same with −0 before +0 (R127). -/
def Fmt.key0 (f : Fmt) (x : Nat) : Int := if f.neg x then -(f.mag x : Int) - 1 else (f.mag x : Int)

/-- FMIN and FMAX of two patterns (R127). -/
def Fmt.minmax (f : Fmt) (fz : Bool) (mx : Bool) (x y : Nat) : Nat :=
  let a := f.flush fz x
  let b := f.flush fz y
  if f.isNan a then (if f.isNan b then f.nan else b)
  else if f.isNan b then a
  else if decide (f.key0 a ≤ f.key0 b) != mx then a else b

/-- FCMP of two patterns (R129). -/
def Fmt.cmp (f : Fmt) (fz : Bool) (c : FCond) (x y : Nat) : Bool :=
  let a := f.flush fz x
  let b := f.flush fz y
  let un := f.isNan a || f.isNan b
  let ka := f.key a
  let kb := f.key b
  match c with
  | .eq => !un && decide (ka = kb)
  | .ne => un || decide (ka ≠ kb)
  | .lt => !un && decide (ka < kb)
  | .le => !un && decide (ka ≤ kb)
  | .gt => !un && decide (kb < ka)
  | .ge => !un && decide (kb ≤ ka)
  | .un => un
  | .ord => !un

/-- FNEG, FABS and FCOPYSIGN: a sign put on a magnitude, a NaN made canonical (R117, R128). -/
def Fmt.withSign (f : Fmt) (x : Nat) (neg : Bool) : Nat := if f.isNan x then f.nan else f.signed neg (f.mag x)

/-- CVT between float formats (R130). -/
def cvtFF (src dst : Fmt) (rm : Nat) (fz : Bool) (x : Nat) : Nat := dst.ofVal rm fz (src.value (src.flush fz x))

/-- CVT of an integer to a float (R130). -/
def cvtIF (dst : Fmt) (rm : Nat) (fz : Bool) (v : Int) : Nat := dst.roundF rm fz (decide (v < 0)) v.natAbs 0 false

/-- An integer forced into a range. -/
def sat (lo hi v : Int) : Int := if v < lo then lo else if hi < v then hi else v

/-- A value rounded to an integer and saturated to a range; a NaN gives 0 (R130). -/
def valToInt (rm : Nat) (lo hi : Int) (v : FVal) : Int :=
  match v with
  | .nan => 0
  | .inf n => if n then lo else hi
  | .fin n m e =>
    let r : Nat := if 0 ≤ e then m <<< e.toNat else roundShift rm n m (-e).toNat false
    sat lo hi (if n then -(r : Int) else (r : Int))

/-- CVT of a float to an integer, saturated to the range (R130). -/
def cvtFI (src : Fmt) (rm : Nat) (fz : Bool) (lo hi : Int) (x : Nat) : Int := valToInt rm lo hi (src.value (src.flush fz x))

/-- The order keys of R131; `f32` for `.f32ord`. -/
def orderKey (f32 : Bool) (x : Nat) : Nat :=
  let h := if f32 then x / 2 ^ 16 % 2 ^ 16 else x % 2 ^ 16
  let nan := if f32 then fmtF32.isNan x else fmtBF16.isNan h
  if nan then 0xFFC0 else if h < 2 ^ 15 then h + 2 ^ 15 else 2 ^ 16 - 1 - h

/-- One level of the tree of R132. -/
def pairUp (c : Nat → Nat → Nat) : List Nat → List Nat
  | a :: b :: r => c a b :: pairUp c r
  | l => l

/-- The tree of R132; `n` bounds its levels. -/
def treeOf (c : Nat → Nat → Nat) : Nat → List Nat → List Nat
  | 0, l => l
  | n + 1, l => treeOf c n (pairUp c l)

/-- RED of F32 lanes (R132), a NaN result the canonical one (R117): 0 `.fadd`, 1 `.fmin`, 2 `.fmax`. -/
def redF (rm : Nat) (fz : Bool) (op : Nat) (l : List Nat) : Nat :=
  let f := fmtF32
  let c : Nat → Nat → Nat := match op with
    | 0 => f.arith rm fz .add
    | 1 => f.minmax fz false
    | _ => f.minmax fz true
  let id := match op with
    | 0 => 0
    | 1 => f.infBits
    | _ => f.signed true f.infBits
  let r := (treeOf c 10 (l.map (f.flush fz))).headD id
  if f.isNan r then f.nan else r

/-- The sum of one group of BF16 products, exact, rounded once to F32 under RNE (R138). -/
def groupSum (l : List (Nat × Nat)) : Nat :=
  match l.map (fun p => fvMul (fmtBF16.value p.1) (fmtBF16.value p.2)) with
  | [] => 0
  | v :: r => fmtF32.ofVal 0 false (r.foldl (fvAdd 0) v)

/-- A group sum added to the accumulator (R138). -/
def accAdd (acc g : Nat) : Nat := fmtF32.arith 0 false .add acc g

end Sys2Proof.Machine

namespace Sys2Proof

/-- The format of a floating-point type. -/
def Ty.fmt : Ty → Machine.Fmt
  | .f16 => Machine.fmtF16
  | .bf16 => Machine.fmtBF16
  | _ => Machine.fmtF32

end Sys2Proof
end

