-- ==== Sys2Proof/Machine/Record.lean ====
section
/-! DEFINITION. Record.lean: the task record (R264): its fields, the checks of R266, and a record read from the vault window. -/

namespace Sys2Proof.Machine

/-- The field of `n` bits from bit `lo`. -/
def recField (r : TaskRec) (lo n : Nat) : Nat := (r.extractLsb' lo n).toNat

/-- ARGi, sign-extended from 40 bits (R267). -/
def recArg (r : TaskRec) (i : Nat) : W64 := (r.extractLsb' (40 * i + 384) 40).signExtend 64
/-- ABV -/
def recAbv (r : TaskRec) : BitVec 38 := r.extractLsb' 328 38
/-- HND -/
def recHnd (r : TaskRec) : BitVec 38 := r.extractLsb' 290 38
/-- PRV -/
def recPrv (r : TaskRec) : Bool := r.getLsbD 289
/-- ACCB -/
def recAccb (r : TaskRec) : Nat := recField r 284 5
/-- SV -/
def recSv (r : TaskRec) : Bool := r.getLsbD 283
/-- SUCC -/
def recSucc (r : TaskRec) : Nat := recField r 249 34
/-- BK in bytes -/
def recBk (r : TaskRec) : Nat := 32 * recField r 217 32
/-- PQ + 1 -/
def recPq (r : TaskRec) : Nat := recField r 202 15 + 1
/-- SPB -/
def recSpb (r : TaskRec) : Nat := recField r 182 20
/-- PRI -/
def recPri (r : TaskRec) : Nat := recField r 180 2
/-- ECL -/
def recEcl (r : TaskRec) : Nat := recField r 177 3
/-- PAIR -/
def recPair (r : TaskRec) : Bool := r.getLsbD 176
/-- SPW -/
def recSpw (r : TaskRec) : Nat := recField r 174 2
/-- The span width: 16, 32 or 64. -/
def recSpan (r : TaskRec) : Nat := 16 * 2 ^ recSpw r
/-- The extent L. -/
def recExt (r : TaskRec) : Nat := recField r 164 10 + 1
/-- Strands of a frame: NS + 1. -/
def recStrands (r : TaskRec) : Nat := recField r 160 4 + 1
/-- CW -/
def recCw (r : TaskRec) : Bool := r.getLsbD 159
/-- CTR -/
def recCtr (r : TaskRec) : Nat := recField r 143 16
/-- CPTR -/
def recCptr (r : TaskRec) : Nat := recField r 109 34
/-- FCM -/
def recFcm (r : TaskRec) : Bool := r.getLsbD 108
/-- FC -/
def recFc (r : TaskRec) : Nat := recField r 76 32
/-- IMG -/
def recImg (r : TaskRec) : Nat := recField r 42 34
/-- Slots of the entry overlay: ISL + 1. -/
def recIsl (r : TaskRec) : Nat := recField r 38 4 + 1
/-- EOV -/
def recEov (r : TaskRec) : BitVec 24 := r.extractLsb' 14 24
/-- EW -/
def recEw (r : TaskRec) : Nat := recField r 0 14

/-- A record at a window offset. -/
def readRecord (m : Memory) (p : Part) (o : Nat) : TaskRec := BitVec.ofNat 1024 (ofBytes (m.readN (windowKey p o) 128))

/-- A counter identifier in the partition's range (R268). -/
def inCounters (p : Part) (c : Nat) : Bool := decide (p.rcd.cbase ≤ c) && decide (c < p.rcd.cbase + p.rcd.ccnt)

/-- An object of `n` bytes at a window offset with an alignment. -/
def inWindow (p : Part) (o n unit : Nat) : Bool := decide (o % unit = 0) && decide (o + n ≤ windowSize p)

/-- The checks of R266 apart from privilege; an offset is outside the window where what lies at it is not whole within the window (DEDUCED, log 84). -/
def recordOk (p : Part) (r : TaskRec) : Bool :=
  decide (recField r 366 18 = 0) && decide (recSpw r ≠ 3) && decide (recExt r % recSpan r = 0) && decide (recSpb r ≤ 524288)
    && decide (recAccb r ≤ 16) && decide (recEov r ≠ 0) && decide (recEw r < 1024 * recIsl r)
    && !(recPair r && decide (recStrands r = 1))
    && inWindow p (recImg r) (4096 * recIsl r) 256
    && (!recFcm r || inWindow p (recCptr r) 4 4)
    && (!recSv r || inWindow p (recSucc r) 128 128)
    && (!recCw r || inCounters p (recCtr r))

/-- ERR of a record at the head of a queue (R266): 0 when it passes, 1 for privilege, 2 for the other rules. -/
def recordErr (p : Part) (kok : Bool) (r : TaskRec) : Nat :=
  if recPrv r && !kok then 1 else if recordOk p r then 0 else 2

/-- The strands of a frame placed on a core: all, or those of its parity (R164). -/
def strandsOn (r : TaskRec) (place : Nat) : List Nat :=
  (List.range (recStrands r)).filter (fun i => !recPair r || decide (i % 2 = place))

end Sys2Proof.Machine
end

