-- ==== Sys2Proof/Machine/Tile.lean ====
section
/-! DEFINITION. Tile.lean: what a matrix command fixes at issue: its bank, the rows and the B descriptor of MMA with its checks and its gang (R202, R206, R208, R211, R212); the values of a B tile (R133 to R136, R207) and of scale tiles (R137). -/

namespace Sys2Proof.Machine

/-- HELD of a frame on a core (R197). -/
def Frame.heldOn (f : Frame) (c : Nat) : BitVec 16 := Tbl.get 0 f.held c

/-- The bank a matrix command names, held by the strand's frame on its core (R202). -/
def bankOf (s : State) (t : Strand) (sk : SCode) (kb : Nat) : Option Nat :=
  let b := (t.s sk).toNat + kb
  if b < 16 ∧ ((s.frame t.frame).heldOn t.core).getLsbD b then some b else none

/-- N of R206: kept elements of each group of 8. -/
def keptN (spn : Nat) : Nat := if spn = 1 then 2 else if spn = 2 then 4 else 8

/-- Bytes of one plane of a B tile (R133, R135). -/
def planeBytes (spn : Nat) : Nat := if spn = 0 then 2048 else 256 * keptN spn

/-- The ranges of B: planes and metadata, or the BF16 tile (R206). -/
def bRanges (d : BDesc) : List (Nat × Nat) :=
  if d.ty = .bf16 then [(d.sb.toNat, 8192)]
  else (List.range (8 - d.pl)).map (fun p => (d.sb.toNat + p * d.spl.toNat, planeBytes d.spn))
    ++ (if d.spn = 0 then [] else [(d.sm.toNat, 768 * keptN d.spn)])

/-- What MMA fixes at issue: its bank, the address of the A row of each lane, the B descriptor; or its fault, by checks 1 to 4 of R208. -/
def mmaUse (s : State) (t : Strand) (ty : Ty) (maj : Bool) (sp : Space) (x y : SCode) (z : VCode) (m : MCode) (kb : BitVec 4) (sk spl sm : SCode)
    (rs : BitVec 12) : Except (Code × Nat) (Nat × List (Nat × Nat) × BDesc) :=
  let fmt := fFMT t.f
  let spn := fSPN t.f
  match bankOf s t sk kb.toNat with
  | none => .error (.accRange, 0)
  | some b =>
    let o : Oper := { Oper.of false m [z] with how := .rows }
    let d : BDesc := { sp := sp, sb := t.s x, spl := t.s spl, sm := t.s sm, ty := ty, maj := maj,
                       fmt := fmt, pl := fPL t.f, spn := spn }
    let v := t.vec z.toNat
    let rows := (lanesIn t.ext (t.operMap o)).map (fun l => (l, (t.s y).toNat + (v.lane l).toNat * 16 * rs.toNat))
    let size := nearSize s t sp (decide (sp = .vault))
    let a := nearCheck (nearSize s t .spad false) (if fmt = 2 then 128 else 256) 16 (rows.map (fun e => (e.1, (e.2 : Int))))
    let outside := (bRanges d).any (fun e => decide (size < e.1 + e.2))
    if (ty = .bpn ∧ fmt = 2) ∨ (ty ≠ .bpn ∧ fmt ≠ 2) ∨ (fmt = 2 ∧ spn ≠ 0) then .error (.format, 0)
    else match a, outside with
      | some (.nearBounds, l), _ => .error (.nearBounds, l)
      | _, true => .error (.nearBounds, 0)
      | some e, _ => .error e
      | none, false =>
        if d.sb.toNat % 128 ≠ 0 ∨ (ty = .bpn ∧ d.spl.toNat % 128 ≠ 0) ∨ (spn ≠ 0 ∧ d.sm.toNat % 128 ≠ 0) then .error (.misaligned, 0) else .ok (b, rows, d)

/-- What a gang arrival meets at its latch (R212). -/
inductive GangAct | fault | park | join
deriving DecidableEq, Repr

/-- The step of R212 before the arrival is made. -/
def gangAct (s : State) (t : Strand) (d : BDesc) : GangAct :=
  let l := (s.frame t.frame).latchOn t.core
  if t.g = 0 then .fault
  else if l.isOpen && (decide (l.gm ≠ t.g) || decide (l.bd ≠ d)) then .fault
  else if l.isOpen && l.arr.getLsbD t.sidx then .park
  else .join

/-- An MMA parks before issue at its latch (R212). -/
def mmaParks (s : State) (t : Strand) (i : Instr) : Bool :=
  match i with
  | .mma _ ty maj true _ _ sp x y z m kb sk spl sm rs =>
    (match mmaUse s t ty maj sp x y z m kb sk spl sm rs with
    | .ok (_, _, d) => decide (gangAct s t d = .park)
    | .error _ => false)
  | _ => false

/-! Values. -/

/-- v_k of R134 from the first `k` bits of an element, plane 0 first. -/
def planeValue (bits : List Bool) : Int :=
  let k := bits.length
  let top := bits.zipIdx.foldl (fun (a : Int) x => if x.1 then (if x.2 = 0 then a - 128 else a + (2 : Int) ^ (7 - x.2)) else a) 0
  if k < 8 then top + (2 : Int) ^ (7 - k) else top

/-- Bit `e` of a byte string, from byte `o` (R133). -/
def bitAt (b : Array Byte) (o e : Nat) : Bool := (b.getD (o + e / 8) 0).getLsbD (e % 8)

/-- The value of stored element `e` of a BPN tile, its planes one after another in `b`. -/
def bpnElem (d : BDesc) (b : Array Byte) (e : Nat) : Int :=
  planeValue ((List.range (8 - d.pl)).map (fun p => bitAt b (p * planeBytes d.spn) e))

/-- The position index of a kept element (R135). -/
def keptPos (d : BDesc) (b : Array Byte) (j : Nat) : Nat :=
  let o := (8 - d.pl) * planeBytes d.spn
  (if bitAt b o (3 * j) then 1 else 0) + (if bitAt b o (3 * j + 1) then 2 else 0) + (if bitAt b o (3 * j + 2) then 4 else 0)

/-- The dense value (kk, n) of a BPN tile (R135, R136, R207). -/
def bpnDense (d : BDesc) (b : Array Byte) (kk n : Nat) : Int :=
  if d.spn = 0 then bpnElem d b (if d.maj then 64 * kk + n else 256 * n + kk)
  else
    let g := 32 * n + kk / 8
    let kept := (List.range (keptN d.spn)).map (fun i => keptN d.spn * g + i)
    match (kept.filter (fun j => decide (keptPos d b j = kk % 8))).getLast? with
    | some j => bpnElem d b j
    | none => 0

/-- The pattern (kk, n) of a BF16 tile (R207). -/
def bf16Dense (d : BDesc) (b : Array Byte) (kk n : Nat) : Nat :=
  let e := if d.maj then 64 * kk + n else 64 * n + kk
  (b.getD (2 * e) 0).toNat + 256 * (b.getD (2 * e + 1) 0).toNat

/-- One new element of MMA (R209): the row of A, column `n`, the accumulator's old pattern. -/
def mmaElem (d : BDesc) (a b : Array Byte) (n : Nat) (acc : W32) : W32 :=
  if d.fmt = 2 then
    let av (kk : Nat) : Nat := (a.getD (2 * kk) 0).toNat + 256 * (a.getD (2 * kk + 1) 0).toNat
    BitVec.ofNat 32 ((List.range 4).foldl (fun c g =>
      accAdd c (groupSum ((List.range 16).map (fun i => (av (16 * g + i), bf16Dense d b (16 * g + i) n))))) acc.toNat)
  else
    let av (kk : Nat) : Int := if d.fmt = 0 then (a.getD kk 0).toInt else (a.getD kk 0).toNat
    acc + BitVec.ofInt 32 ((List.range 256).foldl (fun s kk => s + av kk * bpnDense d b kk n) 0)

/-- Entry `e` of a scale tile (R137). -/
def scaleEntry (b : Array Byte) (e : Nat) : FVal :=
  let p := 8 * (e % 8) + (e / 8).xor (e % 8)
  fmtBF16.value ((b.getD (2 * p) 0).toNat + 256 * (b.getD (2 * p + 1) 0).toNat)

/-- A value converted to a type as MST writes it (R216). -/
def storeConv (ty : Ty) (rm : Nat) (fz : Bool) (v : FVal) : W64 :=
  match ty with
  | .f32 | .bf16 | .f16 => BitVec.ofNat 64 (ty.fmt.ofVal rm fz v)
  | _ => ty.wrap (valToInt rm ty.lo ty.hi v)

/-- An accumulator pattern as an exact value (R197, R216). -/
def accValue (fmt : Nat) (x : W32) : FVal :=
  if fmt = 2 then fmtF32.value x.toNat else .fin (decide (x.toInt < 0)) x.toInt.natAbs 0

end Sys2Proof.Machine
end

