-- ==== Sys2Proof/Machine/Load.lean ====
section
/-! DEFINITION. Load.lean: near memory as a strand's loads see it (R183, R184), when a load may be performed (R185, R186, R189), and the values of LDB and PLDM, which are read between their issue and the first instruction that needs them (R156, R176). -/

namespace Sys2Proof.Machine

/-- An ordering with an acquire. -/
def Ordn.isAcq : Ordn → Bool
  | .acq | .ar => true
  | _ => false
/-- An ordering with a release. -/
def Ordn.isRel : Ordn → Bool
  | .rel | .ar => true
  | _ => false

/-- Two byte ranges share a byte. -/
def overlap (a n b m : Nat) : Bool := decide (a < b + m) && decide (b < a + n)

/-- Bytes a unit covers. -/
def SUnit.len (u : SUnit) : Nat :=
  match u.op with
  | .write d => d.length
  | .atom _ => 4

/-! Reading near memory as a strand sees it (R183, R184). -/

/-- The byte at key `k` that one queued or sent unit writes. -/
def unitByte (k : Nat) (u : SUnit) : Option Byte :=
  match u.op with
  | .write d => if u.key ≤ k ∧ k < u.key + d.length then d[k - u.key]? else none
  | .atom _ => none

/-- The byte at key `k` of the latest write in a list of units. -/
def lastByte (k : Nat) (l : List SUnit) : Option Byte := (l.reverse).findSome? (unitByte k)

/-- The byte at key `k` in writes held for a comparison (R370), latest last. -/
def heldByte (k : Nat) (l : List (Nat × List Byte)) : Option Byte :=
  l.reverse.findSome? (fun h => if h.1 ≤ k ∧ k < h.1 + h.2.length then h.2[k - h.1]? else none)

/-- The unit of an entry that its ordering point will suppress, because it was performed before a freeze (R330). -/
def replayDone (s : State) (e : SEntry) (u : SUnit) : Bool := e.replayed && (s.part e.tag.part).tags.contains (e.tag, u.unit)

/-- A sent unit that its ordering point will suppress. -/
def suppressed (s : State) (e : Sent) : Bool := replayDone s e.entry e.u

/-- The units of a queued entry that are still to be performed (R193). -/
def liveUnits (s : State) (e : SEntry) : List SUnit := e.units.filter (fun u => !replayDone s e u)

/-- The writes and atomics that a core has sent and that are not yet performed, but for replays that are discarded. -/
def sentUnits (s : State) (c : Nat) : List SUnit := ((s.core c).sent.filter (fun e => !e.snap && !suppressed s e)).map (·.u)

/-- A byte as a core sees it: what the core has sent, then memory (R183). -/
def coreByte (s : State) (c k : Nat) : Byte := (lastByte k (sentUnits s c)).getD (s.mem.read k)

/-- `n` bytes as a core and its engines read them (R183, R255). -/
def coreRead (s : State) (c k n : Nat) : List Byte :=
  let sent := sentUnits s c
  (List.range n).map (fun i => (lastByte (k + i) sent).getD (s.mem.read (k + i)))

/-- A byte as a strand's load with issue number `n` reads it: its own earlier queued stores but for replays of what was performed before a freeze, its held writes, what its core sees (R184, R193). -/
def seenByte (s : State) (t : Strand) (n k : Nat) : Byte :=
  let own := (t.sq.filter (fun e => decide (e.ord < n))).flatMap (liveUnits s)
  ((lastByte k own).orElse (fun _ => heldByte k t.held)).getD (coreByte s t.core k)

/-- `len` bytes as a strand's load reads them. -/
def seen (s : State) (t : Strand) (n k len : Nat) : List Byte := (List.range len).map (fun i => seenByte s t n (k + i))

/-- The memory keys of the words of a queued snapshot (R298). -/
def SEntry.snapWords (e : SEntry) : List Nat :=
  match e.kind with
  | .snap words _ => words
  | _ => []

/-- A load of the strand with issue number `n` must wait for an atomic or a snapshot that overlaps it (R184). -/
def loadBlocked (s : State) (t : Strand) (n k len : Nat) : Bool :=
  let atom (u : SUnit) : Bool := match u.op with
    | .atom _ => overlap k len u.key 4
    | .write _ => false
  t.sq.any (fun e => decide (e.ord < n) && (e.units.any atom || e.snapWords.any (fun a => overlap k len a 4)))
    || (s.core t.core).sent.any (fun e => atom e.u || (e.snap && overlap k len e.u.key e.u.len))

/-- ext of R173. -/
def loadExt (ty : Ty) (scalar : Bool) (b : List Byte) : W64 :=
  let v := BitVec.ofNat 64 (ofBytes b)
  if scalar then (if ty.isSigned then BitVec.ofInt 64 (ty.val v) else v)
  else match ty with
    | .s8 | .s16 => BitVec.ofInt 64 (ty.val v)
    | _ => v

/-- An atomic step. -/
def SUnit.isAtom (x : SUnit) : Bool :=
  match x.op with
  | .atom _ => true
  | .write _ => false

/-- Every atomic of the strand before issue number `n` has made its steps. -/
def atomsDone (s : State) (u n : Nat) : Bool :=
  let t := s.strand u
  t.sq.all (fun e => decide (n ≤ e.ord) || !e.units.any SUnit.isAtom)
    && (s.core t.core).sent.all (fun e => decide (e.sid ≠ u) || decide (n ≤ e.ord) || !e.u.isAtom)

/-- The near bytes that an entry is to write: (key, length). -/
def ranges (s : State) (e : SEntry) : List (Nat × Nat) :=
  e.snapWords.map (fun a => (a, 4)) ++ (liveUnits s e).map (fun x => (x.key, x.len))

/-! When a load may be performed (R185, R186, R189). -/

/-- An instruction that is a near load. -/
def RKind.load : RKind → Bool
  | .ld | .lds | .ldb | .pldm => true
  | _ => false

/-- Bytes of one value of a near load: one single-copy atomic access (R169). -/
def Ret.size (r : Ret) : Nat :=
  match r.kind with
  | .ldb => 16
  | .pldm => 8
  | _ => r.ty.bytes

/-- The near loads of a strand with values still to come. -/
def Strand.loads (t : Strand) : List Ret := t.rets ++ t.locks

/-- The values of a near load that are not performed. -/
def Ret.open (r : Ret) : List RUnit := if r.kind.load then r.units.filter (fun x => x.val.isNone) else []

/-- An unperformed value of a near load covers one of `n` bytes at a key. -/
def Ret.openAt (r : Ret) (k n : Nat) : Bool := r.open.any (fun x => overlap k n x.key r.size)

/-- Every acquire of the strand before issue number `n` is performed: its acquire loads and its acquire atomics (R189). -/
def acquiresDone (s : State) (u n : Nat) : Bool :=
  let t := s.strand u
  t.rets.all (fun r => decide (n ≤ r.ord) || !r.acq || decide (r.open = []))
    && t.sq.all (fun e => decide (n ≤ e.ord) || !Ordn.isAcq e.o)
    && (s.core t.core).sent.all (fun e => decide (e.sid ≠ u) || decide (n ≤ e.ord) || !Ordn.isAcq e.entry.o)

/-- Every atomic of the strand before issue number `n` has left its queue, and every snapshot that an unperformed load in between waits for: its place in the order of R186 is the moment it leaves (DEDUCED, log 18). -/
def atomsLeft (t : Strand) (n : Nat) : Bool :=
  t.sq.all (fun e => decide (n ≤ e.ord) || (!e.units.any SUnit.isAtom
    && e.snapWords.all (fun a => t.loads.all (fun r => decide (r.ord < e.ord) || decide (n ≤ r.ord) || !r.openAt a 4))))

/-- No other strand of the core has these bytes to write in its queue: a load of them may come before the strand's own queued atomics, and what it read stays the core's latest until they have left (R186; DEDUCED, log 18). -/
def aheadFree (s : State) (u k len : Nat) : Bool :=
  s.strands.all (fun w => decide (w.1 = u) || decide (w.2.core ≠ (s.strand u).core)
    || w.2.sq.all (fun e => (ranges s e).all (fun a => !overlap k len a.1 a.2)))

/-- As far as the strand's atomics before issue number `n` go, a load of these bytes has its place in the order of R186: they have left their queue, or it may come before them. -/
def atomsPassed (s : State) (u n k len : Nat) : Bool := atomsLeft (s.strand u) n || aheadFree s u k len

/-- An access of the strand with issue number `n` to `len` bytes at a key may pass its earlier loads: each performed, or one of other bytes that no strand of the core changes before it is performed, whether it can be performed at once or R184 still holds it (R185, R186). -/
def mayPass (s : State) (u n k len : Nat) : Bool :=
  (s.strand u).loads.all (fun r => decide (n ≤ r.ord) || r.open.all (fun x =>
    !overlap k len x.key r.size && atomsPassed s u (r.ord + 1) x.key r.size))

/-- A load of the strand with issue number `n` may be performed: R184 lets it, the acquires before it are performed, and it may come before the atomics and the loads before it that are not. -/
def loadFree (s : State) (u n k len : Nat) : Bool :=
  !loadBlocked s (s.strand u) n k len && acquiresDone s u n && atomsPassed s u n k len && mayPass s u n k len

/-- The strand's earlier loads are marked when an access with issue number `n` is performed or leaves its queue: those it has passed, so that no entry of the core's strands to their bytes leaves its queue before them (R186). -/
def Strand.pass (t : Strand) (n : Nat) : Strand :=
  let mark (r : Ret) : Ret := if r.ord < n ∧ r.open ≠ [] then { r with passed := true } else r
  { t with rets := t.rets.map mark, locks := t.locks.map mark }

/-- What a strand keeps of a load performed before earlier atomics of its own (R186); what earlier loads kept is dropped once theirs have left. -/
def Strand.goAhead (t : Strand) (n k len : Nat) : Strand :=
  { t with ahead := t.ahead.filter (fun a => !atomsLeft t a.1) ++ (if atomsLeft t n then [] else [(n, k, len)]) }

/-- A strand with the value of one lane of a returning instruction known. -/
def Strand.perform (t : Strand) (ord lane : Nat) (v : W64) : Strand :=
  { t with rets := t.rets.map (fun r => if r.ord = ord then { r with units := r.units.map (fun x => if x.lane = lane then { x with val := some v } else x) } else r) }

/-- The strand after a load of its own was performed: the loads it passed are marked; an acquire (R189). -/
def Strand.loaded (t : Strand) (s : State) (r : Ret) (k : Nat) : Strand :=
  let t' := (t.pass r.ord).goAhead r.ord k r.size
  if r.acq then t'.acquires s else t'

/-- The request of a load's value counted and carried: one for each line of 128 bytes that a pass reads in the vaults, with the last of its values (R12, R170). -/
def carryLoad (s : State) (t : Strand) (r : Ret) (x : RUnit) : State :=
  if r.open.any (fun y => decide (y.lane ≠ x.lane) && decide (y.pass = x.pass) && decide (y.key / 128 = x.key / 128)) then s
  else s.carryNear t.part t.core x.key r.size r.cls

/-- One value of a near load performed, when it may be (R173, R183 to R190). -/
def performLoad (s : State) (u : Nat) (r : Ret) (x : RUnit) : State :=
  let t := s.strand u
  if r.kind.load && x.val.isNone && loadFree s u r.ord x.key r.size then
    carryLoad (s.setStrand u ((t.perform r.ord x.lane (loadExt r.ty (decide (r.kind = .lds)) (seen s t r.ord x.key r.size))).loaded s r x.key)) t r x
  else s

/-! LDB and PLDM (R175, R176): fixed-latency instructions, whose values are read at any moment from their issue to the first later instruction that reads or writes their destination (R156). -/

/-- A strand with word `w` of a map register set. -/
def Strand.setMapWord (t : Strand) (c w v : Nat) : Strand :=
  let keep : LaneMap := ~~~(BitVec.ofNat 1024 ((2 ^ 64 - 1) * 2 ^ (64 * w)))
  if c = 0 then t
  else Strand.fitMaps { t with p := Tbl.set 0 t.p c ((Tbl.get 0 t.p c &&& keep) ||| (BitVec.ofNat 1024 (v * 2 ^ (64 * w)) &&& t.all)) }

/-- A strand that has read one value of an LDB or PLDM. -/
def Strand.takeLock (t : Strand) (r : Ret) (x : RUnit) (v : Nat) : Strand :=
  let t' := match r.kind with
    | .ldb => { t with b := Tbl.set 0 t.b r.dest (BitVec.ofNat 80 v) }
    | _ => t.setMapWord r.dest x.lane v
  { t' with locks := (t'.locks.map (fun y => if y.ord = r.ord then { y with units := y.units.filter (fun z => decide (z.lane ≠ x.lane)) } else y)).filter
              (fun y => decide (y.units ≠ [])) }

/-- One value of an LDB or PLDM read. -/
def readLock (s : State) (u : Nat) (r : Ret) (x : RUnit) : State :=
  let t := s.strand u
  carryLoad (s.setEvicting u ((t.takeLock r x (ofBytes (seen s t r.ord x.key r.size))).loaded s r x.key)) t r x

/-- Values of LDB and PLDM read one after another; none when one of them must wait. -/
def readLocks (u : Nat) : List (Ret × RUnit) → State → Option State
  | [], s => some s
  | (r, x) :: l, s => if loadFree s u r.ord x.key r.size then readLocks u l (readLock s u r x) else none

/-- An instruction waits for the value of an LDB or PLDM: it reads or writes its register, or it is a fence with an acquire (R156, R180); a braced strand's next instruction always does (R370; DESIGN CHOICE, log 18). -/
def Strand.waitsFor (t : Strand) (i : Instr) (r : Ret) : Bool :=
  t.twin.isSome || fenceAcq i || (match r.kind with
    | .ldb => (basesOf i).contains r.dest
    | _ => (mapsOf i).contains r.dest)

/-- The state with the values read that an instruction of the running strand waits for; none when one of them must wait. -/
def unlock (s : State) (i : Instr) : Option State :=
  readLocks s.cur ((s.me.locks.filter (s.me.waitsFor i)).flatMap (fun r => r.units.map (fun x => (r, x)))) s

end Sys2Proof.Machine
end

