-- ==== Sys2Proof/Machine/Issue.lean ====
section
/-! DEFINITION. Issue.lean: fetch (R35 to R39, R224), the parks before issue (R157), what is performed at a scope (R183, R187), the end of a strand (R155), the clearing of parks, and the issue of an instruction: its charge, its marks and its run (R156 to R159, R343). -/

namespace Sys2Proof.Machine

/-! Fetch. -/

/-- The strand's frame runs on a core pair. -/
def State.paired (s : State) (t : Strand) : Bool := decide ((s.frame t.frame).cores.length = 2)

/-- What fetch finds. -/
inductive Fetched
  /-- an instruction of `n` words at a PC -/
  | insn (pc : PC) (i : Instr) (n : Nat)
  /-- the fault of a word -/
  | err (pc : PC) (c : FetchErr)
  /-- the slot is still loading -/
  | loading
deriving DecidableEq, Repr

/-- Fetch at a PC, passing FILL words (R37); `n` bounds the blocks of a slot. -/
def fetchAt (s : State) (t : Strand) : Nat → PC → Fetched
  | 0, pc => .err pc .slotEnd
  | n + 1, pc =>
    let c := s.core t.core
    match c.slotAt pc with
    | none => .err pc .codeReplaced
    | some j =>
      if (c.slot j).st = .loading then .loading
      else
        let w := pc.word.toNat % 1024
        let k := codeKey t.core j (4 * w)
        let room := 8 - w % 8
        if ofBytes (s.mem.readN k 4) = 2 ^ 32 - 1 then
          (if pc.leaves room then .err pc .slotEnd else fetchAt s t n (pc.plus room))
        else match decode (s.paired t) room (BitVec.ofNat 128 (ofBytes (s.mem.readN k 16))) with
          | .ok (i, len) => .insn pc i len
          | .error e => .err pc e

/-- Fetch for a strand: after a sequential advance out of its slot it faults (R38). -/
def fetch (s : State) (t : Strand) : Fetched :=
  match t.slotEnd with
  | some pc => .err pc .slotEnd
  | none => fetchAt s t 129 t.pc

/-- The fault of a word (R53 steps 1 to 7, R38, R224). -/
def fetchCode : FetchErr → Code
  | .illegalOpcode => .illegalOpcode
  | .illegalEncoding => .illegalEncoding
  | .illegalOperand => .illegalOperand
  | .reservedField => .reservedField
  | .slotEnd => .illegalEncoding
  | .codeReplaced => .codeReplaced

/-- The address of the instruction after one of `n` words: in the next slot of the overlay it takes that slot's generation. -/
def nextPC (s : State) (t : Strand) (n : Nat) : PC :=
  if t.pc.leaves n then ((s.core t.core).pcAt t.pc.ovid (t.pc.word.toNat + n)).getD (t.pc.plus n) else t.pc.plus n

/-- The target of a transfer by `off` words within the overlay (R43); none outside its extent. -/
def targetPC (s : State) (t : Strand) (off : W32) : Option PC :=
  let a := (t.pc.word.toNat : Int) + off.toInt
  if a < 0 then none else (s.core t.core).pcAt t.pc.ovid a.toNat

/-- A transfer to a stored LINK within the overlay, judged as R43 judges a target. -/
def linkPC (s : State) (t : Strand) (link : PC) : Option PC := (s.core t.core).pcAt t.pc.ovid link.word.toNat

/-! Parks before issue (R157). -/

/-- The gang latch of a strand's frame on its core already has its arrival (R212). -/
def gangHeld (s : State) (t : Strand) : Bool :=
  let l := (s.frame t.frame).latchOn t.core
  l.isOpen && l.arr.getLsbD t.sidx && decide (l.gm = t.g)

/-- The park an instruction takes before it issues: an empty Q register, an evicted register, a gang arrival already made. -/
def operandPark (s : State) (t : Strand) (i : Instr) : Option Park :=
  let o := operOf i
  match o.queues.find? (fun q => decide (Tbl.get [] t.q q = [])) with
  | some q => some (.qEmpty q)
  | none =>
    if t.restores i then some (.restore o.vregs (keepOf i))
    else if mmaParks s t i then some .gang else none

/-- The park of a strand's next instruction, before fetch or before issue. -/
def nextPark (s : State) (t : Strand) : Option Park :=
  match fetch s t with
  | .loading => some .fetch
  | .insn _ i _ => operandPark s t i
  | .err _ _ => none

/-! Performance at a scope (R183, R187). -/

/-- Every write of the strand's queue is seen by the parties of the scope when it leaves: the scope is the strand or a frame on one core. -/
def leavingPerforms (s : State) (t : Strand) (sc : Scope) : Bool :=
  match sc with
  | .strand => true
  | .frame => !s.paired t
  | _ => false

/-- Every load of the strand with an issue number below `n` is performed. -/
def Strand.loadsDone (t : Strand) (n : Nat) : Bool :=
  t.loads.all (fun r => decide (n ≤ r.ord) || (match r.kind with
    | .mrd | .xpull => true
    | _ => r.units.all (fun u => u.val.isSome)))

/-- What happens-before issue number `n` of a strand among what its core has sent: its own, and all that was sent before its last acquire (R189; DESIGN CHOICE, log 82). -/
def Sent.before (e : Sent) (t : Strand) (u n : Nat) : Bool := (decide (e.sid = u) && !e.engine && decide (e.ord < n)) || decide (e.num < t.seen)

/-- Every store, atomic and snapshot of the strand with an issue number below `n`, and every write of others that happens-before it, is performed at a scope. -/
def storesDone (s : State) (u n : Nat) (sc : Scope) : Bool :=
  let t := s.strand u
  t.sq.all (fun e => decide (n ≤ e.ord) || (match e.kind with
      | .dep _ _ | .spawn _ _ => true
      | _ => false))
    && (s.core t.core).sent.all (fun e => !e.before t u n
        || (leavingPerforms s t sc && !e.snap && (match e.u.op with
          | .write _ => true
          | .atom _ => false)))

/-- Every entry of the strand's queue before issue number `n` has left: its SPAWN and DEP among them, whose accesses are made when they leave (R272, R273). -/
def Strand.queueLeft (t : Strand) (n : Nat) : Bool := t.sq.all (fun e => decide (n ≤ e.ord))

/-- Every access of the strand before issue number `n`, and every write that happens-before it, is performed at a scope. -/
def performedBefore (s : State) (u n : Nat) (sc : Scope) : Bool :=
  (s.strand u).loadsDone n && (s.strand u).queueLeft n && storesDone s u n sc

/-! The end of a strand (R155). -/

/-- No launch. -/
def Launch.none : Launch := ⟨0, 0, 0, 0, 0, .none, .none, false, .none⟩
/-- A launch. -/
def Part.launch (p : Part) (k : Nat) : Launch := Tbl.get Launch.none p.launches k
/-- A partition with a launch set. -/
def Part.setLaunch (p : Part) (k : Nat) (l : Launch) : Part := { p with launches := Tbl.set Launch.none p.launches k l }

/-- The strand is the last live one of its frame. -/
def lastLive (s : State) (u : Nat) : Bool := decide ((s.frame (s.strand u).frame).strands.filter (· ≠ u) = [])

/-- The successor record of a strand's frame, if its launch names one (R278). -/
def successorOf (s : State) (u : Nat) : Option TaskRec :=
  let f := s.frame (s.strand u).frame
  ((s.part f.part).launch f.launch).succ

/-- LAUNCH-MISMATCH of an EXIT (R155 step 2, R278). -/
def exitMismatch (s : State) (u : Nat) : Bool :=
  let f := s.frame (s.strand u).frame
  match successorOf s u with
  | some r => lastLive s u && !(decide (recSpb r = f.spb) && decide (recPair r = decide (f.cores.length = 2))
      && f.cores.all (fun c => decide (popcount (f.heldOn c) = recAccb r)))
  | none => false

/-- The hand-over of a frame to its successor launch, created by the first one (R155 step 4, R278). -/
def handOver (s : State) (fu : Nat) (r : TaskRec) : State :=
  let f := s.frame fu
  let p := s.part f.part
  let l := p.launch f.launch
  let (p, id, key) := match l.succId with
    | some id => (p, id, (p.launches.find? (fun e => decide (e.2.launchId = id) && decide (e.2.record = r))).elim 0 (·.1))
    | none =>
      let key := s.next
      let new : Launch := { record := r, count := l.count, launchId := p.nextLaunch, home := l.home, next := l.count, queue := none, succ := none, succRead := false, succId := none }
      ({ (p.setLaunch key new).setLaunch f.launch { l with succId := some p.nextLaunch } with nextLaunch := p.nextLaunch + 1 }, p.nextLaunch, key)
  ({ s with next := s.next + 1 }.setPart f.part p).setFrame fu
    { f with launch := key, launchId := id, record := r, waitsSucc := true, inherited := true, strands := [], latch := [], meet := [],
             fab := false, image := [] }

/-- Steps 3 and 4 of R155 for a strand whose returns have arrived and whose frame matches. -/
def exitNow (s : State) (u : Nat) : State :=
  let t := s.strand u
  let fu := t.frame
  let next := successorOf s u
  let s := gangCheck s u
  let s := s.releaseStrand u
  let s := if (s.core t.core).running = some u then s.endRun t.core else s
  let s := meetCheckAll s fu
  let s := meetWakeAll fu 64 s
  if (s.frame fu).strands = [] then
    match next with
    | some r => handOver s fu r
    | none => s.dropFrame fu
  else s

/-! Batches (R252 to R255). -/

/-- a is at or before b in the window of R253. -/
def atOrBefore (a b : W32) : Bool := decide ((b - a).toNat < 2 ^ 31)

/-- The done mark that WAIT compares with (R255). -/
def waitDone (t : Strand) (vis mx : Bool) : W32 :=
  match vis, mx with
  | false, false => t.copy.rdone
  | true, false => t.copy.vdone
  | false, true => t.mx.rdone
  | true, true => t.mx.vdone

/-- The last batch of a channel (R255). -/
def waitLast (t : Strand) (mx : Bool) : W32 := if mx then t.mx.mxbatch else t.copy.cpbatch

/-- The status WAIT returns for batch `n` (R255). -/
def waitStatus (t : Strand) (mx : Bool) (n : W32) : W64 :=
  if 64 ≤ (waitLast t mx - n).toNat then 4 else Tbl.get 0 (if mx then t.mx.st else t.copy.st) (n.toNat % 64)

/-- Batch `n` has completed; for the shadow of a braced pair, at the primary too, which makes the engine commands (R370). -/
def batchOver (s : State) (t : Strand) (vis mx : Bool) (n : W32) : Bool :=
  atOrBefore n (waitDone t vis mx) && (match t.shadow, t.twin with
    | true, some w => atOrBefore n (waitLast (s.strand w) mx) && atOrBefore n (waitDone (s.strand w) vis mx)
    | _, _ => true)

/-- The status of batch `n`, with what the primary met for the shadow (R370). -/
def bothStatus (s : State) (t : Strand) (mx : Bool) (n : W32) : W64 :=
  match t.shadow, t.twin with
  | true, some w => waitStatus t mx n ||| waitStatus (s.strand w) mx n
  | _, _ => waitStatus t mx n

/-- The fault of a WAIT with the error trap on a status in error (R255). -/
def waitFault (trp mx : Bool) (st : W64) : Option Code :=
  if trp && st.getLsbD 0 then
    (if mx then (if st.extractLsb' 8 8 = 6 then some .engineReset else some .gang) else some .copyError)
  else none

/-- A strand whose WAIT of a kind is over: the writes of the batches that `.vis` names happen-before what follows; the reads that `.rd` names are made (R258). -/
def Strand.waited (t : Strand) (s : State) (vis : Bool) : Strand := if vis then t.acquires s else t

/-- The end of a WAIT whose batch has completed: its fault, or its results. -/
def waitFinish (s : State) (u : Nat) (vis mx trp : Bool) (x : SCode) (n : W32) (pc : PC) : State :=
  let t := (s.strand u).waited s vis
  let st := bothStatus s t mx n
  match waitFault trp mx st with
  | some c => takeFault (s.setStrand u { t with batchstat := st, pc := pc, slotEnd := none }) u c (n.toNat % 2 ^ 24) pc pc
  | none => (s.setStrand u { t.setS x st with batchstat := st }).makeReady u

/-! The clearing of parks. -/

/-- The returns that a FENCE waits for have arrived, and under `.ar` the stores before it are performed (R180). -/
def fenceDone (s : State) (u : Nat) (o : Ordn) (sc : Scope) (n : Nat) : Bool :=
  (s.strand u).rets.all (fun r => decide (n ≤ r.ord) || (match r.kind with
      | .mrd | .xpull => true
      | _ => false))
    && atomsDone s u n && (decide (o ≠ .ar) || storesDone s u n sc)

/-- A parked or exiting strand taken up when its cause has cleared (R157). -/
def wakeOne (s : State) (u : Nat) : State :=
  let t := s.strand u
  match t.life with
  | .parked .marker => if t.rets = [] then s.makeReady u else s
  | .parked (.qEmpty q) => if Tbl.get [] t.q q ≠ [] then s.makeReady u else s
  | .parked .fetch => (match fetch s t with
    | .loading => s
    | _ => s.makeReady u)
  | .parked (.restore l _) => if l.any (fun r => t.evicted.contains r) then s else s.makeReady u
  | .parked (.fence o sc n) => if fenceDone s u o sc n then (s.setStrand u (t.acquires s)).makeReady u else s
  | .parked .gang => if gangHeld s t then s else s.makeReady u
  | .parked (.wait vis mx trp x n pc) => if batchOver s t vis mx n then waitFinish s u vis mx trp x n pc else s
  | .parked .replay => if t.replaying then s else s.makeReady u
  | .exiting =>
    if t.rets = [] then
      (if exitMismatch s u then takeFault s u .launchMismatch 0 t.pc t.pc else exitNow s u)
    else s
  | _ => s

/-- Every strand taken up. -/
def wakeAll (s : State) : State := s.strands.foldl (fun s e => wakeOne s e.1) s

/-! Issue. -/

/-- What an instruction asks of replay and of braced execution (R339, R370). -/
inductive ICls | plain | classC | engine
deriving DecidableEq, Repr

/-- The marks of an instruction, its opcode, its words and its class. -/
structure Head where
  k : Marks
  op : Nat
  n : Nat
  cls : ICls
deriving DecidableEq, Repr

/-- What a meaning answers. -/
inductive Res
  /-- it issues and the PC moves on; `k` of R343 -/
  | done (s : State) (k : Nat)
  /-- it issues and transfers control -/
  | jump (s : State) (pc : PC) (k : Nat)
  /-- its fault, before any change -/
  | trap (c : Code) (detail : Nat)
  /-- it waits at issue and keeps the issue slot -/
  | stall
  /-- it issues and then parks -/
  | after (s : State) (p : Park) (k : Nat)
  /-- it issues and its strand leaves issue for good or as Exiting -/
  | gone (s : State)
deriving DecidableEq

/-- W(OP) of the issuing strand's partition (R343). -/
def weight (s : State) (op : Nat) : Nat := ((s.part s.me.part).rcd.chw.extractLsb' (8 * op) 8).toNat

/-- The charge of an issued instruction, W(OP) · k, to ACT of its cluster and to the charge of the run (R343). -/
def charge (s : State) (w : Nat) : State :=
  let t := s.me
  let c := s.core t.core
  { s.setCore t.core { c with runCharge := c.runCharge + w, runLen := c.runLen + 1 } with
    act := Tbl.set 0 s.act (clusterOf t.core) (Tbl.get 0 s.act (clusterOf t.core) + BitVec.ofNat 64 w) }

/-- The charge of an issued instruction, with the registers that it has evicted since `s0` carried to the backing area (R78, R364). -/
def spend (s0 s : State) (w : Nat) : State := charge (s.carryBacking s.me (s.me.leftSince s0.me)) w

/-- The registers every issue changes: the issue number; no S is pending any more; IDEM cleared by class C (R339); a comparison point spent, which makes a checkpoint due (R370). -/
def Strand.issued (t : Strand) (h : Head) : Strand :=
  { t with ord := t.ord + 1, passed := false, sMark := false, ckDue := t.ckDue || t.passed, idem := if h.cls = .classC then 0 else t.idem }

/-- The issuing strand parks and its run ends. -/
def parkMe (s : State) (p : Park) (sMark : Bool) : State :=
  let t := s.me
  (s.setMe { t with life := .parked p, sMark := sMark }).endRun t.core

/-- The issuing strand's run ends and it is Ready. -/
def endMine (s : State) : State := (s.endRun s.me.core).makeReady s.cur

/-- What follows an issue that neither parks nor transfers: the marks, and the implicit end at the 24th instruction (R41, R158, R159). -/
def afterIssue (s : State) (h : Head) : State :=
  let t := s.me
  if h.k.s && decide (t.rets ≠ []) then parkMe s .marker false
  else if h.k.e then endMine s
  else if Config.runLimit ≤ (s.core t.core).runLen then
    match nextPark s t with
    | some p => parkMe s p false
    | none => endMine (s.setMe { t with runcut := satAdd t.runcut 1 })
  else s

/-- The state after a meaning's answer; `s0` is the state before it. -/
def finish (s0 : State) (h : Head) (r : Res) : State :=
  match r with
  | .done s k =>
    let s := spend s0 s (weight s0 h.op * k)
    afterIssue (s.setMe ((s.me.issued h).advance h.n)) h
  | .jump s pc k =>
    let s := spend s0 s (weight s0 h.op * k)
    let s := s.setMe ((s.me.issued h).goto pc)
    if h.k.s && decide (s.me.rets ≠ []) then parkMe s .marker false else endMine s
  | .trap c d =>
    let t := s0.me
    if c = .trap ∨ c = .bkpt then
      let s := charge s0 (weight s0 h.op)
      takeFault (s.setMe (s.me.issued h)) s0.cur c d t.pc (nextPC s0 t h.n)
    else takeFault s0 s0.cur c d t.pc t.pc
  | .stall => s0
  | .after s p k =>
    let s := spend s0 s (weight s0 h.op * k)
    parkMe (s.setMe ((s.me.issued h).advance h.n)) p h.k.s
  | .gone s => s

/-- An instruction at a comparison point of a braced strand (R370). -/
def comparePoint (t : Strand) (h : Head) : Bool := t.twin.isSome && !t.passed && decide (h.cls ≠ .plain)

/-- The checkpoint of a braced strand, taken when the instruction at its comparison point is done and the next one comes (R370). -/
def takeCheckpoint (s : State) : State :=
  let t := { s.me with ckDue := false }
  if s.me.ckDue then { s.setMe t with ckpts := Tbl.set Strand.blank s.ckpts s.cur t } else s

/-- An instruction that the primary of a braced pair makes for both copies (R370): MEET and EXIT act on the frame of each copy. -/
def madeOnce (i : Instr) (h : Head) : Bool :=
  match i with
  | .meet _ _ _ _ _ | .exit _ => false
  | _ => decide (h.cls ≠ .plain)

/-- The scalars that such an instruction writes at issue. -/
def onceDests : Instr → List SCode
  | .atoms _ _ _ _ _ _ x _ _ _ _ => [x]
  | .xdisp _ _ _ x _ _ _ => [x]
  | .xpull _ x y z a => [x, y, z, a]
  | .xctlSetbias _ x _ _ | .xctlFlip _ x | .xctlRepl _ x _ _ | .xctlPin _ x _ _ | .xctlEvict _ x _ | .xctlDone _ x _ => [x]
  | _ => []

/-- What the primary's issue gives its shadow; `s0` is the state before it. -/
def giveShadow (s0 s : State) (i : Instr) (h : Head) : State :=
  let t := s0.me
  match t.twin with
  | some w =>
    let t' := s.strand s0.cur
    if !t.shadow && madeOnce i h && decide (t'.ord ≠ t.ord) then
      let x := s.strand w
      s.setStrand w { x with mirror := x.mirror ++ [(2 * t.ord, (onceDests i).map t'.s)] }
    else s
  | none => s

/-- A value that the primary's instruction returned, kept for its shadow. -/
def mirrorVal (s : State) (u ord lane : Nat) (v : W64) : State :=
  let t := s.strand u
  match t.shadow, t.twin with
  | false, some w => let x := s.strand w
                     s.setStrand w { x with mirror := x.mirror ++ [(2 * ord + 1, [BitVec.ofNat 64 lane, v])] }
  | _, _ => s

/-- The value kept for a lane of the shadow's instruction. -/
def Strand.mirrored (t : Strand) (ord lane : Nat) : Option W64 :=
  t.mirror.findSome? (fun e => if e.1 = 2 * ord + 1 ∧ e.2[0]? = some (BitVec.ofNat 64 lane) then e.2[1]? else none)

/-- The shadow's own part of an instruction that the primary made: its registers, and the returns it awaits. -/
def echo (s : State) (i : Instr) (vals : List W64) : Res :=
  let t := s.me
  let o := operOf i
  let spent (t : Strand) : Strand :=
    ((onceDests i).zip vals).foldl (fun t e => t.setS e.1 e.2) { t with mirror := t.mirror.filter (fun e => decide (e.1 ≠ 2 * t.ord)) }
  let ret (kind : RKind) (dest : Nat) (ty : Ty) (dests : List SCode) (lanes : List Nat) : Ret :=
    { ord := t.ord, kind := kind, dest := dest, wide := false, ty := ty, dests := dests,
      units := lanes.map (fun l => { lane := l, key := 0, off := 0, val := none }), tag := ⟨0, 0, 0, 0⟩, addr := 0, insn := 0, pc := t.pc.bits }
  let await (t : Strand) (r : Ret) : Strand := if r.units = [] then t else { t with rets := t.rets ++ [r] }
  match i with
  | .atom _ _ ty _ _ _ true x _ _ _ _ _ =>
    let m := t.operMap o
    (match t.roomFor o x false m with
    | .ok t' => .done (s.setMe (await (spent (((t'.countDrop o).popQ o).putV x false m (fun _ => 0))) (ret .atom x.toNat ty [] (lanesIn t.ext m)))) (t.lanesK o)
    | _ => .stall)
  | .atoms _ _ ty _ _ _ x _ _ _ _ => .done (s.setMe (await (spent t) (ret .atoms 0 ty [x] [0]))) 1
  | .xpull _ x y z a =>
    if (t.mirrored t.ord 3).isSome then .done (s.setMe (await (spent t) (ret .xpull 0 .b32 [x, y, z, a] (List.range 4)))) 1 else .stall
  | _ => .done (s.setMe (spent ((t.countDrop o).popQ o))) (t.lanesK o)

/-- The shadow's issue of an instruction that the primary makes for both: it faults as its own registers say, and else waits for the primary (R370). -/
def shadowRes (s : State) (i : Instr) (own : Res) : Res :=
  match own with
  | .trap c d => .trap c d
  | _ => match s.me.mirror.find? (fun e => decide (e.1 = 2 * s.me.ord)) with
    | some e => echo s i e.2
    | none => .stall

/-- The instructions that write a map register or a scope without room of their own for it (R79). -/
def writesMap : Instr → Bool
  | .pand _ _ _ _ _ | .por _ _ _ _ _ | .pxor _ _ _ _ _ | .pandn _ _ _ _ _ | .pnot _ _ _ _ | .pmov _ _ _ _ | .pfirst _ _ _ _ _ _ => true
  | .prange _ _ _ _ _ _ | .pmap _ _ _ _ | .elect _ _ _ _ | .pput _ _ _ _ _ | .cmp _ _ _ _ _ _ _ _ => true
  | .fcmp _ _ _ _ _ _ _ _ | .if_ _ _ _ | .else_ _ _ | .loop _ _ | .endloop _ _ | .call _ _ | .ocall _ _ _ => true
  | _ => false

/-- Room in the map store after a map write: vector registers leave when the share is exceeded (R79). -/
def Strand.mapRoom (t : Strand) (i : Instr) : RoomFor := if t.mapsFit then .ok t else t.makeRoom (keepOf i) [] 0 0

/-- The answer of a map-writing meaning with room made for its maps: it waits for returns in the way; where the backing area is too small, CMP faults (R78 to R80), and any other is done with its maps over the share (log 81). -/
def Res.share (i : Instr) (r : Res) : Res :=
  let room (s : State) (go : State → Res) : Res := match s.me.mapRoom i with
    | .ok t => go (s.setMe t)
    | .wait => .stall
    | .full => if faultsOnRoom i then .trap .pegExhausted 0 else go s
  match r with
  | .done s k => room s (fun s => .done s k)
  | .jump s pc k => room s (fun s => .jump s pc k)
  | r => r

/-- The answer of a meaning under R79 and R80: PEG-EXHAUSTED of CMP for its sources, and room for the maps that an instruction writes. -/
def settleRoom (s : State) (i : Instr) (r : Res) : Res :=
  match r with
  | .trap c d => .trap c d
  | r => if faultsOnRoom i && s.me.sourcesExhaust (operOf i) then .trap .pegExhausted 0 else if writesMap i then r.share i else r

/-- An instruction whose registers are there: the parks before issue, then its meaning. -/
def issueNow (i : Instr) (h : Head) (s : State) (body : State → Res) : State :=
  match operandPark s s.me i with
  | some p => parkMe s p false
  | none =>
    let s := takeCheckpoint s
    if comparePoint s.me h then parkMe s .brace false
    else if s.me.shadow && madeOnce i h then finish s h (shadowRes s i (settleRoom s i (body s)))
    else giveShadow s (finish s h (settleRoom s i (body s))) i h

/-- The issue of an instruction by the running strand: it waits at issue for the LDB and PLDM whose registers it touches (R156), and then issues. Where no strand runs, nothing happens (log 63). -/
def issue (i : Instr) (h : Head) (s : State) (body : State → Res) : Host.Outcome State Fault Refusal :=
  if s.me.life ≠ .running then .next s
  else match unlock s i with
    | none => .next s
    | some s => .next (issueNow i h s body)

end Sys2Proof.Machine
end

