-- ==== Sys2Proof/Machine/Maps.lean ====
section
/-! DEFINITION. Maps.lean: the map instructions (R82 to R91), and the two shapes of a lane result: a vector destination and a scalar destination. -/

namespace Sys2Proof.Machine

/-- An instruction with vector sources and no vector destination: map discipline, pops and MAPDROP, then the new strand (R60, R72). -/
def reads (o : Oper) (s : State) (f : Strand → List VOpd → LaneMap → Strand) : Res :=
  let t := s.me
  if t.disc = 2 ∧ t.dropCount o ≠ 0 then .trap .mapDrop (t.dropCount o)
  else .done (s.setMe (f ((t.countDrop o).popQ o) (o.srcs.map t.readV) (t.operMap o))) (t.lanesK o)

/-- An instruction with a vector destination (R70): map discipline, then room for the result, then the destination written on the operating map. -/
def writes (o : Oper) (x : VCode) (wide : Bool) (s : State) (f : Strand → List VOpd → Nat → W64) : Res :=
  let t := s.me
  let m := t.operMap o
  if t.disc = 2 ∧ t.dropCount o ≠ 0 then .trap .mapDrop (t.dropCount o)
  else match t.roomFor o x wide m with
    | .wait => .stall
    | .full => .trap .pegExhausted 0
    | .ok t' => .done (s.setMe (((t'.countDrop o).popQ o).putV x wide m (f t (o.srcs.map t.readV)))) (t.lanesK o)

/-- A map written with a cost of one (the map instructions have no vector operand but PMAP). -/
def putMap (s : State) (x : MCode) (m : LaneMap) (k : Nat) : Res := .done (s.setMe (s.me.setMapReg x m)) k

/-- A scalar written. -/
def putS (s : State) (x : SCode) (v : W64) (k : Nat) : Res := .done (s.setMe (s.me.setS x v)) k

/-- The complement of a map within lanes 0 to L − 1. -/
def Strand.compl (t : Strand) (m : LaneMap) : LaneMap := t.all ^^^ (m &&& t.all)

/-- PAND (R83). -/
def execPand (k : Marks) (x y z m : MCode) (s : State) : Host.Outcome State Fault Refusal :=
  issue (.pand k x y z m) ⟨k, 0x10, 2, .plain⟩ s (fun s => putMap s x (s.me.mapReg y &&& s.me.mapReg z &&& s.me.qual m) 1)

/-- POR (R83). -/
def execPor (k : Marks) (x y z m : MCode) (s : State) : Host.Outcome State Fault Refusal :=
  issue (.por k x y z m) ⟨k, 0x10, 2, .plain⟩ s (fun s => putMap s x ((s.me.mapReg y ||| s.me.mapReg z) &&& s.me.qual m) 1)

/-- PXOR (R83). -/
def execPxor (k : Marks) (x y z m : MCode) (s : State) : Host.Outcome State Fault Refusal :=
  issue (.pxor k x y z m) ⟨k, 0x10, 2, .plain⟩ s (fun s => putMap s x ((s.me.mapReg y ^^^ s.me.mapReg z) &&& s.me.qual m) 1)

/-- PANDN (R83). -/
def execPandn (k : Marks) (x y z m : MCode) (s : State) : Host.Outcome State Fault Refusal :=
  issue (.pandn k x y z m) ⟨k, 0x10, 2, .plain⟩ s (fun s => putMap s x (s.me.mapReg y &&& s.me.compl (s.me.mapReg z) &&& s.me.qual m) 1)

/-- PNOT (R83). -/
def execPnot (k : Marks) (x y m : MCode) (s : State) : Host.Outcome State Fault Refusal :=
  issue (.pnot k x y m) ⟨k, 0x10, 2, .plain⟩ s (fun s => putMap s x (s.me.compl (s.me.mapReg y) &&& s.me.qual m) 1)

/-- PMOV (R83). -/
def execPmov (k : Marks) (x y m : MCode) (s : State) : Host.Outcome State Fault Refusal :=
  issue (.pmov k x y m) ⟨k, 0x10, 2, .plain⟩ s (fun s => putMap s x (s.me.mapReg y &&& s.me.qual m) 1)

/-- The lanes of P[Y] ∧ q, rising. -/
def mapLanes (t : Strand) (y m : MCode) : List Nat := lanesIn t.ext (t.mapReg y &&& t.qual m)

/-- PFIRST (R84). -/
def execPfirst (k : Marks) (x y : MCode) (z : SCode) (n : BitVec 10) (m : MCode) (s : State) : Host.Outcome State Fault Refusal :=
  issue (.pfirst k x y z n m) ⟨k, 0x11, 2, .plain⟩ s (fun s =>
    let c := (s.me.s z).toNat + n.toNat
    putMap s x (mapOf ((mapLanes s.me y m).take (Nat.min c 1024))) 1)

/-- PRANGE (R84). -/
def execPrange (k : Marks) (x : MCode) (y z : SCode) (n : BitVec 10) (m : MCode) (s : State) : Host.Outcome State Fault Refusal :=
  issue (.prange k x y z n m) ⟨k, 0x11, 2, .plain⟩ s (fun s =>
    let t := s.me
    let lo := (t.s y).toNat
    let hi := Nat.min (lo + ((t.s z).toNat + n.toNat)) t.ext
    putMap s x (if lo < hi then (lanesBelow hi ^^^ lanesBelow lo) &&& t.qual m else 0) 1)

/-- PMAP (R85). -/
def execPmap (k : Marks) (x : MCode) (y : VCode) (m : MCode) (s : State) : Host.Outcome State Fault Refusal :=
  issue (.pmap k x y m) ⟨k, 0x12, 2, .plain⟩ s (fun s => putMap s x (s.me.operMap (.of false m [y])) (s.me.lanesK (.of false m [y])))

/-- PCNT (R86). -/
def execPcnt (k : Marks) (x : SCode) (y m : MCode) (s : State) : Host.Outcome State Fault Refusal :=
  issue (.pcnt k x y m) ⟨k, 0x13, 2, .plain⟩ s (fun s => putS s x (BitVec.ofNat 64 (mapLanes s.me y m).length) 1)

/-- PFIND (R86). -/
def execPfind (k : Marks) (x : SCode) (y : MCode) (z : SCode) (n : BitVec 10) (m : MCode) (s : State) : Host.Outcome State Fault Refusal :=
  issue (.pfind k x y z n m) ⟨k, 0x14, 2, .plain⟩ s (fun s =>
    let st := (s.me.s z).toNat + n.toNat
    putS s x (match (mapLanes s.me y m).find? (fun l => decide (st ≤ l)) with
      | some l => BitVec.ofNat 64 l
      | none => 0xFFFFFFFF) 1)

/-- ELECT (R86). -/
def execElect (k : Marks) (x y m : MCode) (s : State) : Host.Outcome State Fault Refusal :=
  issue (.elect k x y m) ⟨k, 0x15, 2, .plain⟩ s (fun s => putMap s x (mapOf ((mapLanes s.me y m).take 1)) 1)

/-- THIN (R87). -/
def execThin (k : Marks) (ty : Ty) (x y : VCode) (z m : MCode) (s : State) : Host.Outcome State Fault Refusal :=
  issue (.thin k ty x y z m) ⟨k, 0x16, 2, .plain⟩ s (fun s =>
    writes (operOf (.thin k ty x y z m)) x ty.wide s (fun _ v l => (v.getD 0 ⟨[], [], []⟩).at l))

/-- MERGE (R88). -/
def execMerge (k : Marks) (ty : Ty) (x y z : VCode) (m : MCode) (s : State) : Host.Outcome State Fault Refusal :=
  issue (.merge k ty x y z m) ⟨k, 0x17, 2, .plain⟩ s (fun s =>
    writes (operOf (.merge k ty x y z m)) x ty.wide s (fun _ v l =>
      match v with
      | [a, b] => if a.map.getLsbD l then a.at l else b.at l
      | _ => 0))

/-- PGET (R89). -/
def execPget (k : Marks) (x : SCode) (y : MCode) (z : SCode) (n : BitVec 10) (s : State) : Host.Outcome State Fault Refusal :=
  issue (.pget k x y z n) ⟨k, 0x18, 2, .plain⟩ s (fun s =>
    let j := (s.me.s z).toNat + n.toNat
    putS s x (if 16 ≤ j then 0 else (s.me.mapReg y &&& s.me.all).extractLsb' (64 * j) 64) 1)

/-- PPUT (R89). -/
def execPput (k : Marks) (x : MCode) (y z : SCode) (n : BitVec 10) (s : State) : Host.Outcome State Fault Refusal :=
  issue (.pput k x y z n) ⟨k, 0x18, 2, .plain⟩ s (fun s =>
    let t := s.me
    let j := (t.s z).toNat + n.toNat
    if t.ext ≤ 64 * j then putMap s x (t.mapReg x) 1
    else
      let window := (lanesBelow (64 * j + 64) ^^^ lanesBelow (64 * j)) &&& t.all
      let w : LaneMap := BitVec.ofNat 1024 ((t.s y).toNat * 2 ^ (64 * j))
      putMap s x ((t.mapReg x &&& t.compl window) ||| (w &&& window)) 1)

/-- PSPAN (R90). -/
def execPspan (k : Marks) (x : SCode) (y m : MCode) (s : State) : Host.Outcome State Fault Refusal :=
  issue (.pspan k x y m) ⟨k, 0x19, 2, .plain⟩ s (fun s =>
    let t := s.me
    let p := t.mapReg y &&& t.qual m
    putS s x (BitVec.ofNat 64 (((List.range (t.ext / t.span)).filter (fun i => p.extractLsb' (i * t.span) t.span ≠ 0)).foldl
      (fun a i => a + 2 ^ i) 0)) 1)

end Sys2Proof.Machine
end

