-- ==== Sys2Proof/Machine/Near.lean ====
section
/-! DEFINITION. Near.lean: the near-access instructions (R167 to R184), FENCE, MEET and DEP.read's wait. -/

namespace Sys2Proof.Machine

/-! Entering the store queue. -/

/-- The next tag of a strand's slot (R328). -/
def nextTag (s : State) (t : Strand) : Tag :=
  let c := s.core t.core
  { part := t.part, ordinal := ordinalOf (s.part t.part) t.core, slot := t.slot, seq := Tbl.get 0 c.seqs t.slot }

/-- The state with that tag taken. -/
def useTag (s : State) (t : Strand) : State :=
  let c := s.core t.core
  s.setCore t.core { c with seqs := Tbl.set 0 c.seqs t.slot ((Tbl.get 0 c.seqs t.slot + 1) % 8192) }

/-- The first word of an instruction (R325). -/
def firstWord (i : Instr) : W64 := ((encode i).map (fun e => e.1.extractLsb' 0 64)).getD 0

/-- All the words of an instruction. -/
def allWords (i : Instr) : BitVec 128 := ((encode i).map (·.1)).getD 0

/-- An entry put at the end of the strand's store queue. -/
def Strand.enqueue (t : Strand) (e : SEntry) : Strand := { t with sq := t.sq ++ [e] }

/-- The store queue is full, until its head leaves (R183, R259). -/
def Strand.queueFull (t : Strand) : Bool := decide (Config.storeQueueLen ≤ t.sq.length)

/-- A core that has sent more writes and steps to their ordering points, behind those before (R183). -/
def Core.send (c : Core) (l : List Sent) : Core :=
  { c with sent := c.sent ++ l.zipIdx.map (fun e => { e.1 with num := c.leaves + e.2 }), leaves := c.leaves + l.length }

/-- The returning instructions are at their limit (R323). -/
def Strand.returnsFull (t : Strand) : Bool := decide (Config.returnLimit ≤ t.rets.length)

/-! Returns (R74, R76). -/

/-- A register with the value of one lane replaced. -/
def VReg.put (v : VReg) (l : Nat) (x : W32) : VReg := List.map (fun e => if e.1 = l then (l, x) else e) v

/-- A value returned to its lane or scalar: a lane that is no longer in the destination's map discards it and counts it in STRAY (R74, R76); it is no write in the order of R78, where the destination already stands at its issue (DESIGN CHOICE, log 21). -/
def Strand.arrive (t : Strand) (r : Ret) (x : RUnit) (v : W64) : Strand :=
  match r.kind with
  | .ld | .atom | .mrd =>
    let lo := t.vec r.dest
    let hi := t.vec (r.dest + 1)
    if lo.map.getLsbD x.lane && (!r.wide || hi.map.getLsbD x.lane) then
      let t' := { t with v := Tbl.set [] t.v r.dest (lo.put x.lane (v.extractLsb' 0 32)) }
      if r.wide then { t' with v := Tbl.set [] t'.v (r.dest + 1) (hi.put x.lane (v.extractLsb' 32 32)) } else t'
    else { t with stray := satAdd t.stray 1 }
  | _ => t.setS (r.dests.getD x.lane 0) v

/-- A strand without one unit of a returning instruction, and without the instruction when it was the last (R323). -/
def Strand.dropUnit (t : Strand) (ord lane : Nat) : Strand :=
  { t with rets := (t.rets.map (fun r => if r.ord = ord then { r with units := r.units.filter (fun x => decide (x.lane ≠ lane)) } else r)).filter
             (fun r => decide (r.units ≠ [])) }

/-! Lane addresses. -/

/-- The lane addresses of R167 on an operating map, rising. -/
def laneAddrs (t : Strand) (y : SCode) (off : VReg) (m : LaneMap) (imm : W32) : List (Nat × Int) :=
  (lanesIn t.ext m).map (fun l => (l, nearAddr t y (off.lane l).toNat imm.toInt))

/-- The checks of a vector instruction before it acts: map discipline, then R168 on its lanes. -/
def vecChecks (s : State) (o : Oper) (sp : Space) (n unit : Nat) (addrs : List (Nat × Int)) : Option (Code × Nat) :=
  let t := s.me
  if t.disc = 2 ∧ t.dropCount o ≠ 0 then some (.mapDrop, t.dropCount o)
  else nearCheck (nearSize s t sp false) n unit addrs

/-- LD (R173). -/
def execLd (k : Marks) (ty : Ty) (o : Ordn) (sc : Scope) (sp : Space) (x : VCode) (y : SCode) (z : VCode) (m : MCode) (imm : W32) (s : State) :
    Host.Outcome State Fault Refusal :=
  issue (.ld k ty o sc sp x y z m imm) ⟨k, 0x60, 3, .plain⟩ s (fun s =>
    let t := s.me
    let i := Instr.ld k ty o sc sp x y z m imm
    let op := operOf i
    let m := t.operMap op
    let off := t.vec z.toNat
    let addrs := laneAddrs t y off m imm
    match vecChecks s op sp ty.bytes ty.bytes addrs with
    | some (c, d) => .trap c d
    | none => match t.roomFor op x ty.wide m with
      | .wait => .stall
      | .full => .trap .pegExhausted 0
      | .ok t' =>
        if t.returnsFull then .stall
        else
          let r : Ret := { ord := t.ord, kind := .ld, dest := x.toNat, wide := ty.wide, ty := ty, dests := [],
                           units := addrs.zipIdx.map (fun e => { lane := e.1.1, key := nearKey s t sp e.1.2.toNat, off := off.lane e.1.1, val := none, pass := e.2 / 32 }),
                           tag := ⟨0, 0, 0, 0⟩, addr := (t.s y).zeroExtend 80, insn := firstWord i, pc := t.pc.bits, acq := decide (o = .acq), cls := s.classOf t }
          let t' := ((t'.countDrop op).popQ op).putV x ty.wide m (fun _ => 0)
          .done (s.setMe { t' with rets := if addrs = [] then t'.rets else t'.rets ++ [r] }) (t.lanesK op))

/-- LDS (R173). -/
def execLds (k : Marks) (ty : Ty) (o : Ordn) (sc : Scope) (sp : Space) (x y : SCode) (imm : W32) (s : State) :
    Host.Outcome State Fault Refusal :=
  issue (.lds k ty o sc sp x y imm) ⟨k, 0x62, 3, .plain⟩ s (fun s =>
    let t := s.me
    let a := nearAddr t y 0 imm.toInt
    match nearCheck (nearSize s t sp false) ty.bytes ty.bytes [(0, a)] with
    | some (c, _) => .trap c 0
    | none =>
      if t.returnsFull then .stall
      else
        let r : Ret := { ord := t.ord, kind := .lds, dest := 0, wide := false, ty := ty, dests := [x],
                         units := [{ lane := 0, key := nearKey s t sp a.toNat, off := 0, val := none }], tag := ⟨0, 0, 0, 0⟩,
                         addr := BitVec.ofInt 80 a, insn := firstWord (.lds k ty o sc sp x y imm), pc := t.pc.bits, acq := decide (o = .acq),
                         cls := s.classOf t }
        let t' := t.setS x 0
        .done (s.setMe { t' with rets := t'.rets ++ [r] }) 1)

/-- A store entry of the issuing strand. -/
def storeEntry (s : State) (i : Instr) (o : Ordn) (sc : Scope) (ikind : Nat) (addr : W80) (aux : W32) (units : List SUnit) : SEntry :=
  { ord := s.me.ord, tag := nextTag s s.me, o := o, sc := sc, kind := .units, units := units, ikind := ikind, addr := addr, aux := aux,
    insn := firstWord i, pc := s.me.pc.bits, replayed := false, cls := s.classOf s.me }

/-- An entry issued into the store queue; a full queue holds the strand (R183). -/
def enter (s : State) (t' : Strand) (e : SEntry) (k : Nat) : Res :=
  if s.me.queueFull then .stall else .done (useTag (s.setMe (t'.enqueue e)) t') k

/-- ST (R174). -/
def execSt (k : Marks) (ty : Ty) (o : Ordn) (sc : Scope) (sp : Space) (x : VCode) (y : SCode) (z : VCode) (m : MCode) (imm : W32) (s : State) :
    Host.Outcome State Fault Refusal :=
  issue (.st k ty o sc sp x y z m imm) ⟨k, 0x61, 3, .plain⟩ s (fun s =>
    let t := s.me
    let i := Instr.st k ty o sc sp x y z m imm
    let op := operOf i
    let off := t.vec z.toNat
    let data := t.readV ⟨x, ty.wide⟩
    let addrs := laneAddrs t y off (t.operMap op) imm
    match vecChecks s op sp ty.bytes ty.bytes addrs with
    | some (c, d) => .trap c d
    | none =>
      let unit (e : (Nat × Int) × Nat) : SUnit :=
        { unit := e.1.1, key := nearKey s t sp e.1.2.toNat, op := .write (toBytes ty.bytes (data.at e.1.1).toNat), off := off.lane e.1.1, pass := e.2 / 32 }
      enter s ((t.countDrop op).popQ op) (storeEntry s i o sc 3 ((t.s y).zeroExtend 80) 0 (addrs.zipIdx.map unit)) (t.lanesK op))

/-- A scalar store of bytes at an address (R174, R175). -/
def storeAt (s : State) (i : Instr) (o : Ordn) (sc : Scope) (sp : Space) (ikind : Nat) (a : Int) (b : List Byte) : Res :=
  let t := s.me
  match nearCheck (nearSize s t sp false) b.length b.length [(0, a)] with
  | some (c, _) => .trap c 0
  | none => enter s t (storeEntry s i o sc ikind (BitVec.ofInt 80 a) 0 [{ unit := 0, key := nearKey s t sp a.toNat, op := .write b, off := 0 }]) 1

/-- STS (R174). -/
def execSts (k : Marks) (ty : Ty) (o : Ordn) (sc : Scope) (sp : Space) (x y : SCode) (imm : W32) (s : State) :
    Host.Outcome State Fault Refusal :=
  issue (.sts k ty o sc sp x y imm) ⟨k, 0x63, 3, .plain⟩ s (fun s =>
    storeAt s (.sts k ty o sc sp x y imm) o sc sp 4 (nearAddr s.me y 0 imm.toInt) (toBytes ty.bytes (s.me.s x).toNat))

/-- new of R177, given old and the data of a step. -/
def atomNew (op : AtomOp) (ty : Ty) (old d e : W32) : W32 :=
  let v (w : W32) : Int := ty.val (w.zeroExtend 64)
  let hi (w : W32) : Nat := w.toNat / 2 ^ 16
  let lo (w : W32) : Nat := w.toNat % 2 ^ 16
  match op with
  | .add => old + d
  | .min => if v d < v old then d else old
  | .max => if v old < v d then d else old
  | .and => old &&& d
  | .or => old ||| d
  | .xor => old ^^^ d
  | .xchg => d
  | .cas => if old = e then d else old
  | .maxpk => if hi old < hi d ∨ (hi d = hi old ∧ lo d < lo old) then d else old
  | .minpk => if hi d < hi old ∨ (hi d = hi old ∧ lo d < lo old) then d else old

/-- The variants that write only when new differs from old (R177). -/
def AtomOp.onlyNew : AtomOp → Bool
  | .min | .max | .cas | .maxpk | .minpk => true
  | _ => false

/-- ATOM (R178). -/
def execAtom (k : Marks) (op : AtomOp) (ty : Ty) (o : Ordn) (sc : Scope) (sp : Space) (res : Bool) (x : VCode) (y : SCode) (z vs : VCode)
    (m : MCode) (imm : W32) (s : State) : Host.Outcome State Fault Refusal :=
  issue (.atom k op ty o sc sp res x y z vs m imm) ⟨k, 0x64, 3, .classC⟩ s (fun s =>
    let t := s.me
    let i := Instr.atom k op ty o sc sp res x y z vs m imm
    let use := operOf i
    let m := t.operMap use
    let off := t.vec z.toNat
    let data := t.readV ⟨vs, decide (op = .cas)⟩
    let addrs := laneAddrs t y off m imm
    match vecChecks s use sp 4 4 addrs with
    | some (c, d) => .trap c d
    | none =>
      let unit (e : (Nat × Int) × Nat) : SUnit :=
        { unit := e.1.1, key := nearKey s t sp e.1.2.toNat, off := off.lane e.1.1, pass := e.2 / 32
          op := .atom { op := op, ty := ty, d := (data.at e.1.1).extractLsb' 0 32, e := (data.at e.1.1).extractLsb' 32 32, res := res } }
      let entry := storeEntry s i o sc 7 ((t.s y).zeroExtend 80) 0 (addrs.zipIdx.map unit)
      if res then
        match t.roomFor use x false m with
        | .wait => .stall
        | .full => .trap .pegExhausted 0
        | .ok t' =>
          if t.returnsFull then .stall
          else
            let r : Ret := { ord := t.ord, kind := .atom, dest := x.toNat, wide := false, ty := ty, dests := [],
                             units := addrs.map (fun e => { lane := e.1, key := nearKey s t sp e.2.toNat, off := off.lane e.1,
                                                            d := (data.at e.1).extractLsb' 0 32, e := (data.at e.1).extractLsb' 32 32, val := none }),
                             tag := entry.tag, addr := entry.addr, insn := entry.insn, pc := entry.pc, cls := entry.cls }
            let t' := ((t'.countDrop use).popQ use).putV x false m (fun _ => 0)
            enter s { t' with rets := if addrs = [] then t'.rets else t'.rets ++ [r] } entry (t.lanesK use)
      else enter s ((t.countDrop use).popQ use) entry (t.lanesK use))

/-- ATOMS (R178). -/
def execAtoms (k : Marks) (op : AtomOp) (ty : Ty) (o : Ordn) (sc : Scope) (sp : Space) (x y z e : SCode) (imm : W32) (s : State) :
    Host.Outcome State Fault Refusal :=
  issue (.atoms k op ty o sc sp x y z e imm) ⟨k, 0x65, 3, .classC⟩ s (fun s =>
    let t := s.me
    let i := Instr.atoms k op ty o sc sp x y z e imm
    let a := nearAddr t y 0 imm.toInt
    match nearCheck (nearSize s t sp false) 4 4 [(0, a)] with
    | some (c, _) => .trap c 0
    | none =>
      if t.returnsFull then .stall
      else
        let key := nearKey s t sp a.toNat
        let d : W32 := (t.s z).extractLsb' 0 32
        let step : AStep := { op := op, ty := ty, d := d, e := (t.s e).extractLsb' 0 32, res := true }
        let entry := storeEntry s i o sc 8 (BitVec.ofInt 80 a) d [{ unit := 0, key := key, op := .atom step, off := 0 }]
        let r : Ret := { ord := t.ord, kind := .atoms, dest := 0, wide := false, ty := ty, dests := [x],
                         units := [{ lane := 0, key := key, off := 0, d := d, e := step.e, val := none }], tag := entry.tag, addr := entry.addr,
                         insn := entry.insn, pc := entry.pc, cls := entry.cls }
        let t' := t.setS x 0
        enter s { t' with rets := t'.rets ++ [r] } entry 1)

/-- The stores and atomics of a strand before issue number `n` are performed at their ordering points, and with `.ar` all that its core has sent but the command's own writes: an engine command may start (R191; log 82). -/
def engineReady (s : State) (u n : Nat) (o : Ordn) : Bool :=
  let t := s.strand u
  t.sq.all (fun e => decide (n ≤ e.ord) || (match e.kind with
      | .spawn _ _ | .dep _ _ => true
      | _ => false))
    && (s.core t.core).sent.all (fun e => decide (e.sid ≠ u) || decide (n ≤ e.ord) || e.engine)
    && (decide (o ≠ .ar) || (s.core t.core).sent.all (fun e => e.engine && decide (e.sid = u) && decide (e.ord = n)))

/-- The release of an engine command with issue number `n` may be made, by its last write or by its counter's decrement: every earlier access of its strand is performed, and all that happens-before it (R189, R191, R247; log 82). -/
def engineReleases (s : State) (u n : Nat) : Bool :=
  let t := s.strand u
  t.loadsDone n && t.queueLeft n && (s.core t.core).sent.all (fun e => decide (t.seen ≤ e.num))

/-- The bytes an engine reads in a near space of a strand. -/
def engineRead (s : State) (t : Strand) (sp : Space) (a n : Nat) : List Byte := (List.range n).map (fun i => coreByte s t.core (nearKey s t sp (a + i)))

/-- A key of the scratchpad half of a braced strand's frame, and the same byte of its twin's allocation (R370). -/
def twinKey (s : State) (t : Strand) (k : Nat) : Option Nat :=
  match t.twin with
  | none => none
  | some w =>
    let f := s.frame t.frame
    let g := s.frame (s.strand w).frame
    if isVault k then none
    else ((f.cores.zip f.bases).zip (g.cores.zip g.bases)).findSome? (fun e =>
      let b := spadKey e.1.1 e.1.2
      if b ≤ k ∧ k < b + f.spb then some (spadKey e.2.1 e.2.2 + (k - b)) else none)

/-- One near write of an engine command, performed; the twin of a braced strand receives what lies in its own allocation (R370). -/
def engineWrite (s : State) (t : Strand) (k : Nat) (b : List Byte) : State :=
  let s' := { s with mem := s.mem.writeL k b }
  match twinKey s t k with
  | some k' => { s' with mem := s'.mem.writeL k' b }
  | none => s'

/-- What the writes of an engine command carry: its issue number, tag, scope, address and class (R328, R364). -/
def engineEntry (ord : Nat) (tag : Tag) (sc : Scope) (pc : BitVec 54) (cls : Nat) : SEntry :=
  { ord := ord, tag := tag, o := .rlx, sc := sc, kind := .units, units := [], ikind := 0, addr := 0, aux := 0, insn := 0, pc := pc,
    replayed := false, cls := cls }

/-- One near write of an engine command on its way to its ordering point: the strands of the core see it from now on, every other party when it is performed there (R183, R256, R258). The primary of a braced pair performs it at once in both allocations (R370). -/
def engineSend (s : State) (u : Nat) (e : SEntry) (unit k : Nat) (b : List Byte) : State :=
  let t := s.strand u
  if t.twin.isSome then (engineWrite s t k b).carryNear t.part t.core k b.length e.cls
  else
    let c := s.core t.core
    s.setCore t.core (c.send [{ sid := u, entry := e, u := { unit := unit, key := k, op := .write b, off := 0 }, snap := false, num := 0, engine := true }])

/-- The writes that an engine command of a strand has sent are performed at a scope (R187, R256). -/
def engineDone (s : State) (u ord : Nat) (sc : Scope) : Bool :=
  let t := s.strand u
  leavingPerforms s t sc || (s.core t.core).sent.all (fun e => !e.engine || decide (e.sid ≠ u) || decide (e.ord ≠ ord))

/-- FENCE (R180). -/
def execFence (k : Marks) (o : Ordn) (sc : Scope) (s : State) : Host.Outcome State Fault Refusal :=
  issue (.fence k o sc) ⟨k, 0x66, 2, .plain⟩ s (fun s =>
    let t := s.me
    let s' := if Ordn.isRel o then s.setMe { t with fences := t.fences ++ [(t.ord, sc)] } else s
    if !Ordn.isAcq o then .done s' 1
    else if fenceDone s s.cur o sc t.ord then .done (s'.setMe (s'.me.acquires s')) 1 else .after s' (.fence o sc t.ord) 1)

/-- What a release of the strand with issue number `n` at a scope waits for: every earlier access, and for each release fence before it the accesses before that fence (R183). -/
def releaseReady (s : State) (u n : Nat) (sc : Scope) : Bool :=
  performedBefore s u n sc && (s.strand u).fences.all (fun f => decide (n ≤ f.1) || performedBefore s u f.1 f.2)

/-- MEET (R181); a form that arrives takes a tag (R328, R377). -/
def execMeet (k : Marks) (form : MeetForm) (x : SCode) (j : BitVec 4) (n : BitVec 5) (s : State) : Host.Outcome State Fault Refusal :=
  issue (.meet k form x j n) ⟨k, 0x67, 2, .classC⟩ s (fun s =>
    let t := s.me
    let u := s.cur
    let f := s.frame t.frame
    let p := f.point j.toNat
    let ab := f.fab || p.ab
    let s1 := useTag s t
    let op : MeetOp := { ord := t.ord, tag := nextTag s t, insn := firstWord (.meet k form x j n) }
    let wait (s : State) (op : Option MeetOp) : Res :=
      let ph := meetFrom s u j.toNat
      if meetDone s u j.toNat ph then .done (meetFinish s u j.toNat ph x) 1 else .after s (.meetWait x j.toNat ph op) 1
    if t.fsize < n.toNat then .trap .illegalOperand 0
    else match form with
      | .wait => wait s none
      | _ =>
        if ab then (if form = .arr then .done (s1.setMe (t.setS x 1)) 1 else wait s1 (some op))
        else if !releaseReady s u t.ord .frame then .stall
        else if p.arr.getLsbD t.sidx then .after s1 (.meetArrive form x j.toNat n.toNat p.phase op) 1
        else
          let s' := meetWakeAll t.frame 64 (meetArrival s1 u j.toNat n.toNat)
          if form = .arr then .done (s'.setMe (s'.me.setS x 0)) 1 else wait s' (some op))

/-- An LDB or PLDM that has issued: its values are read later, each once (R169, R176). -/
def Strand.lock (t : Strand) (i : Instr) (kind : RKind) (dest : Nat) (addr : W80) (keys : List Nat) (cls : Nat) : Strand :=
  let r : Ret := { ord := t.ord, kind := kind, dest := dest, wide := false, ty := .b32, dests := [],
                   units := keys.zipIdx.map (fun e => { lane := e.2, key := e.1, off := 0, val := none }), tag := ⟨0, 0, 0, 0⟩,
                   addr := addr, insn := firstWord i, pc := t.pc.bits, cls := cls }
  { t with locks := t.locks ++ [r] }

/-- LDB (R175). -/
def execLdb (k : Marks) (sp : Space) (x : BCode) (y : SCode) (i : BitVec 10) (s : State) : Host.Outcome State Fault Refusal :=
  issue (.ldb k sp x y i) ⟨k, 0x68, 2, .plain⟩ s (fun s =>
    let t := s.me
    let a := nearAddr t y 0 (16 * i.toNat : Nat)
    match nearCheck (nearSize s t sp false) 16 16 [(0, a)] with
    | some (c, _) => .trap c 0
    | none => .done (s.setMe (t.lock (.ldb k sp x y i) .ldb x.toNat (BitVec.ofInt 80 a) [nearKey s t sp a.toNat] (s.classOf t))) 1)

/-- STB (R175). -/
def execStb (k : Marks) (sp : Space) (x : BCode) (y : SCode) (i : BitVec 10) (s : State) : Host.Outcome State Fault Refusal :=
  issue (.stb k sp x y i) ⟨k, 0x68, 2, .plain⟩ s (fun s =>
    storeAt s (.stb k sp x y i) .rlx .strand sp 5 (nearAddr s.me y 0 (16 * i.toNat : Nat)) (toBytes 16 (s.me.base x).toNat))

/-- Bytes of a map image: 8 · ceil(L/64) (R172). -/
def mapImage (t : Strand) : Nat := 8 * ((t.ext + 63) / 64)

/-- PLDM (R176). -/
def execPldm (k : Marks) (sp : Space) (x : MCode) (y : SCode) (i : BitVec 10) (s : State) : Host.Outcome State Fault Refusal :=
  issue (.pldm k sp x y i) ⟨k, 0x69, 2, .plain⟩ s (fun s =>
    let t := s.me
    let a := nearAddr t y 0 (8 * i.toNat : Nat)
    match nearCheck (nearSize s t sp false) (mapImage t) 8 [(0, a)] with
    | some (c, _) => .trap c 0
    | none =>
      let keys := (List.range (mapImage t / 8)).map (fun w => nearKey s t sp (a.toNat + 8 * w))
      .done (s.setMe (t.lock (.pldm k sp x y i) .pldm x.toNat (BitVec.ofInt 80 a) keys (s.classOf t))) 1)

/-- PSTM (R176). -/
def execPstm (k : Marks) (sp : Space) (x : MCode) (y : SCode) (i : BitVec 10) (s : State) : Host.Outcome State Fault Refusal :=
  issue (.pstm k sp x y i) ⟨k, 0x69, 2, .plain⟩ s (fun s =>
    let t := s.me
    let a := nearAddr t y 0 (8 * i.toNat : Nat)
    match nearCheck (nearSize s t sp false) (mapImage t) 8 [(0, a)] with
    | some (c, _) => .trap c 0
    | none =>
      let m := t.mapReg x &&& t.all
      let unit (w : Nat) : SUnit :=
        { unit := w, key := nearKey s t sp (a.toNat + 8 * w), op := .write (toBytes 8 (m.toNat / 2 ^ (64 * w) % 2 ^ 64)), off := 0 }
      enter s t (storeEntry s (.pstm k sp x y i) .rlx .strand 6 (BitVec.ofInt 80 a) 0 ((List.range (mapImage t / 8)).map unit)) 1)

end Sys2Proof.Machine
end

