-- ==== Sys2Proof/Machine/Sched.lean ====
section
/-! DEFINITION. Sched.lean: launch queues, the task scheduler and its events, SPAWN and DEP (R262 to R278), the takeover of instruction-store slots (R228, R233), the birth of strands (R161, R267) and arbitration (R276). -/

namespace Sys2Proof.Machine

/-! Launch queues (R262). -/

/-- A launch queue of a partition. -/
def Part.queue (p : Part) (k : Nat) : LQueue := Tbl.get LQueue.zero p.queues k
/-- A partition with a launch queue set. -/
def Part.setQueue (p : Part) (k : Nat) (q : LQueue) : Part := { p with queues := Tbl.set LQueue.zero p.queues k q }

/-- The records a queue holds. -/
def LQueue.len (q : LQueue) : Nat := (q.tail - q.head).toNat

/-- The window offset of record index `i`. -/
def LQueue.at (q : LQueue) (i : W32) : Nat := q.base + 128 * (i.toNat % 2 ^ q.sz)

/-- The scheduler admits frames of a partition: it is LIVE; the launch queues of a FROZEN one go on (R332). -/
def Part.runs (p : Part) : Bool := decide (p.st = .live)

/-- A queue halted on its head record with an error (R266). -/
def LQueue.refuse (q : LQueue) (err : Nat) : LQueue := { q with err := err, erridx := q.head, halt := true, stage := .fresh }

/-- The head record consumed (R269). -/
def LQueue.consume (q : LQueue) : LQueue := { q with head := q.head + 1, stage := .fresh, cur := 0 }

/-! Frame counts that are read relaxed (R269, R270): the device keeps what their words have held since a record that names them was published (DESIGN CHOICE, log 24). -/

/-- The 32-bit word at a window offset. -/
def countWord (m : Memory) (p : Part) (o : Nat) : W32 := BitVec.ofNat 32 (ofBytes (m.readN (windowKey p o) 4))

/-- The place of the present value. -/
def CountWord.last (w : CountWord) : Nat := w.hist.length - 1

/-- A history with the present value of its word at the end. -/
def CountWord.note (m : Memory) (p : Part) (w : CountWord) : CountWord :=
  if w.hist.getLast? = some (countWord m p w.off) then w else { w with hist := w.hist ++ [countWord m p w.off] }

/-- Every history of a partition brought up to the present. -/
def Part.noteWords (m : Memory) (p : Part) : Part := { p with words := p.words.map (CountWord.note m p) }

/-- Every history of every partition brought up to the present. -/
def noteCounts (s : State) : State := { s with parts := s.parts.map (fun (e : Nat × Part) => (e.1, e.2.noteWords s.mem)) }

/-- The history of the word at a window offset. -/
def Part.word (p : Part) (o : Nat) : Option CountWord := p.words.find? (fun w => decide (w.off = o))

/-- A partition that keeps the history of a word from now on. -/
def Part.watch (m : Memory) (p : Part) (o : Nat) : Part :=
  if (p.word o).isSome then p else { p with words := p.words ++ [⟨o, [countWord m p o], 0⟩] }

/-- The records from index `i` on, `n` of them, whose counts are relaxed reads, with the window offsets of the counts. -/
def published (m : Memory) (p : Part) (q : LQueue) : Nat → W32 → List (W32 × Nat)
  | 0, _ => []
  | n + 1, i =>
    let r := readRecord m p (q.at i)
    (if recFcm r && !recCw r then [(i, recCptr r)] else []) ++ published m p q n (i + 1)

/-- The tail of queue `k` moved: the records that it covers and did not cover before are published by a release, so that no value older than the present one is read for their counts (R263, R270, R272); a tail moved back publishes none, and the records that it uncovers are forgotten. -/
def Part.moveTail (m : Memory) (p : Part) (k : Nat) (v : W32) : Part :=
  let q := p.queue k
  let l := published m p q ((v - q.head).toNat - q.len) q.tail
  let p1 := l.foldl (fun p e => Part.watch m p e.2) (p.noteWords m)
  let kept := q.counts.filter (fun e => decide ((e.1 - q.head).toNat < (v - q.head).toNat))
  let p2 := p1.setQueue k { q with tail := v, counts := kept ++ l.map (fun e => (e.1, e.2, ((p1.word e.2).map CountWord.last).getD 0)) }
  { p2 with words := p2.words.filter (fun w => p2.queues.any (fun (e : Nat × LQueue) => List.any e.2.counts (fun c => decide (c.2.1 = w.off)))) }

/-- The place in a history of the value that a read of the head record's count returns (R269 step 3): an acquire returns the present one; a relaxed read the value named, where the word has held it since the record was published and since the scheduler's last read there, and else the present one. -/
def countPlace (q : LQueue) (w : CountWord) (old : Option W32) : Nat :=
  let lo := Nat.max w.read (((q.counts.find? (fun e => decide (e.1 = q.head) && decide (e.2.1 = w.off))).map (·.2.2)).getD 0)
  match old with
  | some v => if recCw q.cur then w.last else ((List.range' lo (w.last + 1 - lo)).find? (fun i => decide (w.hist[i]? = some v))).getD w.last
  | none => w.last

/-- The count that the head record of a queue takes from its word, and the partition with what the scheduler has read there (R185, R269). -/
def Part.takeCount (m : Memory) (p : Part) (q : LQueue) (old : Option W32) : W32 × Part :=
  let o := recCptr q.cur
  match (p.noteWords m).word o with
  | none => (countWord m p o, p)
  | some w =>
    let i := countPlace q w old
    (w.hist.getD i 0, { p.noteWords m with words := (p.noteWords m).words.map (fun x => if x.off = o then { x with read := i } else x) })

/-! Dependence counters (R268). -/

/-- A queue whose waiting head record a counter at 0 satisfies (R269 step 2). -/
def LQueue.trigger (c : Nat) (q : LQueue) : LQueue :=
  match q.stage with
  | .waiting _ => if recCw q.cur ∧ recCtr q.cur = c then { q with stage := .waiting true } else q
  | _ => q

/-- A counter set by an operation in its order: a 0 is noted for the records that wait for it (R269 step 2). -/
def State.setCounter (s : State) (c : Nat) (v : W32) : State :=
  let s := { s with counters := Tbl.set 0 s.counters c v }
  if v = 0 then
    s.parts.foldl (fun s e => s.setPart e.1 { e.2 with queues := e.2.queues.map (fun q => (q.1, q.2.trigger c)) }) s
  else s

/-! SPAWN and DEP (R271 to R273). -/

/-- SPAWN (R272). -/
def execSpawn (k : Marks) (sp : Space) (y z : SCode) (q : BitVec 3) (imm : W32) (s : State) : Host.Outcome State Fault Refusal :=
  issue (.spawn k sp y z q imm) ⟨k, 0x0D, 3, .classC⟩ s (fun s =>
    let t := s.me
    let n := (t.s z).toNat + q.toNat
    let a := nearAddr t y 0 imm.toInt
    if 8 ≤ n then .trap .illegalOperand 0
    else if ((s.part t.part).queue n).kok && !t.priv then .trap .privilege 0
    else match nearCheck (nearSize s t sp false) 128 128 [(0, a)] with
      | some (c, _) => .trap c 0
      | none =>
        let e := storeEntry s (.spawn k sp y z q imm) .rel .device 12 (BitVec.ofInt 80 a) 0 []
        enter s t { e with kind := .spawn ((List.range 8).map (fun i => (nearKey s t sp a.toNat + 16 * i, none))) n } 1)

/-- The counter of a DEP, unsigned and unbounded (R273). -/
def depCounter (t : Strand) (y : SCode) (n : BitVec 10) : Nat := (t.s y).toNat + n.toNat

/-- A DEP entry that adds to its counter (R273). -/
def depEnter (s : State) (i : Instr) (y : SCode) (n : BitVec 10) (add : W32) : Res :=
  let c := depCounter s.me y n
  if inCounters (s.part s.me.part) c then
    let e := storeEntry s i .rel .device 13 0 (BitVec.ofNat 32 c) []
    enter s s.me { e with kind := .dep c add } 1
  else .trap .illegalOperand 0

/-- DEP.dec (R273). -/
def execDepDec (k : Marks) (y : SCode) (n : BitVec 10) (s : State) : Host.Outcome State Fault Refusal :=
  issue (.depDec k y n) ⟨k, 0x72, 2, .classC⟩ s (fun s => depEnter s (.depDec k y n) y n (0 - 1))

/-- DEP.add (R273). -/
def execDepAdd (k : Marks) (y : SCode) (n : BitVec 10) (z : SCode) (s : State) : Host.Outcome State Fault Refusal :=
  issue (.depAdd k y n z) ⟨k, 0x72, 2, .classC⟩ s (fun s => depEnter s (.depAdd k y n z) y n ((s.me.s z).extractLsb' 0 32))

/-- An entry of DEP. -/
def SEntry.isDep (e : SEntry) : Bool :=
  match e.kind with
  | .dep _ _ => true
  | _ => false

/-- DEP.read (R273): an acquire. -/
def execDepRead (k : Marks) (x y : SCode) (n : BitVec 10) (s : State) : Host.Outcome State Fault Refusal :=
  issue (.depRead k x y n) ⟨k, 0x72, 2, .plain⟩ s (fun s =>
    let c := depCounter s.me y n
    if !inCounters (s.part s.me.part) c then .trap .illegalOperand 0
    else if s.me.sq.any SEntry.isDep then .stall
    else putS (s.setMe (s.me.acquires s)) x ((s.counter c).zeroExtend 64) 1)

/-! The takeover of slots (R228, R233). -/

/-- D of R228: the slots from `s` on, every slot of each overlay that has one of them, every slot of the overlay. -/
def Core.takeSet (c : Core) (id : BitVec 24) (s n : Nat) : List Nat :=
  let held := ((List.range' s n).filter (fun j => (c.slot j).st ≠ .empty)).map (fun j => (c.slot j).ovid)
  (List.range 64).filter (fun j => (decide (s ≤ j) && decide (j < s + n))
    || (decide ((c.slot j).st ≠ .empty) && (held.contains (c.slot j).ovid || decide ((c.slot j).ovid = id))))

/-- No slot of D is pinned. -/
def Core.canTake (c : Core) (id : BitVec 24) (s n : Nat) : Bool := (c.takeSet id s n).all (fun j => decide ((c.slot j).pin = 0))

/-- The takeover (R228). -/
def Core.takeover (c : Core) (id : BitVec 24) (s n : Nat) : Core :=
  let c := ((c.takeSet id s n).filter (fun j => decide (j < s) || decide (s + n ≤ j))).foldl
    (fun c j => c.setSlot j { c.slot j with st := .empty, gen := (c.slot j).gen + 1 }) c
  (List.range n).foldl (fun c k =>
    c.setSlot (s + k) { c.slot (s + k) with ovid := id, idx := BitVec.ofNat 4 k, cnt := BitVec.ofNat 4 (n - 1), st := .loading, gen := (c.slot (s + k)).gen + 1 }) c

/-- The generations of `n` slots. -/
def Core.gens (c : Core) (s n : Nat) : List (BitVec 16) := (List.range n).map (fun k => (c.slot (s + k)).gen)

/-- The place `k` of a load still belongs to it. -/
def Core.stillLoads (c : Core) (s : Nat) (gens : List (BitVec 16)) (k : Nat) : Bool :=
  decide ((c.slot (s + k)).st = .loading) && decide (gens[k]? = some (c.slot (s + k)).gen)

/-- The bytes of a load written into the slots that still belong to it, which become LOADED (R228). -/
def finishLoad (s : State) (core slot n : Nat) (gens : List (BitVec 16)) (bytes : Nat → List Byte) : State :=
  (List.range n).foldl (fun s k =>
    let c := s.core core
    if c.stillLoads slot gens k then
      { s with mem := s.mem.writeL (codeKey core (slot + k) 0) (bytes k) }.setCore core
        (c.setSlot (slot + k) { c.slot (slot + k) with st := .loaded })
    else s) s

/-- The first slot an admission load takes (R233): the lowest run of EMPTY slots, else the lowest run that can be taken. -/
def Core.loadSlot (c : Core) (id : BitVec 24) (n : Nat) : Option Nat :=
  let at_ := (List.range' 1 63).filter (fun s => decide (s + n ≤ 64) && c.canTake id s n)
  (at_.find? (fun s => (List.range' s n).all (fun j => decide ((c.slot j).st = .empty)))).orElse (fun _ => at_.head?)

/-- The code condition of R275. -/
def Core.codeReady (c : Core) (r : TaskRec) : Bool := (c.resident (recEov r)).isSome || (c.loadSlot (recEov r) (recIsl r)).isSome

/-- The strands of a core that wait to fetch, taken up: one whose slot has been taken over finds its code replaced (R157, R224, R228). -/
def wakeFetch (s : State) (c : Nat) : State :=
  s.strands.foldl (fun s e => if e.2.core = c ∧ e.2.life = .parked .fetch then wakeOne s e.1 else s) s

/-- The entry overlay of a record brought to a core: nothing when it is resident, a load otherwise (R233). -/
def loadEntry (s : State) (part core : Nat) (r : TaskRec) : State :=
  let c := s.core core
  if (c.resident (recEov r)).isSome then s
  else match c.loadSlot (recEov r) (recIsl r) with
    | some j =>
      let n := recIsl r
      let c := c.takeover (recEov r) j n
      wakeFetch (s.setCore core { c with loads := c.loads ++ [{ ovid := recEov r, img := recImg r, slot := j, n := n, part := part, gens := c.gens j n }] }) core
    | none => s

/-- The copy of an admission load made: its slots that still belong to it are LOADED (R228, R233), and their image comes over the network to the core (R12; class 1: DESIGN CHOICE, log 86). -/
def admissionLoad (s : State) (core : Nat) (l : AdmLoad) : State :=
  let c := s.core core
  let s0 := ((List.range l.n).filter (c.stillLoads l.slot l.gens)).foldl (fun s k => s.carryWindow l.part (dieOf core) (l.img + 4096 * k) 4096 1) s
  let s1 := s0.setCore core { c with loads := c.loads.filter (· ≠ l) }
  finishLoad s1 core l.slot l.n l.gens (fun k => (List.range 4096).map (fun b => s.mem.read (windowKey (s.part l.part) (l.img + 4096 * k + b))))

/-- ADMISSION_LOAD_COMPLETE (R233). -/
def execAdmissionLoadComplete (core ovid : Nat) (s : State) : Host.Outcome State Fault Refusal :=
  match (s.core core).loads.find? (fun l => decide (l.ovid.toNat = ovid)) with
  | some l => .next (wakeAll (admissionLoad s core l))
  | none => .next s

/-! Admission (R275). -/

/-- The class weight W of an energy class (R274). -/
def classWeight (b : W64) (c : Nat) : Nat := (b.extractLsb' (4 * c + 16) 4).toNat
/-- BUD -/
def budget (b : W64) : Nat := (b.extractLsb' 0 16).toNat
/-- HT -/
def heavyThreshold (b : W64) : Nat := (b.extractLsb' 48 16).toNat

/-- ESUM of a core: the weights of its live strands (R274). -/
def esum (s : State) (c : Nat) : Nat := sumOf (fun e => classWeight (s.core c).ebudget e.2.ecl) (s.liveOn c)

/-- A value rounded up to a multiple. -/
def roundUp (n unit : Nat) : Nat := (n + unit - 1) / unit * unit

/-- The lowest free range of `n` bytes at a multiple of `unit` in lo … hi, given the ranges in use (DESIGN CHOICE, log 20). -/
def lowestFit (used : List (Nat × Nat)) (lo hi unit n : Nat) : Option Nat :=
  let free (a : Nat) : Bool := decide (lo ≤ a) && decide (a + n ≤ hi) && used.all (fun u => decide (a + n ≤ u.1) || decide (u.1 + u.2 ≤ a))
  let cand := (roundUp lo unit :: used.map (fun u => roundUp (u.1 + u.2) unit)).filter free
  match cand with
  | [] => none
  | a :: r => some (r.foldl Nat.min a)

/-- The store queues of every strand of a frame have drained (R155). -/
def drained (s : State) (fu : Nat) : Bool :=
  s.strands.all (fun e => decide (e.2.frame ≠ fu) || (decide (e.2.sq = []) && (s.core e.2.core).sent.all (fun x => decide (x.sid ≠ e.1))))

/-- The scratchpad ranges in use on a core; the range of a frame that has ended is kept until the stores of its strands have drained (DESIGN CHOICE, log 20). -/
def spadUsed (s : State) (c : Nat) : List (Nat × Nat) :=
  (s.frames.filter (fun e => (!e.2.gone || !drained s e.1) && decide ((s.part e.2.part).st ≠ .frozen))).flatMap (fun e =>
    ((e.2.cores.zip e.2.bases).filter (fun x => decide (x.1 = c) && decide (0 < e.2.spb))).map (fun x => (x.2, e.2.spb)))

/-- The free range of a frame's half on a core. -/
def spadFit (s : State) (c : Nat) (r : TaskRec) : Option Nat := lowestFit (spadUsed s c) 0 524288 128 (recSpb r)

/-- The strand slots of a core that are in use. -/
def slotsUsed (s : State) (c : Nat) : List Nat :=
  (s.strands.filter (fun e => decide (e.2.core = c) && (e.2.life.live || decide (e.2.life = .killed)))).map (fun e => e.2.slot)

/-- The free strand slots of a core, rising. -/
def freeSlots (s : State) (c : Nat) : List Nat := (List.range 32).filter (fun j => !(slotsUsed s c).contains j)

/-- The energy, slot, peg and code conditions of R275 for `n` strands of a record on a core. -/
def coreTakes (s : State) (r : TaskRec) (n c : Nat) : Bool :=
  let x := s.core c
  decide (esum s c + n * classWeight x.ebudget (recEcl r) ≤ budget x.ebudget)
    && decide (n ≤ (freeSlots s c).length)
    && decide (sumOf (fun e => e.2.pegquota) (s.liveOn c) + n * recPq r ≤ Config.corePegs)
    && x.codeReady r && !x.retired

/-- The backing ranges in use in a partition. -/
def backUsed (s : State) (p : Nat) : List (Nat × Nat) :=
  (s.strands.filter (fun e => decide (e.2.part = p) && decide (0 < e.2.bkLen))).map (fun e => (e.2.bkOff, e.2.bkLen))

/-- The backing ranges of `k` more strands of `n` bytes each (R165, R275). -/
def backFit (lo hi n : Nat) : Nat → List (Nat × Nat) → Option (List Nat)
  | 0, _ => some []
  | k + 1, used =>
    if n = 0 then some (List.replicate (k + 1) lo)
    else match lowestFit used lo hi 32 n with
      | some a => (backFit lo hi n k ((a, n) :: used)).map (a :: ·)
      | none => none

/-- The backing ranges of `k` strands of a record in a partition. -/
def backingFor (s : State) (p : Nat) (r : TaskRec) (k : Nat) : Option (List Nat) :=
  let x := (s.part p).rcd
  backFit x.bkbase (x.bkbase + 65536 * x.bklen) (recBk r) k (backUsed s p)

/-- The cores of a frame placed at a core: it, or the pair whose even core it is. -/
def placeCores (r : TaskRec) (c : Nat) : List Nat := if recPair r then [c, c + 1] else [c]

/-- Every core of a place takes its strands of a frame (R275), with a free scratchpad range where one is needed. -/
def placeTakes (s : State) (p : Nat) (r : TaskRec) (c : Nat) (alloc : Bool) : Bool :=
  let own := coresOf (s.part p).rcd.clm
  (!recPair r || decide (c % 2 = 0))
    && (placeCores r c).zipIdx.all (fun x => own.contains x.1 && coreTakes s r (strandsOn r x.2).length x.1
        && (!alloc || (spadFit s x.1 r).isSome))

/-- A frame of a record is admissible at a core, its braced copy at another (R275, R370). -/
def admissible (s : State) (p : Nat) (r : TaskRec) (c shadow : Nat) : Bool :=
  let brace := (s.part p).rcd.brace
  placeTakes s p r c true
    && (!brace || (decide (clusterOf c ≠ clusterOf shadow) && placeTakes s p r shadow true))
    && (backingFor s p r ((if brace then 2 else 1) * recStrands r)).isSome

/-- A frame of a record can be admitted at a core, whichever core its braced copy takes. -/
def couldAdmit (s : State) (p : Nat) (r : TaskRec) (c : Nat) : Bool :=
  if (s.part p).rcd.brace then (coresOf (s.part p).rcd.clm).any (fun x => admissible s p r c x) else admissible s p r c c

/-- The first core of the place of a frame that uses a core. -/
def placeOf (r : TaskRec) (c : Nat) : Nat := if recPair r then c / 2 * 2 else c

/-- A frame of a record could be admitted to a place that uses a core, as the frame itself or as its braced copy. -/
def couldUse (s : State) (p : Nat) (r : TaskRec) (c : Nat) : Bool :=
  couldAdmit s p r (placeOf r c)
    || ((s.part p).rcd.brace && (coresOf (s.part p).rcd.clm).any (fun x => admissible s p r x (placeOf r c)))

/-- The launch of a queue that has a frame to place. -/
def queueLaunch (p : Part) (k : Nat) : Option Launch :=
  let q := p.queue k
  match q.halt, q.stage with
  | false, .launched key => let l := p.launch key
                            if l.next < l.count then some l else none
  | _, _ => none

/-- The queue whose launch goes first at a core among those with a frame that could use it: the highest PRI, then the first queue after the last one served (R269). -/
def nextQueue (s : State) (p c : Nat) : Option Nat :=
  let x := s.part p
  let turn := (List.range 8).map (fun i => (x.lastServed + 1 + i) % 8)
  let can := turn.filter (fun k => match queueLaunch x k with
    | some l => couldUse s p l.record c
    | none => false)
  let pri (k : Nat) : Nat := match queueLaunch x k with
    | some l => recPri l.record
    | none => 0
  let top := can.foldl (fun a k => Nat.max a (pri k)) 0
  can.find? (fun k => decide (pri k = top))

/-! Birth (R161, R267). -/

/-- A strand at its birth. -/
def newborn (r : TaskRec) (launchId frameId : W32) (p fu c slot i bk : Nat) (pc : PC) : Strand :=
  { Strand.blank with
    life := .ready, part := p, frame := fu, core := c, slot := slot, priv := recPrv r, sidx := i, frameId := frameId,
    fsize := recStrands r, ext := recExt r, span := recSpan r, launchId := launchId,
    args := (List.range 16).foldl (fun a i => Tbl.set 0 a i (recArg r i)) [], ecl := recEcl r,
    handler := recHnd r, absvec := recAbv r, prio := recPri r, pegquota := recPq r, pc := pc,
    stack := [{ map := lanesBelow (recExt r), link := PC.zero, fcopy := 0, kind := .base }], bkOff := bk, bkLen := recBk r }

/-- The strand with an index of a frame is born on a core at a backing range. -/
def bearStrand (s : State) (fu i c bk : Nat) : State :=
  let f := s.frame fu
  let u := s.next
  let r := f.record
  let x := s.core c
  let pc := (x.pcAt (recEov r) (recEw r)).getD ⟨0, recEov r, BitVec.ofNat 14 (recEw r)⟩
  let t := newborn r f.launchId f.frameId f.part fu c ((freeSlots s c).headD 0) i bk pc
  let s := (s.setStrand u t).setFrame fu { f with strands := f.strands ++ [u] }
  { s with next := u + 1 }.makeReady u

/-- All the strands of a frame are born, in index order, at the backing ranges given; their entry overlay is brought first. -/
def bearFrame (s : State) (fu : Nat) (backs : List Nat) : State :=
  let f := s.frame fu
  let s := f.cores.foldl (fun s c => loadEntry s f.part c f.record) s
  (List.range (recStrands f.record)).foldl (fun s i =>
    bearStrand s fu i (f.cores.getD (if recPair f.record then i % 2 else 0) 0) (backs.getD i 0)) s

/-- A frame discarded at the freeze is admitted again: its allocation is zeroed, its images written, its entry overlay brought where it is not resident, its live strands born at their regions' entries (R233, R338). -/
def rebear (s : State) (fu : Nat) : State :=
  let f := s.frame fu
  let mem := (f.cores.zip f.bases).foldl (fun m x =>
    (m.clear (spadKey x.1 x.2) f.spb).putCells ((f.image.filter (fun e => decide (e.1 < f.spb))).map (fun e => (spadKey x.1 (x.2 + e.1), e.2)))) s.mem
  let s := f.cores.foldl (fun s c => loadEntry s f.part c f.record) ({ s with mem := mem }.setFrame fu { f with reborn := [] })
  f.reborn.foldl (fun s e =>
    let u := s.next
    let c := f.cores.getD (if recPair f.record then e.1 % 2 else 0) 0
    let s := bearStrand s fu e.1 c e.2.2
    let pc := ((s.core c).pcAt (vecOvid e.2.1) (vecWord e.2.1)).getD ⟨0, vecOvid e.2.1, BitVec.ofNat 14 (vecWord e.2.1)⟩
    s.setStrand u { s.strand u with pc := pc, idem := e.2.1 }) s

/-- Frames of a partition that a freeze discarded and that are not admitted again yet: at each core their entry overlay needs a run of slots that can be taken (R233, R338). -/
def owedFrames (s : State) (p : Nat) : List (Nat × Frame) := s.frames.filter (fun e => decide (e.2.part = p) && decide (e.2.reborn ≠ []))

/-- A discarded frame finds its entry overlay on its cores, or room for it. -/
def canRebear (s : State) (f : Frame) : Bool := f.cores.all (fun c => (s.core c).codeReady f.record)

/-- The twins of a braced pair of frames named to one another, and the first checkpoints taken (R370). -/
def braceUp (s : State) (a b : Nat) : State :=
  let s := (s.setFrame a { s.frame a with twin := some b }).setFrame b { s.frame b with twin := some a, shadow := true }
  ((s.frame a).strands.zip (s.frame b).strands).foldl (fun s e =>
    let x := { s.strand e.1 with twin := some e.2 }
    let y := { s.strand e.2 with twin := some e.1, shadow := true }
    { (s.setStrand e.1 x).setStrand e.2 y with ckpts := Tbl.set Strand.blank (Tbl.set Strand.blank s.ckpts e.1 x) e.2 y }) s

/-- A frame allocated at a core with its scratchpad cleared and the data image written, cut at the allocation's end (R33, R163). -/
def placeFrame (s : State) (p key : Nat) (l : Launch) (c : Nat) (image : List (Nat × Byte)) : State :=
  let fu := s.next
  let cs := placeCores l.record c
  let bases := cs.map (fun x => (spadFit s x l.record).getD 0)
  let spb := recSpb l.record
  let f : Frame := { Frame.blank with
    part := p, launch := key, frameId := BitVec.ofNat 32 l.next, launchId := l.launchId, record := l.record, cores := cs, bases := bases,
    spb := spb, image := image, gone := false }
  let mem := (cs.zip bases).foldl (fun m x =>
    (m.clear (spadKey x.1 x.2) spb).putCells ((image.filter (fun e => decide (e.1 < spb))).map (fun e => (spadKey x.1 (x.2 + e.1), e.2)))) s.mem
  let x := s.part p
  { (s.setFrame fu f).setPart p { x with frames := x.frames ++ [fu] } with next := fu + 1, mem := mem }

/-- A read of the task scheduler in a partition's vault window, from its die, in class 1 (R12; DESIGN CHOICE, log 86). -/
def State.schedRead (s : State) (part o n : Nat) : State := s.carryWindow part Config.blockDie o n 1

/-- The read of the successor record that a record names. -/
def State.succRead (s : State) (part : Nat) (r : TaskRec) : State := if recSv r then s.schedRead part (recSucc r) 128 else s

/-- The successor record of a launch, read once (R278): none when the record names none; `some none` when it is not valid. -/
def readSucc (s : State) (p : Nat) (kok : Bool) (r : TaskRec) : Option (Option TaskRec) :=
  if recSv r then
    let x := readRecord s.mem (s.part p) (recSucc r)
    some (if recordErr (s.part p) kok x = 0 then some x else none)
  else none

/-- The admission of the next frame of a launch at a core whose conditions hold. -/
def admitFrame (s : State) (p key : Nat) (l : Launch) (k c shadow : Nat) (image : List (Nat × Byte)) : State :=
  let n := recStrands l.record
  let brace := (s.part p).rcd.brace
  let backs := (backingFor s p l.record ((if brace then 2 else 1) * n)).getD []
  let a := s.next
  let s := bearFrame (placeFrame s p key l c image) a (backs.take n)
  let b := s.next
  let s := if brace then braceUp (bearFrame (placeFrame s p key l shadow image) b (backs.drop n)) a b else s
  let x := s.part p
  let x := { x.setLaunch key { l with next := l.next + 1 } with lastServed := k }
  let x := if l.next + 1 = l.count then x.setQueue k (x.queue k).consume else x
  s.setPart p x

/-- The cores that a frame admitted at a core uses, with those of its braced copy. -/
def admitCores (s : State) (p : Nat) (r : TaskRec) (c shadow : Nat) : List Nat :=
  placeCores r c ++ (if (s.part p).rcd.brace then placeCores r shadow else [])

/-- The admission of a discarded frame that waits to be born again on a core, when its code finds room there (R233, R338; DESIGN CHOICE, log 83). -/
def readmit (s : State) (part core : Nat) : State :=
  match (owedFrames s part).find? (fun e => decide (e.2.cores.head? = some core) && canRebear s e.2) with
  | some e => rebear s e.1
  | none => s

/-- FRAME_ADMIT (R275, R278, R33): the launch must be the one whose turn it is at every core that its frame uses; frames that a freeze discarded come before. -/
def execFrameAdmit (part launch core : Nat) (shadow : Nat) (image : List (Nat × Byte)) (s : State) : Host.Outcome State Fault Refusal :=
  let p := s.part part
  if p.runs && decide (owedFrames s part ≠ []) then .next (readmit s part core)
  else match (if p.runs then nextQueue s part core else none) with
  | none => .next s
  | some k =>
    let l := p.launch launch
    if (p.queue k).stage ≠ .launched launch ∨ admissible s part l.record core shadow = false
        ∨ (admitCores s part l.record core shadow).any (fun c => decide (nextQueue s part c ≠ some k)) = true then .next s
    else if l.succRead then .next (admitFrame s part launch l k core shadow image)
    else
      let s := s.succRead part l.record
      match readSucc s part (p.queue k).kok l.record with
      | some none => .next (s.setPart part { (p.setQueue k ((p.queue k).refuse 3)) with launches := Tbl.del p.launches launch })
      | some (some r) =>
        let l := { l with succ := some r, succRead := true }
        .next (admitFrame (s.setPart part (p.setLaunch launch l)) part launch l k core shadow image)
      | none =>
        let l := { l with succRead := true }
        .next (admitFrame (s.setPart part (p.setLaunch launch l)) part launch l k core shadow image)

/-! Consumption (R266, R269). -/

/-- RECORD_HEAD_CHECK (R266, R269 step 2). -/
def execRecordHeadCheck (part q : Nat) (s : State) : Host.Outcome State Fault Refusal :=
  let p := s.part part
  let x := p.queue q
  if 8 ≤ q ∨ p.st = .free ∨ x.halt = true ∨ x.stage ≠ .fresh ∨ x.head = x.tail then .next s
  else
    let r := readRecord s.mem p (x.at x.head)
    let e := recordErr p x.kok r
    let s := s.schedRead part (x.at x.head) 128
    if e ≠ 0 then .next (s.setPart part (p.setQueue q (x.refuse e)))
    else
      let stage : Stage := if recCw r && decide (s.counter (recCtr r) ≠ 0) then .waiting false else .satisfied
      .next (s.setPart part (p.setQueue q { x with stage := stage, cur := r }))

/-- COUNTER_TRIGGER (R269 step 2). -/
def execCounterTrigger (part q : Nat) (s : State) : Host.Outcome State Fault Refusal :=
  let p := s.part part
  let x := p.queue q
  if decide (p.st ≠ .free) && decide (x.stage = .waiting true) then .next (s.setPart part (p.setQueue q { x with stage := .satisfied })) else .next s

/-- FRAME_COUNT_READ (R269 steps 3 and 4): the launch takes its LAUNCHID; a record of no frames leaves the queue at once. -/
def execFrameCountRead (part q : Nat) (old : Option W32) (s : State) : Host.Outcome State Fault Refusal :=
  let p := s.part part
  let x := p.queue q
  if decide (p.st ≠ .free) && decide (x.stage = .satisfied) && !x.halt then
    let r := x.cur
    let s := if recFcm r then s.schedRead part (recCptr r) 4 else s
    let (word, p) := if recFcm r then p.takeCount s.mem x old else (0, p)
    let c := if recFcm r then word.toNat else recFc r
    let id := p.nextLaunch
    let p := { p with nextLaunch := id + 1 }
    if c = 0 then .next (s.setPart part (p.setQueue q x.consume))
    else
      let l : Launch := { record := r, count := c, launchId := id, home := q, next := 0, queue := some q, succ := none, succRead := false, succId := none }
      .next ({ s with next := s.next + 1 }.setPart part ((p.setLaunch s.next l).setQueue q { x with stage := .launched s.next }))
  else .next s

/-! Successors (R155 step 4, R278). -/

/-- A handed-over frame can be born again (R278): also its entry overlay is resident or can be loaded (R233; DEDUCED, log 25). -/
def canBear (s : State) (fu : Nat) : Bool :=
  let f := s.frame fu
  f.waitsSucc && !f.gone && drained s fu
    && f.cores.zipIdx.all (fun x => coreTakes s f.record (strandsOn f.record x.2).length x.1)

/-- The births of a successor frame. -/
def bearSuccessor (s : State) (fu : Nat) (backs : List Nat) : State :=
  let s := s.setFrame fu { s.frame fu with waitsSucc := false }
  bearFrame s fu backs

/-- The partition once the first frame of a successor launch is to be born, which is its first admission: the launch reads its own successor record then (R278), judged by the KOK of the queue that its chain came from; a record that is not valid halts that queue with ERR 3, and the second value says that the birth is refused (DEDUCED, log 25). -/
def readOwnSucc (s : State) (p key : Nat) (l : Launch) : Part × Bool :=
  let x := s.part p
  match readSucc s p (x.queue l.home).kok l.record with
  | some none => (x.setQueue l.home { x.queue l.home with err := 3, erridx := (x.queue l.home).head, halt := true }, true)
  | some (some r) => (x.setLaunch key { l with succ := some r, succRead := true }, false)
  | none => (x.setLaunch key { l with succRead := true }, false)

/-- A refused birth of a launch whose successor record is not read waits for its queue to be started again (R266, R278; DEDUCED, log 25). -/
def succWaits (p : Part) (l : Launch) : Bool := !l.succRead && recSv l.record && (p.queue l.home).halt

/-- SUCCESSOR_BIRTH (R155, R278): a braced pair is born together. -/
def execSuccessorBirth (frame : Nat) (s : State) : Host.Outcome State Fault Refusal :=
  let f := s.frame frame
  let p := s.part f.part
  let l := p.launch f.launch
  let n := recStrands f.record
  let twin := f.twin.getD frame
  if p.runs && decide (owedFrames s f.part = []) && canBear s frame && !f.shadow && canBear s twin && !succWaits p l then
    match backingFor s f.part f.record ((if twin = frame then 1 else 2) * n) with
    | none => .next s
    | some backs =>
      let (p', refused) := if l.succRead then (p, false) else readOwnSucc s f.part f.launch l
      let s := (if l.succRead then s else s.succRead f.part l.record).setPart f.part p'
      if refused then .next s
      else
        let s := bearSuccessor s frame (backs.take n)
        .next (if twin = frame then s else braceUp (bearSuccessor s twin (backs.drop n)) frame twin)
  else .next s

/-! Arbitration (R276). -/

/-- The lanes of a strand's next operating map; 0 without a vector operand (R276 step 3). -/
def nextLanes (s : State) (t : Strand) : Nat :=
  match fetch s t with
  | .insn _ i _ => popcount (t.namedMap (operOf i))
  | _ => 0

/-- The strand of a list that has been Ready longest. -/
def longestReady : List (Nat × Strand) → Option Nat
  | [] => none
  | e :: r => some (r.foldl (fun a x => if x.2.readyAt < a.2.readyAt then x else a) e).1

/-- The winner of an arbitration among the Ready strands of a core (R276). -/
def winner (s : State) (c : Nat) : Option Nat :=
  let ready := s.strands.filter (fun e => decide (e.2.core = c) && decide (e.2.life = .ready))
  let top := ready.foldl (fun a e => Nat.max a e.2.prio) 0
  let first := ready.filter (fun e => decide (e.2.prio = top))
  let x := s.core c
  (longestReady (first.filter (fun e => decide (64 ≤ e.2.age)))).orElse (fun _ =>
    (if 256 * heavyThreshold x.ebudget < x.lastchg.toNat then longestReady (first.filter (fun e => decide (nextLanes s e.2 ≤ 8))) else none).orElse
      (fun _ => longestReady first))

/-- RUN_ARBITRATION (R276). -/
def execRunArbitration (core : Nat) (s : State) : Host.Outcome State Fault Refusal :=
  let c := s.core core
  match (if c.running = none then winner s core else none) with
  | none => .next s
  | some w =>
    let prio := (s.strand w).prio
    let s := { s with strands := s.strands.map (fun (e : Nat × Strand) =>
      if e.1 = w then (e.1, { e.2 with age := 0, life := .running })
      else if e.2.core = core ∧ e.2.life = Life.ready ∧ e.2.prio = prio then (e.1, { e.2 with age := Nat.min (e.2.age + 1) 127 })
      else e) }
    .next (s.setCore core { c with running := some w, runLen := 0, runCharge := 0, lastchg := BitVec.ofNat 32 c.runCharge })

end Sys2Proof.Machine
end

