-- ==== Sys2Proof/Machine/Ert.lean ====
section
/-! DEFINITION. Ert.lean: the expert residency table of a partition as a state machine: entries, frames, fills, evictions and replicas (R284 to R293). -/

namespace Sys2Proof.Machine

/-- An entry of a partition, by device number (R284). -/
def Part.entry (p : Part) (e : Nat) : Ert := Tbl.get Ert.zero p.ert e
/-- A partition with an entry set. -/
def Part.setEntry (p : Part) (e : Nat) (x : Ert) : Part := { p with ert := Tbl.set Ert.zero p.ert e x }
/-- An entry number of the partition. -/
def Part.ownsEntry (p : Part) (e : Nat) : Bool := decide (p.rcd.ebase ≤ e) && decide (e < p.rcd.ebase + p.rcd.ecnt)
/-- The lowest-numbered valid entry with a key (R288). -/
def Part.findKey (p : Part) (key : W32) : Option Nat := (p.ert.find? (fun e => e.2.valid && decide (e.2.key = key))).map (·.1)
/-- One ERT step: its number is the count after it (R290, DESIGN CHOICE, log 46). -/
def Part.ertStep (p : Part) : Part := { p with step := p.step + 1 }

/-! Frames (R286). -/

/-- The window offset of a frame. -/
def Part.frameAt (p : Part) (f : Nat) : BitVec 34 := BitVec.ofNat 34 (p.rcd.pbase + 4096 * p.rcd.fsz * f)

/-- An entry holds the frame of its vault copy: it is resident, or its fill has one. -/
def Part.holdsFrame (p : Part) (e : Nat) (x : Ert) : Bool :=
  match x.st with
  | .absent => false
  | .filling => !x.defer && !p.takes.any (fun k => decide (k.1 = e))
  | _ => true

/-- The window offsets of the frames in use. -/
def Part.framesUsed (p : Part) : List (BitVec 34) :=
  p.ert.flatMap (fun e => (if p.holdsFrame e.1 e.2 then [e.2.vcopy] else []) ++ (if e.2.rv || e.2.rbusy then [e.2.rcopy] else []))

/-- The free frames, rising, as window offsets. -/
def Part.framesFree (p : Part) : List (BitVec 34) := ((List.range p.rcd.nfr).map p.frameAt).filter (fun o => !p.framesUsed.contains o)

/-- The vault of a window offset (R286); an offset past the window comes round within it, as in `windowKey` (log 67). -/
def Part.vaultAt (p : Part) (o : BitVec 34) : Nat :=
  match p.rcd.win with
  | [] => 0
  | v :: r => (v :: r).getD (o.toNat / 2 ^ 25 % (r.length + 1)) v

/-! Fills (R289, R291, R292). -/

/-- Bytes of `k` leading planes of an expert (R289). -/
def expertLen (x : Ert) (k : Nat) : Nat :=
  if x.spn = 0 then 2048 * x.t.toNat * k
  else let n := if x.spn = 1 then 2 else 4
       768 * n * x.t.toNat + 256 * n * x.t.toNat * k

/-- A fill fails in the step that starts it (R289). -/
def Part.badFill (p : Part) (x : Ert) : Bool := decide (4096 * p.rcd.fsz < expertLen x x.fpl.toNat) || decide (x.spn = 3)

/-- The entry's fill has a frame and copies. -/
def Part.fillRuns (p : Part) (e : Nat) : Bool :=
  let x := p.entry e
  decide (x.st = .filling) && p.holdsFrame e x

/-- The pages of a fill's source, each by an address in it. -/
def fillPages (x : Ert) (n : Nat) : List W80 :=
  let first := x.farb.toNat / 65536
  let last := (x.farb.toNat + n - 1) / 65536
  if n = 0 then [] else (List.range (last - first + 1)).map (fun i => BitVec.ofNat 80 ((first + i) * 65536))

/-- A page is one of a fill's source. -/
def Part.fillMeets (p : Part) (e : Nat) (vpn : W64) : Bool :=
  let x := p.entry e
  (fillPages x (expertLen x x.fpl.toNat)).any (fun a => decide (a.extractLsb' 16 64 = vpn))

/-- The waiters of an entry moved to the ready tail, with FAIL when a fill failed. -/
def Part.moveWaiters (p : Part) (e : Nat) (fail : Bool) : Part :=
  let x := p.entry e
  let w := x.waiters.map (fun d => { d with fail := fail })
  { p.setEntry e { x with waiters := [], qcnt := x.qcnt + w.length } with ready := p.ready ++ w }

/-- A fill fails with a code, and gives up its frame (R291). -/
def Part.dropFill (p : Part) (e code : Nat) : Part :=
  let p := { p with deferred := p.deferred.filter (· ≠ e), takes := p.takes.filter (fun k => decide (k.1 ≠ e)) }.moveWaiters e true
  p.setEntry e { p.entry e with ferr := code, defer := false, st := .absent }

/-- A fill completes (R291). -/
def Part.endFill (p : Part) (e : Nat) : Part :=
  let p := p.moveWaiters e false
  let x := p.entry e
  p.setEntry e { x with rpl := x.fpl.toNat, st := if x.pinreq then .pinned else .resident, pinreq := false }

/-- An entry that may be evicted (R292). -/
def Ert.evictable (x : Ert) : Bool := x.valid && decide (x.st = .resident) && decide (x.inuse = 0) && decide (x.qcnt = 0)

/-- The evictable entry with the least USE (R292). -/
def Part.victim (p : Part) : Option Nat :=
  match p.ert.filter (fun e => e.2.evictable) with
  | [] => none
  | a :: r => some (r.foldl (fun a b => if decide (a.2.use ≠ b.2.use) && atOrBefore b.2.use a.2.use then b else a) a).1

/-- The fill of an entry takes a frame and starts. -/
def Part.takeFrame (p : Part) (e : Nat) (o : BitVec 34) : Part := p.setEntry e { p.entry e with vcopy := o, defer := false }

/-- A frame sought for a fill: the lowest free one, else that of a victim, taken when its eviction ends; none when nothing can be evicted (R292). -/
def Part.seekFrame (p : Part) (e : Nat) : Option Part :=
  match p.framesFree with
  | o :: _ => some (p.takeFrame e o)
  | [] =>
    match p.victim with
    | none => none
    | some v =>
      let x := p.entry v
      if x.rbusy then
        let p := p.setEntry v { x with rv := false, rpl := 0, st := .evicting }
        some { p.setEntry e { p.entry e with defer := false } with takes := p.takes ++ [(e, v)] }
      else some ((p.setEntry v { x with rv := false, rpl := 0, st := .absent }).takeFrame e x.vcopy)

/-- The deferred fills granted, oldest first, as far as frames or victims go (R292); `n` bounds them. -/
def Part.grantAll : Nat → Part → Part
  | 0, p => p
  | n + 1, p =>
    match p.deferred with
    | [] => p
    | e :: r =>
      match { p with deferred := r }.seekFrame e with
      | some p' => grantAll n p'
      | none => p

/-- The end of a step that may have freed a frame or made an entry evictable: the deferred fills that can start do, within the step (R292). -/
def Part.granted (p : Part) : Part := p.grantAll p.deferred.length

/-- A fill fails, and its frame goes to the oldest deferred fill (R291, R292). -/
def Part.failFill (p : Part) (e code : Nat) : Part := (p.dropFill e code).granted

/-- A fill of an entry that is FILLING starts, after those deferred before it (R292); until it has a frame its DEFER is set. -/
def Part.startFill (p : Part) (e : Nat) : Part :=
  if p.badFill (p.entry e) then p.dropFill e 2
  else { p.setEntry e { p.entry e with defer := true } with deferred := p.deferred ++ [e] }.granted

/-- An eviction ends: its frames are freed, the vault copy's to the fill that waits for it, another to the oldest deferred fill; waiters start a fill, which takes its place behind those deferred before (R291, R292; that it counts from here, and not from the XDISP that parked the first of them, is a DESIGN CHOICE, log 46). -/
def Part.endEviction (p : Part) (e : Nat) : Part :=
  let x := p.entry e
  let o := x.vcopy
  let p := p.setEntry e { x with rv := false, rbusy := false, rpl := 0, st := .absent }
  let p : Part := match p.takes.find? (fun k => decide (k.2 = e)) with
    | some (f, _) => { p with takes := p.takes.filter (fun k => decide (k.1 ≠ f)) }.takeFrame f o
    | none => p
  if (p.entry e).waiters = [] then p.granted else ((p.setEntry e { p.entry e with st := .filling }).startFill e).granted

/-- An eviction of a RESIDENT entry (R291): with no replica copy busy it ends within its own step. -/
def Part.evict (p : Part) (e : Nat) : Part :=
  let x := p.entry e
  let p := p.setEntry e { x with rv := false, rpl := 0, st := .evicting }
  if x.rbusy then p else p.endEviction e

/-! Replicas (R293). -/

/-- The rank of a copy for a core: 0 above its cluster, 1 on its die, 2 on the other die. -/
def Part.rank (p : Part) (o : BitVec 34) (core : Nat) : Nat :=
  let c := vaultCore (p.vaultAt o)
  if clusterOf c = clusterOf core then 0 else if dieOf c = dieOf core then 1 else 2

/-- The copy that a core is given: the nearest, the primary on a tie. -/
def Part.nearest (p : Part) (x : Ert) (core : Nat) : BitVec 34 :=
  if x.rv && decide (p.rank x.rcopy core < p.rank x.vcopy core) then x.rcopy else x.vcopy

/-- The frame for a replica near a core. -/
def Part.replicaFrame (p : Part) (core : Nat) : Option (BitVec 34) :=
  (p.framesFree.find? (fun o => decide (p.rank o core = 0))).orElse (fun _ => p.framesFree.find? (fun o => decide (p.rank o core ≤ 1)))

/-! Dispatch (R291). -/

/-- The XDISP of a descriptor: the status of R295 and the partition after its step. -/
def Part.dispatch (p : Part) (key first : W32) (count : Nat) (o : Ordn) (sc : Scope) : Part × Nat :=
  let p := p.ertStep
  match p.findKey key with
  | none => (p, 4)
  | some e =>
    if p.rcd.dq ≤ p.dused then (p, 3)
    else
      let d : Desc := { key := key, first := first, count := count, fail := false }
      let x := p.entry e
      let x := { x with rc := x.rc + BitVec.ofNat 32 count, use := p.step }
      let p := { p with dused := p.dused + 1 }
      match x.st with
      | .absent => ((p.setEntry e { x with waiters := x.waiters ++ [d], ferr := 0, st := .filling, fillO := o, fillSc := sc }).startFill e, 2)
      | .filling => (p.setEntry e { x with waiters := x.waiters ++ [d] }, 1)
      | .resident | .pinned => ({ p.setEntry e { x with qcnt := x.qcnt + 1 } with ready := p.ready ++ [d] }, 0)
      | .evicting => (p.setEntry e { x with waiters := x.waiters ++ [d] }, 2)

end Sys2Proof.Machine
end

