-- ==== Sys2Proof/Machine/Far.lean ====
section
/-! DEFINITION. Far.lean: the copy channel's commands and their completion (R238, R247, R252, R256), far addresses, walks, TLBs, compression and hotness (R304 to R313), TINV (R314, R315), RETRY (R309). -/

namespace Sys2Proof.Machine

/-- A strand whose queues and channels work on its core: it is not frozen. -/
def Life.onCore : Life → Bool
  | .frozenReady | .frozenParked _ | .frozenExiting => false
  | _ => true

/-- The strand's partition is LIVE and the strand is not frozen: its channels work. -/
def State.works (s : State) (u : Nat) : Bool := (s.strand u).life.onCore && decide ((s.part (s.strand u).part).st = .live)

/-! The copy channel. -/

/-- A command is not READ-DONE (R256): a lane of CPY or an unclipped row of CPGATHER is neither read nor failed, the pairs of SORT are not; OVLD and TINV end at once (R229, R315). -/
def Cmd.reading (c : Cmd) : Bool :=
  match c.kind with
  | .cpy _ _ _ | .gather _ => c.units.any (fun x => x.src.isSome && x.dat.isNone)
  | .sort _ _ _ _ _ => !c.readDone
  | .ovld _ _ _ | .tinv _ _ _ _ _ => true

/-- The done marks of a copy channel advanced (R238, R256). -/
def CopyCh.advance (c : CopyCh) : CopyCh :=
  { c with
    rdone := advanceMark c.cpbatch (fun b => c.cmds.any (fun x => decide (x.batch = some b) && x.reading)) 128 c.rdone
    vdone := advanceMark c.cpbatch (fun b => c.cmds.any (fun x => decide (x.batch = some b))) 128 c.vdone }

/-- A command of a strand's copy channel by its issue number. -/
def Strand.cmd (t : Strand) (ord : Nat) : Option Cmd := t.copy.cmds.find? (fun c => decide (c.ord = ord))

/-- A command changed. -/
def Strand.modCmd (t : Strand) (ord : Nat) (f : Cmd → Cmd) : Strand :=
  { t with copy := { t.copy with cmds := t.copy.cmds.map (fun c => if c.ord = ord then f c else c) } }

/-- An error marked in the status of a command's batch (R246, R252). -/
def Strand.copyError (t : Strand) (b : Option W32) (code : Nat) : Strand := { t with copy := { t.copy with st := markAt t.copy.st b code } }

/-- Rows added to CLIP, saturating (R252). -/
def Strand.clip (t : Strand) (b : Option W32) (n : Nat) : Strand :=
  let w := Tbl.get 0 t.copy.st (statusPlace b)
  let c := Nat.min ((w.extractLsb' 32 32).toNat + n) (2 ^ 32 - 1)
  { t with copy := { t.copy with st := Tbl.set 0 t.copy.st (statusPlace b) (BitVec.ofNat 64 (c * 2 ^ 32 + w.toNat % 2 ^ 32)) } }

/-- The remote signal of a CRM command sent behind its data: it takes a fabric credit of its port, which is on its engine's die, or waits for one (R11, R247, R259, R363). -/
def sendSignal (s : State) (x : Signal) : State :=
  let port := Config.peerLink x.part x.die x.peer
  let used := Tbl.get 0 s.creditsUsed port
  if used < Config.portCredits then
    { s.carryPeer x.part x.die x.peer x.cls 4 with
      creditsUsed := Tbl.set 0 s.creditsUsed port (used + 1)
      peerOut := .signal x.part x.peer x.ctr x.tag (s.linkClass x.part port x.cls) :: s.peerOut }
  else { s with signals := s.signals ++ [x] }

/-- The counter of a command with CE = 1: its identifier and CRM. -/
def Cmd.counter (c : Cmd) : Option (Nat × Bool) :=
  match c.kind with
  | .cpy _ _ ctr => ctr
  | .gather ctr => ctr.map (fun x => (x, false))
  | _ => none

/-- The one peer that backs every destination page a command met. -/
def Cmd.onePeer (c : Cmd) : Option Nat :=
  match c.peers with
  | some p :: r => if r.all (fun x => decide (x = some p)) then some p else none
  | _ => none

/-- The tag of a command's decrement: the one after its own (R326, R328). -/
def Cmd.ctrTag (c : Cmd) : Tag := { c.tag with seq := (c.tag.seq + 1) % 8192 }

/-- A command is VISIBLE: it leaves its channel, and its counter is decremented or its signal sent (R247, R256). -/
def finishCmd (s : State) (u : Nat) (c : Cmd) : State :=
  let t := s.strand u
  let t' := { t with copy := { t.copy with cmds := t.copy.cmds.filter (fun x => decide (x.ord ≠ c.ord)) }.advance }
  match c.counter with
  | none => s.setStrand u t'
  | some (i, false) => (s.setStrand u t').setCounter i (s.counter i - 1)
  | some (i, true) =>
    match c.onePeer with
    | some peer => sendSignal (s.setStrand u t') { part := t.part, peer := peer, ctr := i, tag := c.ctrTag, cls := c.cls, die := dieOf t.core }
    | none => s.setStrand u (t'.copyError c.batch 4)

/-- The decrement of a command's local counter, where it has one, may be made: it is a release (R247). -/
def counterReady (s : State) (u : Nat) (c : Cmd) : Bool :=
  match c.counter with
  | some (_, false) => engineReleases s u c.ord
  | _ => true

/-- A command after a change of its units: its batch's READ-DONE is looked at; with all units done a queue form waits for its entry to become readable, and any other is VISIBLE once its writes are performed at its scope and its counter's decrement may be made (R247, R256). -/
def settle (s : State) (u ord : Nat) : State :=
  match (s.strand u).cmd ord with
  | none => s
  | some c =>
    let marks (t : Strand) : State := s.setStrand u { t with copy := t.copy.advance }
    if c.units ≠ [] then marks (s.strand u)
    else match c.kind with
      | .cpy _ (some _) _ => marks ((s.strand u).modCmd ord (fun c => { c with readDone := true }))
      | _ => if c.reading || !engineDone s u ord c.sc || !counterReady s u c then marks (s.strand u) else finishCmd s u c

/-- Reads of near bytes by the engines of a core, each by its key and length: one request for each line of 128 bytes, carried from its die (R12, R170, R364). -/
def State.carryKeys (s : State) (part core cls : Nat) (keys : List (Nat × Nat)) : State :=
  ((keys.map (fun k => k.1 / 128)).dedup).foldl (fun s l =>
    s.carryNear part core (128 * l) (sumOf (fun (k : Nat × Nat) => if k.1 / 128 = l then k.2 else 0) keys) cls) s

/-- The near key of a place. -/
def Loc.nearKey : Option Loc → Option Nat
  | some (.near k) => some k
  | _ => none

/-- The near sources of units carried. -/
def carryReads (s : State) (u : Nat) (c : Cmd) (us : List CUnit) : State :=
  s.carryKeys (s.strand u).part (s.strand u).core c.cls (us.filterMap (fun x => (Loc.nearKey x.src).map (fun k => (k, x.len))))

/-- Pieces with those read that a list names, as a core sees them now. -/
def readPieces (s : State) (c : Nat) (pick : List Nat) (l : Pieces) : Pieces :=
  l.zipIdx.map (fun e => if pick.contains e.2 && e.1.2.isNone then (e.1.1, some (coreRead s c e.1.1 16)) else e.1)

/-- The pieces that a list names and that are not read, each by its key and length. -/
def pieceKeys (pick : List Nat) (l : Pieces) : List (Nat × Nat) :=
  l.zipIdx.filterMap (fun e => if pick.contains e.2 && e.1.2.isNone then some (e.1.1, 16) else none)

/-- The bytes of pieces that are read. -/
def pieceBytes (l : Pieces) : List Byte := l.flatMap (fun e => e.2.getD [])

/-! Leaves (R304 to R307). -/

/-- The page of an address: A[79:16]. -/
def vpnOf (a : W80) : W64 := a.extractLsb' 16 64
/-- P -/
def eP (e : BitVec 128) : Bool := e.getLsbD 0
/-- LEAF -/
def eLeaf (e : BitVec 128) : Bool := e.getLsbD 1
/-- BK -/
def eBk (e : BitVec 128) : Nat := (e.extractLsb' 5 2).toNat
/-- RD -/
def eRd (e : BitVec 128) : Bool := e.getLsbD 7
/-- W -/
def eW (e : BitVec 128) : Bool := e.getLsbD 8
/-- X -/
def eX (e : BitVec 128) : Bool := e.getLsbD 9
/-- CMP -/
def eCmp (e : BitVec 128) : Nat := (e.extractLsb' 10 2).toNat
/-- MDA -/
def eMda (e : BitVec 128) : Nat := (e.extractLsb' 16 48).toNat
/-- OUT -/
def eOut (e : BitVec 128) : Nat := (e.extractLsb' 64 48).toNat
/-- HOT -/
def eHot (e : BitVec 128) : Nat := (e.extractLsb' 112 16).toNat
/-- The peer of a PEER leaf. -/
def ePeer (e : BitVec 128) : Nat := eMda e % 256

/-- A present entry met at a level (4: the root directory) is malformed (R307). -/
def malformed (level : Nat) (e : BitVec 128) : Bool :=
  decide (e.extractLsb' 2 3 ≠ 0) || decide (e.extractLsb' 12 4 ≠ 0)
    || (eLeaf e && decide (level ≠ 2 ∧ level ≠ 3)) || (!eLeaf e && decide (level = 3))
    || (!eLeaf e && decide (eOut e % 16 ≠ 0))
    || (eLeaf e && decide (level = 2) && decide (eOut e % 2 ^ 16 ≠ 0))
    || decide (eBk e = 3) || decide (2 ≤ eCmp e) || (decide (eCmp e = 1) && decide (eBk e = 2))
    || (!eLeaf e && (decide (e.extractLsb' 5 7 ≠ 0) || decide (eMda e ≠ 0) || decide (eHot e ≠ 0)))

/-- What a walk finds. -/
inductive WalkRes
  | leaf (e : BitVec 128) (big : Bool)
  | absent (level : Nat)
  | bad
deriving DecidableEq, Repr

/-- A walk through the entries named by (level, index), from a table's address (R308). -/
def walkFrom (m : Memory) : List (Nat × Nat) → Nat → WalkRes
  | [], _ => .bad
  | (lv, i) :: r, base =>
    let e : BitVec 128 := BitVec.ofNat 128 (ofBytes (m.readN (poolKey (base + 16 * i)) 16))
    if !eP e then .absent lv
    else if malformed lv e then .bad
    else if eLeaf e then .leaf e (decide (lv = 2))
    else walkFrom m r (eOut e * 2 ^ 16)

/-- The levels and indexes of the entries on the way to a page (R305, R308). -/
def walkPath (asid : BitVec 16) (vpn : W64) : List (Nat × Nat) :=
  [(4, asid.toNat), (0, (vpn.extractLsb' 48 16).toNat), (1, (vpn.extractLsb' 32 16).toNat), (2, (vpn.extractLsb' 16 16).toNat),
    (3, (vpn.extractLsb' 0 16).toNat)]

/-- The walk of a page under a partition's root directory (R305, R308). -/
def walkPage (m : Memory) (p : Part) (asid : BitVec 16) (vpn : W64) : WalkRes := walkFrom m (walkPath asid vpn) (p.rcd.rootdir.toNat * 2 ^ 16)

/-! TLBs (R312, R313). -/

/-- A TLB entry translates a page. -/
def Tlb.hits (e : Tlb) (p : Nat) (asid : BitVec 16) (vpn : W64) : Bool :=
  decide (e.part = p) && decide (e.asid = asid) &&
    (if e.big then decide (e.vpn.extractLsb' 16 48 = vpn.extractLsb' 16 48) else decide (e.vpn = vpn))

/-- The hotness of an entry that leaves a TLB added to its word of the shadow table, byte by byte of the window (R313, R5; log 67); the update is carried from the TLB's die to the word's (R364). -/
def hotLeave (s : State) (die : Nat) (e : Tlb) : State :=
  let h := eHot e.leaf
  if h = 0 ∨ e.hcnt = 0 then s
  else
    let p := s.part e.part
    let keys := (List.range 4).map (fun i => windowKey p (p.rcd.hsbase + 4 * h + i))
    let v := Nat.min (ofBytes (keys.map s.mem.read) + e.hcnt) (2 ^ 32 - 1)
    { s with mem := s.mem.putCells (keys.zip (toBytes 4 v)) }.reach e.part die (keys.headD 0) 4 (fillClass p)

/-- Two entries are of one page: its size counts, so that a 4 GiB page stands beside an old 64 KiB entry within it. -/
def Tlb.same (x e : Tlb) : Bool := decide (x.part = e.part) && decide (x.asid = e.asid) && decide (x.vpn = e.vpn) && decide (x.big = e.big)

/-- An entry installed in a TLB of `cap` entries, unless its page is there already; a full one loses the entry at `victim`. -/
def tlbInstall (l : List Tlb) (cap : Nat) (e : Tlb) (victim : Nat) : List Tlb × Option Tlb :=
  if l.any (fun x => x.same e) then (l, none)
  else if l.length < cap then (l ++ [e], none)
  else (l.eraseIdx (victim % cap) ++ [e], l[victim % cap]?)

/-- The hotness of an entry that may have left. -/
def hotLeaveO (s : State) (die : Nat) : Option Tlb → State
  | some e => hotLeave s die e
  | none => s

/-- An entry installed in a core's copy TLB. -/
def installCopy (s : State) (c : Nat) (e : Tlb) (victim : Nat) : State :=
  let (l, out) := tlbInstall (s.core c).tlb Config.copyTlbLen e victim
  hotLeaveO (s.setCore c { s.core c with tlb := l }) (dieOf c) out

/-- An entry installed in a die TLB. -/
def installDie (s : State) (d : Nat) (e : Tlb) (victim : Nat) : State :=
  let (l, out) := tlbInstall (s.die d).tlb Config.dieTlbLen e victim
  hotLeaveO (s.setDie d { s.die d with tlb := l }) d out

/-- One transfer of the pages counted in the entries that translate it, each page in the first that it hits, saturating (R313). -/
def countHot (l : List Tlb) (p : Nat) (asid : BitVec 16) (vpns : List W64) : List Tlb :=
  let used := vpns.filterMap (fun v => l.findIdx? (fun e => e.hits p asid v))
  l.zipIdx.map (fun e => if used.contains e.2 then { e.1 with hcnt := Nat.min (e.1.hcnt + 1) 65535 } else e.1)

/-- A walk started for a page, unless the asker waits for the page to be present, its walk is under way, or no walker is free (R308, R309); a walk whose result a TINV will have dropped is waited for, and the page is walked for again behind it (R315). -/
def startWalk (s : State) (d p : Nat) (asid : BitVec 16) (vpn : W64) (who : Asker) (cls : Nat) : State :=
  let x := s.die d
  if (x.waits.contains (p, asid, vpn) && x.waiters.contains (p, vpn, who))
      || x.walks.any (fun w => decide (w.part = p) && decide (w.asid = asid) && decide (w.vpn = vpn) && decide (w.who = who))
      || decide (Config.walkers ≤ x.walks.length) then s
  else
    let w : Walk := { num := s.next, part := p, asid := asid, vpn := vpn, who := who, cls := cls, ranges := [] }
    { s with next := s.next + 1 }.setDie d { x with walks := x.walks ++ [w] }

/-- The translation of a far page for a fill: the die TLB, else a walk is started (R308). -/
def translateFill (s : State) (d p e : Nat) (a : W80) : State × Option Tlb :=
  let asid := (s.part p).rcd.fasid
  match (s.die d).tlb.find? (fun x => x.hits p asid (vpnOf a)) with
  | some x => (s, some x)
  | none => (startWalk s d p asid (vpnOf a) (.fill e) (fillClass (s.part p)), none)

/-- The translation of a far page for a copy command: the copy TLB, then the die TLB, whose leaf it takes over, in the place of the first entry where the copy TLB is full (R312; DESIGN CHOICE, log 42); else a walk is started (R308). -/
def translate (s : State) (u ord : Nat) (a : W80) : State × Option Tlb :=
  let t := s.strand u
  let asid := (s.part t.part).rcd.casid
  let vpn := vpnOf a
  let d := dieOf t.core
  match (s.core t.core).tlb.find? (fun e => e.hits t.part asid vpn) with
  | some e => (s, some e)
  | none =>
    match (s.die d).tlb.find? (fun e => e.hits t.part asid vpn) with
    | some e => (installCopy s t.core { e with hcnt := 0 } 0, some e)
    | none => (startWalk s d t.part asid vpn (.copy u ord) (((t.cmd ord).map (·.cls)).getD 1), none)

/-- The offset of an address in its page. -/
def pageOffset (e : Tlb) (a : W80) : Nat := if e.big then (a.extractLsb' 0 32).toNat else (a.extractLsb' 0 16).toNat

/-- The pool key, or the peer offset, of an address under an entry (R308). -/
def physOf (e : Tlb) (a : W80) : Nat := eOut e.leaf * 2 ^ 16 + pageOffset e a

/-- Line `j` of a page is stored (R311). -/
def lineStored (m : Memory) (e : BitVec 128) (j : Nat) : Bool :=
  decide (eCmp e ≠ 1) || (m.read (poolKey (eMda e * 32 + j / 8))).getLsbD (j % 8)

/-- Bytes read at an address inside one 256-byte line (R311). -/
def farRead (m : Memory) (e : Tlb) (a : W80) (n : Nat) : List Byte :=
  if lineStored m e.leaf (pageOffset e a / 256) then m.readN (poolKey (physOf e a)) n else List.replicate n 0

/-- Bytes written at an address inside one 256-byte line: an unstored line is first zeroed, then its bit is set (R311). -/
def farWrite (m : Memory) (e : Tlb) (a : W80) (b : List Byte) : Memory :=
  let j := pageOffset e a / 256
  let k := physOf e a
  if lineStored m e.leaf j then m.writeL (poolKey k) b
  else
    let m := (m.clear (poolKey (k / 256 * 256)) 256).writeL (poolKey k) b
    let q := poolKey (eMda e.leaf * 32 + j / 8)
    m.write q (m.read q ||| BitVec.ofNat 8 (2 ^ (j % 8)))

/-! The failure of a walk. -/

/-- A place lies in a far page. -/
def Loc.inPage (vpn : W64) : Option Loc → Bool
  | some (.far a) => decide (vpnOf a = vpn)
  | _ => false

/-- A unit of a command waits in a far page: it is to be read there, or to be written there. -/
def CUnit.waitsIn (x : CUnit) (vpn : W64) : Bool := (Loc.inPage vpn x.src && x.dat.isNone) || Loc.inPage vpn x.dst

/-- Every lane or row of a command that waits in a page whose walk has failed fails with its code, a row as a whole (R246, R249); an OVLD ends in error with its slots LOADING (R229, R308). -/
def failPage (s : State) (u ord : Nat) (vpn : W64) (code : Nat) : State :=
  let t := s.strand u
  match t.cmd ord with
  | none => s
  | some c =>
    let out := (c.units.filter (fun y => y.waitsIn vpn)).map (·.lane)
    if out = [] then s
    else match c.kind with
      | .ovld _ _ _ => finishCmd (s.setStrand u (t.copyError c.batch code)) u c
      | _ =>
        let t' := (t.copyError c.batch code).modCmd ord (fun c =>
          { c with units := c.units.filter (fun x => !out.contains x.lane)
                   peers := if c.units.any (fun x => Loc.inPage vpn x.dst) then c.peers ++ [none] else c.peers })
        settle (s.setStrand u t') u ord

/-- A fill ended: nobody waits any more for an absent page of it (R289, R309). -/
def endFillWaits (s : State) (part e : Nat) : State :=
  { s with dies := s.dies.map (fun (d : Nat × Die) =>
    (d.1, { d.2 with waiters := d.2.waiters.filter (fun w => !(decide (w.1 = part) && decide (w.2.2 = .fill e))) })) }

/-- An error of a walk given to the one who asked (R308); a fill takes it while it copies a range with that page, and not from the walk of an earlier one. -/
def failWalk (s : State) (w : Walk) (code : Nat) : State :=
  match w.who with
  | .copy u ord => failPage s u ord w.vpn code
  | .fill e => let p := s.part w.part
               if p.fillRuns e && p.fillMeets e w.vpn && decide (p.rcd.fasid = w.asid) then endFillWaits (s.setPart w.part (p.ertStep.failFill e code)) w.part e else s

/-- The absent-page record, SEQ left 0 (R361). -/
def absentRecord (w : Walk) (die level : Nat) : BitVec 256 :=
  BitVec.ofNat 256 (w.vpn.toNat * 2 ^ 64 + w.asid.toNat * 2 ^ 16 + die * 2 ^ 12 + level * 2 ^ 8 + 1)

/-- A page of 2^16 or 2^32 bytes at an address meets the range of `n` 64 KiB pages from `a`, modulo 2^80; n = 0 is every address. -/
def meetsRange (vpn : W64) (big : Bool) (a : W80) (n : Nat) : Bool :=
  let first := vpn.toNat
  let len := if big then 65536 else 1
  let start := (vpnOf a).toNat
  decide (n = 0) || decide ((first + 2 ^ 64 - start) % 2 ^ 64 < n) || decide ((start + 2 ^ 64 - first) % 2 ^ 64 < len)

/-- The first 64 KiB page of the page that an address lies in. -/
def pageStart (vpn : W64) (big : Bool) : W64 := if big then vpn &&& ~~~(0xFFFF : W64) else vpn

/-- The addresses that a walk through the entries named reads. -/
def walkReads (m : Memory) : List (Nat × Nat) → Nat → List Nat
  | [], _ => []
  | (lv, i) :: r, base =>
    let e : BitVec 128 := BitVec.ofNat 128 (ofBytes (m.readN (poolKey (base + 16 * i)) 16))
    (base + 16 * i) :: (if eP e && !malformed lv e && !eLeaf e then walkReads m r (eOut e * 2 ^ 16) else [])

/-- The CXL link of the engines of a die to a pool address (R11, R362). -/
def poolLink (die a : Nat) : Nat := Config.cxlLink (8 * (die % 2) + (Config.poolPort die a).val)

/-- A message to or from `n` bytes at a far address: by the UALink port of its peer, or by a CXL port of the die (R11, R12, R363, R364). -/
def State.carryFar (s : State) (part die : Nat) (e : Tlb) (a : W80) (cls n : Nat) : State :=
  if eBk e.leaf = 2 then s.carryPeer part die (ePeer e.leaf) cls n else s.carry part (poolLink die (physOf e a)) cls n

/-- The reads of a walk carried by the CXL links of its die (R12, R364). -/
def carryWalk (s : State) (die : Nat) (w : Walk) : State :=
  (walkReads s.mem (walkPath w.asid w.vpn) ((s.part w.part).rcd.rootdir.toNat * 2 ^ 16)).foldl (fun s a => s.carry w.part (poolLink die a) w.cls 16) s

/-- What the walk of a page finds meets a range that a TINV has dropped since the walk began (R315). -/
def Walk.met (w : Walk) (r : WalkRes) : Bool :=
  let big := match r with
    | .leaf _ big => big
    | _ => false
  w.ranges.any (fun x => meetsRange (pageStart w.vpn big) big x.1 x.2)

/-- WALK_COMPLETE (R308, R309, R315): the leaf is installed, the page waits on the die's list, or the walk fails; a result that meets the range of a TINV started since is dropped. -/
def execWalkComplete (die idx : Nat) (poison : Bool) (victimDie victimCopy : Nat) (s : State) : Host.Outcome State Fault Refusal :=
  let d := s.die die
  match d.walks[idx]? with
  | none => .next s
  | some w =>
    let found := walkPage s.mem (s.part w.part) w.asid w.vpn
    let s1 := carryWalk (s.setDie die { d with walks := d.walks.eraseIdx idx }) die w
    if w.met found then .next (wakeAll s1)
    else if poison then .next (wakeAll (failWalk s1 w 3))
    else match found with
      | .bad => .next (wakeAll (failWalk s1 w 2))
      | .leaf e big =>
        let x : Tlb := { part := w.part, asid := w.asid, vpn := pageStart w.vpn big, big := big, leaf := e, hcnt := 0 }
        let s2 := installDie s1 die x victimDie
        .next (match w.who with
          | .copy u _ => if dieOf (s.strand u).core = die ∧ s.works u = true then installCopy s2 (s.strand u).core x victimCopy else s2
          | .fill _ => s2)
      | .absent lv =>
        let s2 := s1.setDie die { s1.die die with waiters := (w.part, w.vpn, w.who) :: d.waiters }
        if d.waits.contains (w.part, w.asid, w.vpn) then .next s2
        else if Config.waitListLen ≤ d.waits.length then .next s
        else .next ((s2.setDie die { s2.die die with waits := d.waits ++ [(w.part, w.asid, w.vpn)] }).report w.part false (absentRecord w die lv))

/-- RETRY (R309): the waiting pages named leave the wait lists, and their lanes walk again. -/
def execRetry (part : Nat) (vpn : Option W64) (s : State) : Host.Outcome State Fault Refusal :=
  let keep (p : Nat) (v : W64) : Bool := !(decide (p = part) && (match vpn with
    | none => true
    | some x => decide (v = x)))
  if s.stage ≠ 2 then .next s else .next ([0, 1].foldl (fun s d => s.setDie d { s.die d with
    waits := (s.die d).waits.filter (fun w => keep w.1 w.2.2)
    waiters := (s.die d).waiters.filter (fun w => keep w.1 w.2.1) }) s)

/-! TINV (R314, R315). -/

/-- An entry that a TINV drops. -/
def Tlb.dropped (e : Tlb) (p : Nat) (asid : Option (BitVec 16)) (a : W80) (n : Nat) : Bool :=
  decide (e.part = p) && (match asid with
    | none => true
    | some x => decide (e.asid = x)) && meetsRange e.vpn e.big a n

/-- The copy TLBs without the entries of a test. -/
def State.clearCopyTlbs (s : State) (out : Tlb → Bool) : State :=
  { s with cores := s.cores.map (fun (e : Nat × Core) => (e.1, { e.2 with tlb := e.2.tlb.filter (fun x => !out x) })) }

/-- The die TLBs without the entries of a test. -/
def State.clearDieTlbs (s : State) (out : Tlb → Bool) : State :=
  { s with dies := s.dies.map (fun (e : Nat × Die) => (e.1, { e.2 with tlb := e.2.tlb.filter (fun x => !out x) })) }

/-- Copy-TLB entries that leave, by a test; their hotness is added (R312, R313). -/
def dropCopyTlbs (s : State) (out : Tlb → Bool) : State :=
  (s.cores.flatMap (fun e => (e.2.tlb.filter out).map (fun x => (dieOf e.1, x)))).foldl (fun s x => hotLeave s x.1 x.2) (s.clearCopyTlbs out)

/-- TLB entries that leave, by a test, in every TLB of the device; their hotness is added (R313, R315). -/
def dropTlbs (s : State) (out : Tlb → Bool) : State :=
  let s' := dropCopyTlbs s out
  (s.dies.flatMap (fun e => (e.2.tlb.filter out).map (fun x => (e.1, x)))).foldl (fun s x => hotLeave s x.1 x.2) (s'.clearDieTlbs out)

/-- A command entered into the issuing strand's copy channel, with `tags` tags taken; a full channel holds the strand (R241). -/
def enterCopy (s : State) (t' : Strand) (c : Cmd) (tags k : Nat) : Res :=
  if Config.copyChannelLen ≤ t'.copy.cmds.length then .stall
  else
    let s := s.setMe { t' with copy := { t'.copy with cmds := t'.copy.cmds ++ [c] } }
    .done ((List.range tags).foldl (fun s _ => useTag s t') s) k

/-- A command of the issuing strand before its units. -/
def newCmd (s : State) (t : Strand) (i : Instr) (kind : CmdKind) (o : Ordn) (sc : Scope) (addr : W80) (units : List CUnit) : Cmd :=
  { ord := t.ord, tag := nextTag s t, batch := none, kind := kind, o := o, sc := sc, units := units, arrived := [], peers := [],
    readDone := false, addr := addr, insn := allWords i, cls := s.classOf t, pc := t.pc.bits }

/-- TINV (R314, R315). -/
def execTinv (k : Marks) (x : BCode) (y z : SCode) (s : State) : Host.Outcome State Fault Refusal :=
  issue (.tinv k x y z) ⟨k, 0x73, 2, .engine⟩ s (fun s =>
    let t := s.me
    let sel := t.s y
    let n := (t.s z).toNat
    let a := t.base x
    if !t.priv then .trap .privilege 0
    else if sel.extractLsb' 17 47 ≠ 0 then .trap .illegalOperand 0
    else if n ≠ 0 ∧ a.extractLsb' 0 16 ≠ 0 then .trap .misaligned 0
    else enterCopy s t (newCmd s t (.tinv k x y z)
      (.tinv (if sel.getLsbD 16 then none else some (sel.extractLsb' 0 16)) a n false []) .rlx .strand a []) 0 1)

/-- A TINV starts once every access that happens-before its issue is performed at SYSTEM scope: its strand's own, and every access that has left a queue or been held before it (R315, DEDUCED, log 44). -/
def tinvReady (s : State) (u ord : Nat) : Bool :=
  performedBefore s u ord .system && s.cores.all (fun e => decide (e.2.sent = []))

/-- TINV_START (R315): the entries that meet the range leave their TLBs, and the walks of the partition under way are to be waited for, their results dropped where they meet it, under any ASID. -/
def execTinvStart (sid ord : Nat) (s : State) : Host.Outcome State Fault Refusal :=
  let t := s.strand sid
  match t.cmd ord with
  | none => .next s
  | some c =>
    match c.kind with
    | .tinv asid a n false _ =>
      if !s.works sid || !tinvReady s sid ord then .next s
      else
        let mine := s.dies.flatMap (fun e => (e.2.walks.filter (fun w => decide (w.part = t.part))).map (·.num))
        let s1 := s.setStrand sid (t.modCmd ord (fun c => { c with kind := .tinv asid a n true mine }))
        let s2 := { s1 with dies := s1.dies.map (fun (e : Nat × Die) =>
          (e.1, { e.2 with walks := e.2.walks.map (fun w => if w.part = t.part then { w with ranges := (a, n) :: w.ranges } else w) })) }
        .next (dropTlbs s2 (fun e => e.dropped t.part asid a n))
    | _ => .next s

/-- TINV_COMPLETE (R315): the walks begun before its start have finished. -/
def execTinvComplete (sid ord : Nat) (s : State) : Host.Outcome State Fault Refusal :=
  match (s.strand sid).cmd ord with
  | none => .next s
  | some c =>
    match c.kind with
    | .tinv _ _ _ true walks =>
      if s.works sid && !s.dies.any (fun e => e.2.walks.any (fun w => walks.contains w.num)) then .next (wakeAll (finishCmd s sid c)) else .next s
    | _ => .next s

end Sys2Proof.Machine
end

