-- ==== Sys2Proof/Machine/Copy.lean ====
section
/-! DEFINITION. Copy.lean: CPY, CPGATHER, SORT, OVLD, BCLOSE and WAIT, and the events of the copy engine (R227 to R229, R238 to R260). -/

namespace Sys2Proof.Machine

/-! CPY and CPGATHER. -/

/-- The local counter of a command lies outside the partition's range (R243). -/
def badCounter (s : State) (ctr : Option (BitVec 16 × Bool)) : Bool :=
  match ctr with
  | some (c, false) => !inCounters (s.part s.me.part) c.toNat
  | _ => false

/-- The tags a command takes: its own, and one for its decrement (R326, R328). -/
def ctrTags (ctr : Option (BitVec 16 × Bool)) : Nat := if ctr.isSome then 2 else 1

/-- The class of a command: class C with a counter (R339). -/
def ctrClass (b : Bool) : ICls := if b then .classC else .engine

/-- Bytes of a CPY element. -/
def cpyBytes : CpySize → Nat
  | .b4 => 4
  | .b8 => 8
  | .b16 => 16

/-- A far address (R244). -/
def farAddr (t : Strand) (b : BCode) (sc : SCode) (off : Nat) : W80 := t.base b + (t.s sc).zeroExtend 80 + BitVec.ofNat 80 off

/-- One side of a lane copy: its space or far, and its address. -/
inductive Side
  | near (sp : Space) (a : Nat)
  | far (a : W80)
  | queue
deriving DecidableEq, Repr

/-- A near side of `n` bytes lies outside its space (R168). -/
def Side.outside (s : State) (t : Strand) (n : Nat) : Side → Bool
  | .near sp a => decide (nearSize s t sp false < a + n)
  | _ => false

/-- A side is no multiple of `n`. -/
def Side.crooked (n : Nat) : Side → Bool
  | .near _ a => decide (a % n ≠ 0)
  | .far a => decide (a.toNat % n ≠ 0)
  | .queue => false

/-- The place of a side. -/
def Side.loc (s : State) (t : Strand) : Side → Option Loc
  | .near sp a => some (.near (nearKey s t sp a))
  | .far a => some (.far a)
  | .queue => none

/-- The destination side of a lane (R244). -/
def dstSide (t : Strand) (d : CpyDst) (l : Nat) : Side :=
  match d with
  | .near sp b x => .near sp ((t.s b).toNat + ((t.vec x.toNat).lane l).toNat)
  | .far b sc x => .far (farAddr t b sc ((t.vec x.toNat).lane l).toNat)
  | .queue _ => .queue

/-- The source side of a lane (R244). -/
def srcSide (t : Strand) (c : CpySrc) (y : VCode) (l : Nat) : Side :=
  match c with
  | .near sp b => .near sp ((t.s b).toNat + ((t.vec y.toNat).lane l).toNat)
  | .far b sc => .far (farAddr t b sc ((t.vec y.toNat).lane l).toNat)

/-- ADDR of a CPY's record: the far base, of the source where both sides are far (DESIGN CHOICE, log 88), else the source base (R325). -/
def cpyAddr (t : Strand) (d : CpyDst) (c : CpySrc) : W80 :=
  match c, d with
  | .far b _, _ => t.base b
  | _, .far b _ _ => t.base b
  | .near _ b, _ => (t.s b).zeroExtend 80

/-- CPY (R242 to R244). -/
def execCpy (k : Marks) (size : CpySize) (o : Ordn) (sc : Scope) (dst : CpyDst) (src : CpySrc) (y : VCode) (m : MCode)
    (ctr : Option (BitVec 16 × Bool)) (s : State) : Host.Outcome State Fault Refusal :=
  issue (.cpy k size o sc dst src y m ctr) ⟨k, 0x6C, 4, ctrClass ctr.isSome⟩ s (fun s =>
    let t := s.me
    let i := Instr.cpy k size o sc dst src y m ctr
    let op := operOf i
    let n := cpyBytes size
    let ls := (lanesIn t.ext (t.operMap op)).map (fun l => (l, srcSide t src y l, dstSide t dst l))
    let q : Option Nat := match dst with
      | .queue q => some q.toNat
      | _ => none
    if badCounter s ctr then .trap .illegalOperand 0
    else if t.disc = 2 ∧ t.dropCount op ≠ 0 then .trap .mapDrop (t.dropCount op)
    else match ls.find? (fun e => e.2.1.outside s t n || e.2.2.outside s t n) with
      | some e => .trap .nearBounds e.1
      | none =>
        match ls.find? (fun e => e.2.1.crooked n || e.2.2.crooked n) with
        | some e => .trap .misaligned e.1
        | none =>
          let units := ls.map (fun e => (⟨e.1, e.1, e.2.1.loc s t, e.2.2.loc s t, n, none⟩ : CUnit))
          let c := newCmd s t i (.cpy n q (ctr.map (fun x => (x.1.toNat, x.2)))) o sc (cpyAddr t dst src) units
          enterCopy s (t.countDrop op) { c with readDone := q.isSome && decide (units = []) } (ctrTags ctr) (t.lanesK op))

/-- The source row of a CPGATHER (R249). -/
def rowSide (t : Strand) (g : GatherSrc) (str : SCode) (idx : Nat) : Side :=
  let d := idx * (t.s str).toNat
  match g with
  | .far b sc => .far (farAddr t b sc d)
  | .vault b => .near .vault ((t.s b).toNat + d)
  | .spad b => .near .spad ((t.s b).toNat + d)

/-- A row of CPGATHER: its lane, whether it is clipped, its row number, its destination, its source. -/
structure GRow where
  lane : Nat
  clipped : Bool
  i : Nat
  dst : Nat
  src : Side
deriving DecidableEq, Repr

/-- Bytes further along a side. -/
def Side.plus (x : Side) (n : Nat) : Side :=
  match x with
  | .near sp a => .near sp (a + n)
  | .far a => .far (a + BitVec.ofNat 80 n)
  | .queue => .queue

/-- The chunks of a row: chunk `c` of the source goes to chunk c xor (i mod 16) of the destination (R249). -/
def rowUnits (s : State) (t : Strand) (sp : Space) (w : Nat) (r : GRow) : List CUnit :=
  (List.range (16 * w)).map (fun c =>
    { unit := 256 * r.lane + c, lane := r.lane, src := if r.clipped then none else (r.src.plus (16 * c)).loc s t,
      dst := some (.near (nearKey s t sp (r.dst + 16 * c.xor (r.i % 16)))), len := 16 })

/-- CPGATHER (R248, R249). -/
def execCpgather (k : Marks) (src : GatherSrc) (o : Ordn) (sc : Scope) (sp : Space) (x : SCode) (y : VCode) (z str ro : SCode) (wl : BitVec 4)
    (m : MCode) (ctr : Option (BitVec 16)) (s : State) : Host.Outcome State Fault Refusal :=
  issue (.cpgather k src o sc sp x y z str ro wl m ctr) ⟨k, 0x6D, 4, ctrClass ctr.isSome⟩ s (fun s =>
    let t := s.me
    let i := Instr.cpgather k src o sc sp x y z str ro wl m ctr
    let op := operOf i
    let w := wl.toNat + 1
    let rb := 256 * w
    let c2 := ctr.map (fun c => (c, false))
    let row (l : Nat) : GRow :=
      let idx := ((t.vec y.toNat).lane l).toNat
      let i := (t.s ro).toNat + l
      { lane := l, clipped := decide ((t.s z).toNat ≤ idx), i := i, dst := (t.s x).toNat + i * rb, src := rowSide t src str idx }
    let rows := (lanesIn t.ext (t.operMap op)).map row
    let size := nearSize s t sp false
    if badCounter s c2 then .trap .illegalOperand 0
    else match rows.find? (fun r => decide (size < r.dst + rb) || (!r.clipped && r.src.outside s t rb)) with
      | some r => .trap .nearBounds r.lane
      | none =>
        match rows.find? (fun r => decide (r.dst % 16 ≠ 0) || (!r.clipped && r.src.crooked 16)) with
        | some r => .trap .misaligned r.lane
        | none =>
          if (t.s x).toNat % 16 ≠ 0 ∨ (t.s str).toNat % 16 ≠ 0 then .trap .misaligned 0
          else
            let addr : W80 := match src with
              | .far b _ => t.base b
              | .vault b | .spad b => (t.s b).zeroExtend 80
            let c := newCmd s t i (.gather (ctr.map (·.toNat))) o sc addr (rows.flatMap (rowUnits s t sp w))
            enterCopy s t c (ctrTags c2) (t.lanesK op))

/-! SORT. -/

/-- Two ranges of bytes share one; an empty range shares none. -/
def meets (a la b lb : Nat) : Bool := decide (0 < la) && decide (0 < lb) && overlap a la b lb

/-- SORT (R250, R251). -/
def execSort (k : Marks) (o : Ordn) (sc : Scope) (sp : Space) (x y z tb : SCode) (km1 : BitVec 16) (s : State) : Host.Outcome State Fault Refusal :=
  issue (.sort k o sc sp x y z tb km1) ⟨k, 0x7A, 3, .engine⟩ s (fun s =>
    let t := s.me
    let n := (t.s z).toNat
    let kn := km1.toNat + 1
    let sd := (t.s x).toNat
    let ss := (t.s y).toNat
    let st := (t.s tb).toNat
    let size := nearSize s t sp false
    let regs := ((if n = 0 then [] else [(ss, 4 * n), (sd, 4 * n)]) ++ [(st, 8 * kn)] : List (Nat × Nat))
    if 65536 < n ∨ (sd ≠ ss ∧ meets sd (4 * n) ss (4 * n) = true) ∨ meets st (8 * kn) sd (4 * n) = true ∨ meets st (8 * kn) ss (4 * n) = true then
      .trap .illegalOperand 0
    else if regs.any (fun r => decide (size < r.1 + r.2)) then .trap .nearBounds 0
    else if regs.any (fun r => decide (r.1 % 4 ≠ 0)) then .trap .misaligned 0
    else
      let key (a : Nat) : Nat := nearKey s t sp a
      let pair (j : Nat) : CUnit := { unit := j, lane := 0, src := some (.near (key (ss + 4 * j))), dst := none, len := 4 }
      enterCopy s t (newCmd s t (.sort k o sc sp x y z tb km1) (.sort (key ss) (key sd) (key st) n kn) o sc ((t.s y).zeroExtend 80)
        ((List.range n).map pair)) 1 1)

/-- A pair put into a list ordered by key, before those of an equal key that came after it. -/
def insertPair (p : W32) : List W32 → List W32
  | [] => [p]
  | a :: r => if p.toNat / 2 ^ 16 ≤ a.toNat / 2 ^ 16 then p :: a :: r else a :: insertPair p r

/-- Pairs sorted by key, equal keys in source order (R251). -/
def sortPairs (l : List W32) : List W32 := l.foldr insertPair []

/-- cnt of R251. -/
def keyCounts (l : List W32) (k : Nat) : List Nat :=
  (List.range k).map (fun i => (l.filter (fun p => decide (p.toNat / 2 ^ 16 = i))).length)

/-- Sums of the elements before each one. -/
def prefixSums : Nat → List Nat → List Nat
  | _, [] => []
  | a, x :: r => a :: prefixSums (a + x) r

/-! The order of writes (R257). -/

/-- Two places share a byte; far ones are compared by their far virtual addresses (DESIGN CHOICE, log 64). -/
def locMeets (a : Option Loc) (n : Nat) (b : Option Loc) (m : Nat) : Bool :=
  match a, b with
  | some (.near x), some (.near y) => overlap x n y m
  | some (.far x), some (.far y) => overlap x.toNat n y.toNat m
  | _, _ => false

/-- The places a pending command still writes. -/
def Cmd.writes (c : Cmd) : List (Option Loc × Nat) :=
  let units := c.units.map (fun x => (x.dst, x.len))
  match c.kind with
  | .sort _ d tb n k => if c.readDone then units else [(some (.near d), 4 * n), (some (.near tb), 8 * k)]
  | .cpy _ _ _ | .gather _ => units
  | _ => []

/-- An earlier command of the strand still writes a byte of a place. -/
def earlierWrites (t : Strand) (ord : Nat) (d : Option Loc) (n : Nat) : Bool :=
  t.copy.cmds.any (fun c => decide (c.ord < ord) && c.writes.any (fun w => locMeets w.1 w.2 d n))

/-! Transfers (R244 to R246, R249). -/

/-- The 256-byte block of a place. -/
def locBlock : Option Loc → Option (Bool × Nat)
  | some (.near k) => some (false, k / 256)
  | some (.far a) => some (true, a.toNat / 256)
  | none => none

/-- The bytes that a unit writes, once they are there: those read, the sorted pair or table word, or the zeros of a clipped row. -/
def CUnit.bytes (x : CUnit) : Option (List Byte) :=
  match x.src, x.dat with
  | _, some b => some b
  | none, none => some (List.replicate x.len 0)
  | some _, none => none

/-- Two units have their sources in one block and their destinations in one block (R245). -/
def CUnit.joins (x y : CUnit) : Bool := decide (locBlock x.src = locBlock y.src) && decide (locBlock x.dst = locBlock y.dst)

/-- The highest lane or row that a command still has to write, or the last table word of a SORT. -/
def Cmd.top (c : Cmd) : Nat := c.units.foldl (fun a x => Nat.max a x.lane) 0

/-- A unit of a command may be written together with those of `g`: earlier commands have written its bytes and so have the lower units, and as the last write of a release it follows the others once they are performed, and all that the release covers (R191, R244, R249, R257). -/
def writable (s : State) (u : Nat) (c : Cmd) (g : CUnit → Bool) (x : CUnit) : Bool :=
  !earlierWrites (s.strand u) c.ord x.dst x.len
    && c.units.all (fun y => g y || decide (x.unit ≤ y.unit) || !locMeets y.dst y.len x.dst x.len)
    && (!Ordn.isRel c.o || decide (x.lane ≠ c.top)
      || (c.units.all (fun y => decide (y.lane = c.top)) && engineDone s u c.ord c.sc && engineReleases s u c.ord))

/-- Units of a command that one event may transfer, the first of them given: to read, those of CPY or CPGATHER that share their blocks; to write, lanes of CPY that share theirs, chunks of a row that is read, or words of a SORT that is; any number of them, since each is an access of its own, and the read and the write of a lane are two (R169, R245, R249, R384). -/
def transferable (s : State) (u : Nat) (c : Cmd) (us : List CUnit) (x : CUnit) : Bool :=
  let reads : Bool := us.all (fun y => y.bytes.isNone && x.joins y)
  let writes : Bool := us.all (fun y => y.bytes.isSome && writable s u c us.contains y)
  match c.kind with
  | .cpy _ _ _ => if x.bytes.isNone then reads else writes && us.all (fun y => x.joins y)
  | .gather _ =>
    if x.bytes.isNone then reads
    else writes && us.all (fun y => decide (y.lane = x.lane)) && c.units.all (fun y => decide (y.lane ≠ x.lane) || y.bytes.isSome)
  | .sort _ _ _ _ _ => c.readDone && writes
  | _ => false

/-- The far address of a transfer's side. -/
def farOf (l : Option (Option Loc)) : Option W80 :=
  match l with
  | some (some (.far a)) => some a
  | _ => none

/-- A side translated, if it is far: the state, and the entry when it is there. The third value says that the side still waits. -/
def translateSide (s : State) (u ord : Nat) (a : Option W80) : State × Option Tlb × Bool :=
  match a with
  | none => (s, none, false)
  | some a => let (s, e) := translate s u ord a
              (s, e, e.isNone)

/-- An entry with PEER backing. -/
def peerOf (e : Option Tlb) : Option Nat := e.bind (fun e => if eBk e.leaf = 2 then some (ePeer e.leaf) else none)

/-- The bytes that units cover. -/
def unitsLen (us : List CUnit) : Nat := sumOf (fun (x : CUnit) => x.len) us

/-- The message of `n` bytes of a far side of a transfer carried. -/
def carrySide (s : State) (u : Nat) (c : Cmd) (e : Option Tlb) (a : Option W80) (n : Nat) : State :=
  match e, a with
  | some e, some a => s.carryFar (s.strand u).part (dieOf (s.strand u).core) e a c.cls n
  | _, _ => s

/-- The bytes a unit reads: zeros, near or far bytes, or those of the peer's answer from `at_` on. -/
def readUnit (s : State) (c : Nat) (e : Option Tlb) (peer : List Byte) (at_ : Nat) (x : CUnit) : List Byte :=
  match x.src, e with
  | some (.near k), _ => coreRead s c k x.len
  | some (.far a), some e => if eBk e.leaf = 2 then (List.range x.len).map (fun i => peer.getD (at_ + i) 0) else farRead s.mem e a x.len
  | _, _ => List.replicate x.len 0

/-- The units of a transfer with the bytes they read. -/
def readUnits (s : State) (c : Nat) (e : Option Tlb) (peer : List Byte) (us : List CUnit) : List (CUnit × List Byte) :=
  us.zipIdx.map (fun x => (x.1, readUnit s c e peer (unitsLen (us.take x.2)) x.1))

/-- What the near writes of a command carry. -/
def Cmd.entry (c : Cmd) : SEntry := engineEntry c.ord c.tag c.sc c.pc c.cls

/-- The bytes of a unit on their way to its destination: near ones to their ordering point, far ones to the pool or to a peer. -/
def writeUnit (s : State) (u : Nat) (c : Cmd) (e : Option Tlb) (x : CUnit) (b : List Byte) : State :=
  let t := s.strand u
  match x.dst, e with
  | some (.near k), _ => engineSend s u c.entry x.unit k b
  | some (.far a), some e =>
    if eBk e.leaf = 2 then
      let link := Config.peerLink t.part (dieOf t.core) (ePeer e.leaf)
      { s with peerOut := .write t.part (ePeer e.leaf) (physOf e a) b c.tag x.unit (s.linkClass t.part link c.cls) :: s.peerOut }
    else { s with mem := farWrite s.mem e a b }
  | _, _ => s

/-- The error of one side of a transfer (R246): 1 where its leaf forbids the access, 4 where a peer does not answer, 0 none. -/
def sideError (may : Tlb → Bool) (e : Option Tlb) (peer : Option (List Byte)) : Nat :=
  match e with
  | none => 0
  | some e => if !may e then 1 else if eBk e.leaf = 2 && peer.isNone then 4 else 0

/-- The lanes of a transfer that fail, with the first error: all of them, or those whose data are poisoned. -/
def lostLanes (us : List CUnit) (code : Nat) (poison : List Nat) : List Nat × Nat :=
  if code ≠ 0 then (us.map (·.lane), code)
  else
    let bad := us.filter (fun x => poison.contains x.unit)
    (bad.map (·.lane), if bad = [] then 0 else 3)

/-- The reading of a transfer counted in the copy-TLB entry of its source page: when no unread unit is left that joins it (R313). -/
def countRead (s : State) (u : Nat) (c : Cmd) (us : List CUnit) : State :=
  match us with
  | [] => s
  | x :: _ =>
    match x.src with
    | some (.far a) =>
      if c.units.any (fun y => y.bytes.isNone && x.joins y && !us.contains y) then s
      else
        let t := s.strand u
        let k := s.core t.core
        s.setCore t.core { k with tlb := countHot k.tlb t.part (s.part t.part).rcd.casid [vpnOf a] }
    | _ => s

/-- The writing of a transfer counted in the copy-TLB entry of its destination page: when no unit is left that joins it, unless the entry translates its source too, where it has counted (R313). -/
def countWrite (s : State) (u : Nat) (c : Cmd) (us : List CUnit) : State :=
  match us with
  | [] => s
  | x :: _ =>
    match x.dst with
    | some (.far a) =>
      let t := s.strand u
      let k := s.core t.core
      let at_ (b : W80) : Option Nat := k.tlb.findIdx? (fun e => e.hits t.part (s.part t.part).rcd.casid (vpnOf b))
      let both : Bool := match x.src with
        | some (.far b) => decide (at_ b = at_ a)
        | _ => false
      if both || c.units.any (fun y => x.joins y && !us.contains y) then s
      else s.setCore t.core { k with tlb := countHot k.tlb t.part (s.part t.part).rcd.casid [vpnOf a] }
    | _ => s

/-- The units of a command with the bytes that some of them have read. -/
def withData (units : List CUnit) (data : List (CUnit × List Byte)) : List CUnit :=
  units.map (fun x => { x with dat := x.dat.orElse (fun _ => (data.find? (fun e => decide (e.1 = x))).map (·.2)) })

/-- A command with an error marked, if there is one. -/
def Strand.mark (t : Strand) (c : Cmd) (code : Nat) : Strand := if code = 0 then t else t.copyError c.batch code

/-- A command after some of its units have read their bytes: a lane or row lost to an error is not performed, and a queue form keeps its lanes apart, done (R240, R246, R249). -/
def Cmd.took (c : Cmd) (lost : List Nat) (data : List (CUnit × List Byte)) : Cmd :=
  let left := c.units.filter (fun x => !lost.contains x.lane)
  match c.kind with
  | .cpy _ (some _) _ =>
    { c with
      started := true
      units := left.filter (fun x => !data.any (fun e => decide (e.1 = x)))
      arrived := (data.filter (fun e => !lost.contains e.1.lane)).foldl (fun v e => Tbl.ins e.1.lane (BitVec.ofNat 32 (ofBytes e.2)) v) c.arrived }
  | _ => { c with started := true, units := withData left data }

/-- Lanes of CPY or chunks of CPGATHER read; a row that meets an error loses all its chunks, and nothing of it is written (R246, R249). -/
def readRows (s : State) (u : Nat) (c : Cmd) (us : List CUnit) (es : Option Tlb) (poison : List Nat) (peer : Option (List Byte)) : State :=
  let (lost, code) := lostLanes us (sideError (fun e => eRd e.leaf) es peer) poison
  let data := readUnits s (s.strand u).core es (peer.getD []) us
  let s1 := carrySide (carryReads s u c us) u c es (farOf (us.head?.map (·.src))) (unitsLen us)
  let t := ((s1.strand u).mark c code).modCmd c.ord (fun c => c.took lost data)
  settle (countRead (s1.setStrand u t) u c us) u c.ord

/-- The peers that a command's destinations have met, with that of one more transfer. -/
def peersMet (l : List (Option Nat)) (e : Option Tlb) : List (Option Nat) :=
  match e with
  | some e => l ++ [if eBk e.leaf = 2 then some (ePeer e.leaf) else none]
  | none => l

/-- The units of a command whose bytes are there written in ascending order, or lost to an error of their destination; a clipped row is counted (R246, R249, R252). -/
def writeUnits (s : State) (u : Nat) (c : Cmd) (us : List CUnit) (ed : Option Tlb) (peer : Option (List Byte)) : State :=
  let code := sideError (fun e => eW e.leaf) ed peer
  let s1 := if code ≠ 0 then s else us.foldl (fun s x => writeUnit s u c ed x (x.bytes.getD [])) s
  let s2 := carrySide s1 u c ed (farOf (us.head?.map (·.dst))) (unitsLen us)
  let rows := match c.kind with
    | .gather _ => (us.filter (fun x => decide (x.src = none) && decide (x.unit % 256 = 0))).length
    | _ => 0
  let t := (((s2.strand u).mark c code).clip c.batch rows).modCmd c.ord (fun c =>
    { c with units := c.units.filter (fun x => !us.contains x), started := true, peers := peersMet c.peers ed })
  settle (countWrite (s2.setStrand u t) u c us) u c.ord

/-- COPY_TRANSFER (R245): enabled on units that form one transfer once the strand's earlier stores are performed: units not yet read are read, units that are read are written; a page not yet translated is walked for first. -/
def execCopyTransfer (sid ord : Nat) (units poison : List Nat) (peer : Option (List Byte)) (s : State) : Host.Outcome State Fault Refusal :=
  let t := s.strand sid
  match t.cmd ord with
  | none => .next s
  | some c =>
    let us := c.units.filter (fun x => units.contains x.unit)
    if !s.works sid || !engineReady s sid ord c.o then .next s
    else match us, c.kind with
      | [], .cpy _ _ _ | [], .gather _ | [], .sort _ _ _ _ _ => if c.units = [] then .next (wakeAll (settle s sid ord)) else .next s
      | x :: r, .cpy _ _ _ | x :: r, .gather _ | x :: r, .sort _ _ _ _ _ =>
        if !transferable s sid c (x :: r) x then .next s
        else
          let (s1, e, waits) := translateSide s sid ord (farOf (some (if x.bytes.isNone then x.src else x.dst)))
          if waits then .next s1
          else .next (wakeAll (if x.bytes.isNone then readRows s1 sid c us e poison peer else writeUnits s1 sid c us e peer))
      | _, _ => .next s

/-- The units of a SORT once its pairs are read: the sorted pairs, then the table; the last word of the table is the write that carries a release (R251, R257, R328). -/
def sortUnits (pairs : List W32) (dst tb k : Nat) : List CUnit :=
  let cnt := keyCounts pairs k
  let unit (n key v top : Nat) : CUnit := { unit := n, lane := top, src := none, dst := some (.near key), len := 4, dat := some (toBytes 4 v) }
  ((sortPairs pairs).zipIdx.map (fun e => unit e.2 (dst + 4 * e.2) e.1.toNat 0))
    ++ (cnt ++ prefixSums 0 cnt).zipIdx.map (fun e => unit (65536 + e.2) (tb + 4 * e.2) e.1 (if e.2 = 2 * k - 1 then 1 else 0))

/-- Near units of a command read: their bytes, and the accesses carried. -/
def readNear (s : State) (u : Nat) (c : Cmd) (us : List CUnit) : State :=
  let s1 := carryReads s u c us
  s1.setStrand u ((s1.strand u).modCmd c.ord (fun c => { c with units := withData c.units (readUnits s (s.strand u).core none [] us), started := true }))

/-- The pairs of a SORT once all are read. -/
def pairsOf (us : List CUnit) : Option (List W32) :=
  if us.all (fun x => x.dat.isSome) then some (us.map (fun x => BitVec.ofNat 32 (ofBytes (x.dat.getD [])))) else none

/-- A SORT whose pairs are all read turns to its writes (R251). -/
def sortRead (s : State) (u ord : Nat) : State :=
  match (s.strand u).cmd ord with
  | none => s
  | some c =>
    match c.kind, pairsOf c.units with
    | .sort _ dst tb _ k, some pairs =>
      settle (s.setStrand u ((s.strand u).modCmd ord (fun c => { c with readDone := true, started := true, units := sortUnits pairs dst tb k }))) u ord
    | _, _ => s

/-- SORT_COMPLETE (R251): the pairs named are read, and the last of them sorts; after that all that may be written is; an uncorrectable error in the pairs marks the batch and nothing is written (R246; DESIGN CHOICE, log 68). -/
def execSortComplete (sid : Nat) (x : SortEnd) (s : State) : Host.Outcome State Fault Refusal :=
  let t := s.strand sid
  match t.cmd x.ord with
  | none => .next s
  | some c =>
    match c.kind with
    | .sort _ _ _ _ _ =>
      if !s.works sid || !engineReady s sid x.ord c.o then .next s
      else if c.readDone then .next (wakeAll (writeUnits s sid c (c.units.filter (writable s sid c (fun _ => true))) none none))
      else if x.poison then .next (wakeAll (finishCmd (s.setStrand sid (t.copyError c.batch 3)) sid c))
      else .next (wakeAll (sortRead (readNear s sid c (c.units.filter (fun y => x.pairs.contains y.unit && y.dat.isNone))) sid x.ord))
    | _ => .next s

/-! Queue registers and restored registers. -/

/-- What the instruction that the strand waits to issue keeps in the operand store (R78). -/
def Strand.keeps (t : Strand) : List Nat :=
  match t.life with
  | .parked (.restore _ keep) => keep
  | _ => []

/-- An entry pushed onto a queue register with room for it (R60, R240). -/
def Strand.pushQ (t : Strand) (q : Nat) (v : VReg) : Option Strand :=
  let cur := Tbl.get [] t.q q
  if 8 ≤ cur.length ∨ t.life.live = false then none
  else match t.makeRoom t.keeps [] (pegsOf v.length) (t.mapBytes v.map) with
    | .ok t' => some { t' with q := Tbl.set [] t'.q q (cur ++ [v]) }
    | _ => none

/-- The entry pushed onto the queue of a strand, and of its shadow alike (R370). -/
def pushBoth (s : State) (u q : Nat) (v : VReg) : Option State :=
  let t := s.strand u
  match t.pushQ q v with
  | none => none
  | some t' =>
    match t.shadow, t.twin with
    | false, some w => ((s.strand w).pushQ q v).map (fun x => (s.setEvicting u t').setEvicting w x)
    | _, _ => some (s.setEvicting u t')

/-- Q_ENTRY_READY (R240): the first reserved entry of the queue becomes readable once its lanes are done and there is room for it; the command of a strand that has ended completes without it (R155, R322). -/
def execQEntryReady (sid q : Nat) (s : State) : Host.Outcome State Fault Refusal :=
  match (s.strand sid).copy.cmds.find? (fun c => decide (c.queue = some q)) with
  | none => .next s
  | some c =>
    if !c.readDone || !s.works sid || !counterReady s sid c then .next s
    else if !(s.strand sid).life.live then .next (wakeAll (finishCmd s sid c))
    else match pushBoth s sid q c.arrived with
      | some s' => .next (wakeAll (finishCmd s' sid c))
      | none => .next s

/-- REGISTER_RESTORED (R78): room is made for all that the instruction waits for, and the register is back; where no room is left, the instruction issues and R80 decides. -/
def execRegisterRestored (sid reg : Nat) (s : State) : Host.Outcome State Fault Refusal :=
  let t := s.strand sid
  match t.life with
  | .parked (.restore l keep) =>
    if l.contains reg && t.evicted.contains reg then
      let back := l.filter (fun r => t.evicted.contains r)
      match t.restoreRoom keep back with
      | .ok t' => .next (wakeOne ((s.carryBacking t [reg]).setEvicting sid { t' with evicted := back.filter (· ≠ reg) ++ t'.evicted }) sid)
      | .wait => .next s
      | .full => .next (s.makeReady sid)
    else .next s
  | _ => .next s

/-! Batches (R253, R255). -/

/-- The status ring at the close of batch `n`: its place takes what its commands have met (R253). -/
def closeRing (st : Tbl W64) (n : W32) : Tbl W64 := Tbl.set 0 (Tbl.set 0 st (n.toNat % 64) (Tbl.get 0 st 64)) 64 0

/-- BCLOSE (R253). -/
def execBclose (k : Marks) (mx : Bool) (x : SCode) (s : State) : Host.Outcome State Fault Refusal :=
  issue (.bclose k mx x) ⟨k, 0x6E, 2, .plain⟩ s (fun s =>
    let t := s.me
    let n := nextBatch (if mx then t.mx.mxbatch else t.copy.cpbatch)
    let vdone := if mx then t.mx.vdone else t.copy.vdone
    if !atOrBefore (n - 64) vdone then .stall
    else
      let t := t.setS x (n.zeroExtend 64)
      if mx then
        let cmds := t.mx.cmds.map (fun c => if c.batch = none then { c with batch := some n } else c)
        .done (s.setMe { t with mx := { t.mx with cmds := cmds, mxbatch := n, st := closeRing t.mx.st n }.advance }) 1
      else
        let cmds := t.copy.cmds.map (fun c => if c.batch = none then { c with batch := some n } else c)
        .done (s.setMe { t with copy := { t.copy with cmds := cmds, cpbatch := n, st := closeRing t.copy.st n }.advance }) 1)

/-- WAIT (R255). -/
def execWait (k : Marks) (vis mx trp : Bool) (x y : SCode) (s : State) : Host.Outcome State Fault Refusal :=
  issue (.wait k vis mx trp x y) ⟨k, 0x6F, 2, .plain⟩ s (fun s =>
    let t := s.me
    let n : W32 := (t.s y).extractLsb' 0 32
    if mx && t.mx.rst then .trap .engineReset (n.toNat % 2 ^ 24)
    else if n = 0 ∨ atOrBefore n (waitLast t mx) = false then .trap .illegalOperand 0
    else if batchOver s t vis mx n then
      let t := t.waited s vis
      let st := bothStatus s t mx n
      match waitFault trp mx st with
      | some c => .gone (takeFault (s.setMe { t with batchstat := st }) s.cur c (n.toNat % 2 ^ 24) t.pc t.pc)
      | none => .done (s.setMe { t.setS x st with batchstat := st }) 1
    else .after s (.wait vis mx trp x n t.pc) 1)

/-! OVLD (R227 to R229). -/

/-- OVLD (R228): the takeover at issue, or a refusal recorded in the batch status. -/
def execOvld (k : Marks) (src : OvldSrc) (o : Ordn) (sc : Scope) (y z ss : SCode) (slot : BitVec 6) (idi : BitVec 24) (cnt : BitVec 4) (s : State) :
    Host.Outcome State Fault Refusal :=
  issue (.ovld k src o sc y z ss slot idi cnt) ⟨k, 0x70, 4, .engine⟩ s (fun s =>
    let t := s.me
    let i := Instr.ovld k src o sc y z ss slot idi cnt
    let id := (t.s z).toNat + idi.toNat
    let j := (t.s ss).toNat + slot.toNat
    let n := cnt.toNat + 1
    let a : W80 := match src with
      | .far b => t.base b + (t.s y).zeroExtend 80
      | .vault => (t.s y).zeroExtend 80
    let loc (i : Nat) : Loc := match src with
      | .far _ => .far (a + BitVec.ofNat 80 i)
      | .vault => .near (windowKey (s.part t.part) (a.toNat + i))
    let outside : Bool := match src with
      | .far _ => false
      | .vault => decide (windowSize (s.part t.part) < a.toNat + 4096 * n)
    let chunk (i : Nat) : CUnit := { unit := i, lane := 0, src := some (loc (16 * i)), dst := none, len := 16 }
    if id = 0 ∨ 2 ^ 24 ≤ id ∨ j = 0 ∨ 64 < j + n then .trap .illegalOperand 0
    else if a.toNat % 256 ≠ 0 then .trap .misaligned 0
    else if outside then .trap .nearBounds 0
    else
      let ov : BitVec 24 := BitVec.ofNat 24 id
      let c := s.core t.core
      if Config.copyChannelLen ≤ t.copy.cmds.length then .stall
      else if !c.canTake ov j n then
        let st := Tbl.get 0 t.copy.st 64
        .done (useTag (s.setMe { t with copy := { t.copy with st := Tbl.set 0 t.copy.st 64 (st ||| 2) } }) t) 1
      else
        let c' := c.takeover ov j n
        enterCopy (wakeFetch (s.setCore t.core c') t.core) t (newCmd s t i (.ovld j n (c'.gens j n)) o sc a ((List.range (256 * n)).map chunk)) 1 1)

/-- The overlay of a braced primary loaded on its shadow's core as well (R370, DESIGN CHOICE, log 60). -/
def twinLoad (s : State) (t : Strand) (id : BitVec 24) (j n : Nat) (bytes : Nat → List Byte) : State :=
  match t.twin with
  | none => s
  | some w =>
    let k := (s.strand w).core
    let c := s.core k
    if c.canTake id j n then
      let c' := c.takeover id j n
      finishLoad (s.setCore k c') k j n (c'.gens j n) bytes
    else s

/-- The bytes of an overlay load given to the cores that take them. -/
def giveLoad (s : State) (t : Strand) (j n : Nat) (gens : List (BitVec 16)) (bytes : Nat → List Byte) : State :=
  let id := ((s.core t.core).slot j).ovid
  twinLoad (finishLoad s t.core j n gens bytes) t id j n bytes

/-- The error that an overlay load meets in a transfer of its source (R229, R246): 1 where the leaf forbids the read or the code, 4 where a peer does not answer, 3 for poison, 0 none. -/
def ovldError (e : Option Tlb) (x : OvldPart) : Nat :=
  match sideError (fun e => eX e.leaf && eRd e.leaf) e x.peer with
  | 0 => if x.poison then 3 else 0
  | n => n

/-- An overlay load whose chunks are all read fills its slots and ends (R228), once its release may be made (R191). -/
def ovldRead (s : State) (u ord : Nat) : State :=
  match (s.strand u).cmd ord with
  | none => s
  | some c =>
    match c.kind with
    | .ovld j n gens =>
      if c.units.all (fun y => y.dat.isSome) && (!Ordn.isRel c.o || engineReleases s u ord) then
        finishCmd (giveLoad s (s.strand u) j n gens (fun k => ((c.units.drop (256 * k)).take 256).flatMap (fun y => y.dat.getD []))) u c
      else s
    | _ => s

/-- OVLD_COMPLETE (R228, R229, R310): the chunks named are read, those of one block, and with the last one every slot is LOADED; an error ends the load and leaves the slots LOADING. -/
def execOvldComplete (sid ord : Nat) (x : OvldPart) (s : State) : Host.Outcome State Fault Refusal :=
  match (s.strand sid).cmd ord with
  | none => .next s
  | some c =>
    match c.kind, c.units.filter (fun y => x.chunks.contains y.unit && y.dat.isNone) with
    | .ovld _ _ _, [] => if s.works sid then .next (wakeAll (ovldRead s sid ord)) else .next s
    | .ovld _ _ _, y :: r =>
      if !s.works sid || !engineReady s sid ord c.o || !r.all y.joins then .next s
      else
        let (s1, e, waits) := translateSide s sid ord (farOf (some y.src))
        if waits then .next s1
        else
          let s2 := countRead (carrySide (carryReads s1 sid c (y :: r)) sid c e (farOf (some y.src)) (unitsLen (y :: r))) sid c (y :: r)
          let code := ovldError e x
          if code ≠ 0 then .next (wakeAll (finishCmd (s2.setStrand sid ((s2.strand sid).copyError c.batch code)) sid c))
          else
            let data := readUnits s1 (s.strand sid).core e (x.peer.getD []) (y :: r)
            let t := (s2.strand sid).modCmd ord (fun c => { c with units := withData c.units data, started := true })
            .next (wakeAll (ovldRead (s2.setStrand sid t) sid ord))
    | _, _ => .next s

end Sys2Proof.Machine
end

