-- ==== Sys2Proof/Machine/Expert.lean ====
section
/-! DEFINITION. Expert.lean: XDISP, XPULL, XCTL, XBIAS and the events of the expert residency table (R284 to R302). -/

namespace Sys2Proof.Machine

/-- A key with high bits (R296, R298). -/
def wideKey (v : W64) : Bool := decide (v.extractLsb' 32 32 ≠ 0)

/-- The low 32 bits. -/
def low32 (v : W64) : W32 := v.extractLsb' 0 32

/-- The issuing strand's partition. -/
def State.myPart (s : State) : Part := s.part s.me.part

/-- A step of the ERT of the issuing strand's partition, with a status for a scalar. -/
def ertAct (s : State) (x : SCode) (r : Part × Nat) : Res :=
  .done ((s.setPart s.me.part r.1).setMe (s.me.setS x (BitVec.ofNat 64 r.2))) 1

/-- XDISP (R296). -/
def execXdisp (k : Marks) (o : Ordn) (sc : Scope) (x y z c : SCode) (s : State) : Host.Outcome State Fault Refusal :=
  issue (.xdisp k o sc x y z c) ⟨k, 0x7B, 2, .classC⟩ s (fun s =>
    let t := s.me
    let count := (t.s c).toNat
    if wideKey (t.s y) || wideKey (t.s z) || decide (65536 < count) then .trap .illegalOperand 0
    else if !performedBefore s s.cur t.ord .device then .stall
    else if count = 0 then .done (s.setMe (t.setS x 0)) 1
    else ertAct s x (s.myPart.dispatch (low32 (t.s y)) (low32 (t.s z)) count o sc))

/-- XPULL (R297): its scalars are zeroed at issue, and the strand parks until its pop. -/
def execXpull (k : Marks) (x y z a : SCode) (s : State) : Host.Outcome State Fault Refusal :=
  issue (.xpull k x y z a) ⟨k, 0x7C, 2, .classC⟩ s (fun s =>
    let t := s.me
    if t.returnsFull then .stall
    else
      let t' := (((t.setS x 0).setS y 0).setS z 0).setS a 0
      let r : Ret := { ord := t.ord, kind := .xpull, dest := 0, wide := false, ty := .b32, dests := [x, y, z, a],
                       units := (List.range 4).map (fun i => { lane := i, key := 0, off := 0, val := none }),
                       tag := nextTag s t, addr := 0, insn := firstWord (.xpull k x y z a), pc := t.pc.bits, cls := s.classOf t }
      let p := s.myPart
      let s' := (s.setPart t.part { p with pulls := p.pulls ++ [s.cur] }).setMe { t' with rets := t'.rets ++ [r] }
      .after (useTag s' t) (.xpull t.ord) 1)

/-- An XCTL variant that waits: its operand fault, then the wait, then its step (R298). -/
def xctl (s : State) (x : SCode) (bad : Bool) (f : Part → Part × Nat) : Res :=
  if bad then .trap .illegalOperand 0
  else if !performedBefore s s.cur s.me.ord .device then .stall
  else ertAct s x (f s.myPart.ertStep)

/-- A step on the entry of a key: NOKEY without one (R295). -/
def withKey (key : W64) (f : Part → Nat → Ert → Part × Nat) (p : Part) : Part × Nat :=
  match p.findKey (low32 key) with
  | none => (p, 4)
  | some e => f p e (p.entry e)

/-- XCTL.setbias (R298). -/
def execXctlSetbias (k : Marks) (x y z : SCode) (s : State) : Host.Outcome State Fault Refusal :=
  issue (.xctlSetbias k x y z) ⟨k, 0x7D, 2, .classC⟩ s (fun s =>
    let v := low32 (s.me.s z)
    xctl s x (wideKey (s.me.s y)) (withKey (s.me.s y) (fun p e n =>
      (p.setEntry e (if p.sel then { n with biasA := v } else { n with biasB := v }), 0))))

/-- XCTL.flip (R298). -/
def execXctlFlip (k : Marks) (x : SCode) (s : State) : Host.Outcome State Fault Refusal :=
  issue (.xctlFlip k x) ⟨k, 0x7D, 2, .classC⟩ s (fun s =>
    xctl s x false (fun p => ({ p with sel := !p.sel }, if p.sel then 0 else 1)))

/-- XCTL.snap (R298). -/
def execXctlSnap (k : Marks) (sp : Space) (y z : SCode) (n : BitVec 10) (s : State) : Host.Outcome State Fault Refusal :=
  issue (.xctlSnap k sp y z n) ⟨k, 0x7D, 2, .classC⟩ s (fun s =>
    let t := s.me
    let a := nearAddr t y 0 0
    let len := 4 * (n.toNat + 1)
    match nearCheck (nearSize s t sp false) len 4 [(0, a)] with
    | some (c, _) => .trap c 0
    | none =>
      if wideKey (t.s z) then .trap .illegalOperand 0
      else
        let e := storeEntry s (.xctlSnap k sp y z n) .rlx .strand 11 (BitVec.ofInt 80 a) 0 []
        enter s t { e with kind := .snap ((List.range (n.toNat + 1)).map (fun i => nearKey s t sp (a.toNat + 4 * i))) (low32 (t.s z)) } 1)

/-- XCTL.repl (R291, R293, R298). -/
def execXctlRepl (k : Marks) (x y z : SCode) (s : State) : Host.Outcome State Fault Refusal :=
  issue (.xctlRepl k x y z) ⟨k, 0x7D, 2, .classC⟩ s (fun s =>
    let core := (s.me.s z).toNat
    xctl s x (wideKey (s.me.s y) || !(coresOf s.myPart.rcd.clm).contains core) (withKey (s.me.s y) (fun p e n =>
      if n.st ≠ .resident ∧ n.st ≠ .pinned then (p, 5)
      else if n.rv || n.rbusy then (p, 6)
      else match p.replicaFrame core with
        | some o => (p.setEntry e { n with rbusy := true, rcopy := o }, 0)
        | none => (p, 7))))

/-- XCTL.pin (R291). -/
def execXctlPin (k : Marks) (x y : SCode) (pin : Bool) (s : State) : Host.Outcome State Fault Refusal :=
  issue (.xctlPin k x y pin) ⟨k, 0x7D, 2, .classC⟩ s (fun s =>
    xctl s x (wideKey (s.me.s y)) (withKey (s.me.s y) (fun p e n =>
      match n.st, pin with
      | .resident, true => (p.setEntry e { n with st := .pinned }, 0)
      | .pinned, true => (p, 6)
      | .resident, false => (p.setEntry e { n with pinreq := false }, 6)
      | .pinned, false => ((p.setEntry e { n with st := .resident }).granted, 0)
      | _, b => (p.setEntry e { n with pinreq := b }, if n.pinreq = b then 6 else 0))))

/-- XCTL.evict (R291). -/
def execXctlEvict (k : Marks) (x y : SCode) (s : State) : Host.Outcome State Fault Refusal :=
  issue (.xctlEvict k x y) ⟨k, 0x7D, 2, .classC⟩ s (fun s =>
    xctl s x (wideKey (s.me.s y)) (withKey (s.me.s y) (fun p e n =>
      match n.st with
      | .absent => (p, 6)
      | .resident => if n.evictable then (p.evict e, 0) else (p, 5)
      | _ => (p, 5))))

/-- A load of the strand has not returned yet. -/
def Strand.awaitsLoad (t : Strand) : Bool := t.rets.any (fun r => decide (r.kind = .ld) || decide (r.kind = .lds))

/-- XCTL.done (R291): it waits for the strand's earlier loads to return too (R301). -/
def execXctlDone (k : Marks) (x y : SCode) (s : State) : Host.Outcome State Fault Refusal :=
  issue (.xctlDone k x y) ⟨k, 0x7D, 2, .classC⟩ s (fun s =>
    if !wideKey (s.me.s y) && s.me.awaitsLoad then .stall
    else xctl s x (wideKey (s.me.s y)) (withKey (s.me.s y) (fun p e n =>
      if (n.st = .resident ∨ n.st = .pinned) ∧ n.inuse ≠ 0 then ((p.setEntry e { n with inuse := n.inuse - 1 }).granted, 0) else (p, 6))))

/-- XCTL.close (R298): it writes no status. -/
def execXctlClose (k : Marks) (c : Bool) (s : State) : Host.Outcome State Fault Refusal :=
  issue (.xctlClose k c) ⟨k, 0x7D, 2, .classC⟩ s (fun s => xctl s 0 false (fun p => ({ p with closed := c }, 0)))

/-- The bias of a key (R299). -/
def Part.bias (p : Part) (key : W32) : W32 :=
  match p.findKey key with
  | some e => if p.sel then (p.entry e).biasB else (p.entry e).biasA
  | none => 0

/-- XBIAS (R299). -/
def execXbias (k : Marks) (x y : VCode) (m : MCode) (s : State) : Host.Outcome State Fault Refusal :=
  issue (.xbias k x y m) ⟨k, 0x7E, 2, .plain⟩ s (fun s =>
    let p := s.myPart
    match writes (operOf (.xbias k x y m)) x false s (fun _ v l => (p.bias (low32 ((v.getD 0 ⟨[], [], []⟩).at l))).zeroExtend 64) with
    | .done s' k => .done ((s'.setPart s'.me.part s'.myPart.ertStep).setMe (s'.me.acquires s')) k
    | r => r)

/-! Events. -/

/-- DEFERRED_FILL_GRANT (R291, R292): a numbered step of its own for a grant that no step before has made. -/
def execDeferredFillGrant (part : Nat) (s : State) : Host.Outcome State Fault Refusal :=
  let p := s.part part
  match p.deferred with
  | [] => .next s
  | e :: r =>
    match { p with deferred := r }.seekFrame e with
    | some p' => .next (s.setPart part p'.ertStep)
    | none => .next s

/-- The entries of every page of a fill; none while a walk is awaited. -/
def fillEntries (s : State) (d part e : Nat) (l : List W80) : State × Option (List Tlb) :=
  l.foldl (fun (r : State × Option (List Tlb)) a =>
    let (s, x) := translateFill r.1 d part e a
    (s, match r.2, x with
      | some l, some x => some (l ++ [x])
      | _, _ => none)) (s, some [])

/-- A fill may meet an error of R246 in its leaves: 1 where one lacks RD, 4 where a peer backs one and does not answer (R289, R310). -/
def fillMay (l : List Tlb) (code : Nat) : Bool :=
  (decide (code = 1) && l.any (fun e => !eRd e.leaf)) || (decide (code = 4) && l.any (fun e => decide (eBk e.leaf = 2)))

/-- The error of a fill with what its peers answer; 0 none. -/
def fillError (l : List Tlb) (peer : Option (List Byte)) : Nat :=
  if fillMay l 1 then 1 else if peer.isNone && fillMay l 4 then 4 else 0

/-- The bytes of a fill, each by the entry that translates its page: those of the pool, and those of peers from their answer, at their place in the fill. -/
def fillBytes (m : Memory) (pages : List (W80 × Tlb)) (a : W80) (n : Nat) (peer : List Byte) : List Byte :=
  (List.range n).map (fun i =>
    let b := a + BitVec.ofNat 80 i
    match pages.find? (fun y => decide (vpnOf y.1 = vpnOf b)) with
    | some y => if eBk y.2.leaf = 2 then peer.getD i 0 else (farRead m y.2 b 1).headD 0
    | none => 0)

/-- The bytes of a fill that lie in the page at an address. -/
def fillPart (a : W80) (n : Nat) (page : W80) : Nat :=
  Nat.min (a.toNat + n) (page.toNat + 65536) - Nat.max a.toNat page.toNat

/-- INUSE after a pop (R291): a 16-bit field, whose sum beyond 65,535 is a free value (log 46). -/
def inuseNext (n : BitVec 16) (step : W32) : BitVec 16 := if n = ~~~0 then Config.inuseBeyond step.toNat else n + 1

/-- Bytes written into the vault window. -/
def windowWrite (m : Memory) (p : Part) (o : Nat) (b : List Byte) : Memory := b.zipIdx.foldl (fun m x => m.write (windowKey p (o + x.2)) x.1) m

/-- The 256-byte lines of a fill counted in the entries that translate them (R313). -/
def fillHot (l : List Tlb) (p : Nat) (asid : BitVec 16) (a : W80) (n : Nat) : List Tlb :=
  let first := a.toNat / 256
  let last := (a.toNat + n - 1) / 256
  if n = 0 then l else (List.range (last - first + 1)).foldl (fun l i => countHot l p asid [vpnOf (BitVec.ofNat 80 ((first + i) * 256))]) l

/-- FILL_COMPLETE (R19, R289, R291): the planes lie in the frame, or an error fails the fill and leaves its bytes as they were; its pages came over the links of the die (R12, R364). All of it is read and written in this one event (DESIGN CHOICE, log 64). After a warm reset it starts again once stage 1 has run (R368). -/
def execFillComplete (part : Nat) (z : FillEnd) (s : State) : Host.Outcome State Fault Refusal :=
  let p := s.part part
  let e := z.e
  let x := p.entry e
  if p.fillRuns e && decide (s.stage ≠ 0) then
    let n := expertLen x x.fpl.toNat
    let d := vaultDie (p.vaultAt x.vcopy)
    match fillEntries s d part e (fillPages x n) with
    | (s1, none) => .next s1
    | (s1, some l) =>
      let p1 := (s1.part part).ertStep
      if fillError l z.peer ≠ 0 then .next (endFillWaits (s1.setPart part (p1.failFill e (fillError l z.peer))) part e)
      else
        let pages := (fillPages x n).zip l
        let s1 := (pages.foldl (fun s y => s.carryFar part d y.2 y.1 (fillClass p) (fillPart x.farb n y.1)) s1).carryWindow part d x.vcopy.toNat n (fillClass p)
        let m := windowWrite s1.mem p x.vcopy.toNat (fillBytes s1.mem pages x.farb n (z.peer.getD []))
        let y := s1.die d
        let s2 := ({ s1 with mem := m }.setDie d { y with tlb := fillHot y.tlb part p.rcd.fasid x.farb n }).setPart part (p1.endFill e)
        .next (endFillWaits s2 part e)
  else .next s

/-- FILL_FAIL (R246, R291): poisoned data, or an error of the leaves. -/
def execFillFail (part e : Nat) (code : BitVec 4) (s : State) : Host.Outcome State Fault Refusal :=
  let p := s.part part
  let x := p.entry e
  if p.fillRuns e && decide (s.stage ≠ 0) then
    let d := vaultDie (p.vaultAt x.vcopy)
    match fillEntries s d part e (fillPages x (expertLen x x.fpl.toNat)) with
    | (s1, none) => if code = 3 then .next (endFillWaits (s.setPart part (p.ertStep.failFill e 3)) part e) else .next s1
    | (s1, some l) =>
      if code = 3 ∨ fillMay l code.toNat = true then .next (endFillWaits (s1.setPart part ((s1.part part).ertStep.failFill e code.toNat)) part e)
      else .next s1
  else .next s

/-- EVICTION_END (R291). -/
def execEvictionEnd (part e : Nat) (s : State) : Host.Outcome State Fault Refusal :=
  let p := s.part part
  let x := p.entry e
  if x.st = .evicting ∧ x.rbusy = false then .next (s.setPart part (p.ertStep.endEviction e)) else .next s

/-- REPLICA_COMPLETE (R291): the replica holds the same planes, read by the fill unit of its frame's die, over the collar from the other (R12, R364), all of them in this one event (DESIGN CHOICE, log 64), or the eviction that waited for it ends. After a warm reset the copy starts again once stage 1 has run (R368). -/
def execReplicaComplete (part e : Nat) (s : State) : Host.Outcome State Fault Refusal :=
  let p := s.part part
  let x := p.entry e
  if x.rbusy then
    if x.st = .evicting then .next (s.setPart part (p.ertStep.endEviction e))
    else if s.stage = 0 then .next s
    else
      let n := expertLen x x.rpl
      let b := (List.range n).map (fun i => s.mem.read (windowKey p (x.vcopy.toNat + i)))
      let d := vaultDie (p.vaultAt x.rcopy)
      let s1 := (s.carryWindow part d x.vcopy.toNat n (fillClass p)).carryWindow part d x.rcopy.toNat n (fillClass p)
      .next ({ s1 with mem := windowWrite s.mem p x.rcopy.toNat b }.setPart part (p.ertStep.setEntry e { x with rbusy := false, rv := true }))
  else .next s

/-- The values of an XPULL given to its strand, which leaves its park (R297); the pop is an acquire (R301). -/
def givePull (s : State) (u ord : Nat) (vals : List W64) : State :=
  let s := (List.range 4).foldl (fun s i => mirrorVal s u ord i (vals.getD i 0)) s
  let t := (s.strand u).acquires s
  (s.setStrand u { t with rets := t.rets.map (fun r =>
    if r.ord = ord ∧ r.kind = .xpull then { r with four := (List.range 4).map (fun i => vals.getD i 0), units := r.units.map (fun x => { x with val := some (vals.getD x.lane 0) }) } else r) }).makeReady u

/-- XPULL_POP (R297): the oldest parked XPULL pops the head descriptor, or gets zeros when the table is closed and drained. -/
def execXpullPop (part : Nat) (s : State) : Host.Outcome State Fault Refusal :=
  let p := s.part part
  match p.pulls with
  | [] => .next s
  | u :: rest =>
    match (s.strand u).life with
    | .parked (.xpull ord) =>
      (match p.ready with
      | d :: r =>
        let p1 := { p.ertStep with ready := r, dused := p.dused - 1, pulls := rest }
        (match p.findKey d.key with
        | none => .next (givePull (s.setPart part p1.granted) u ord [d.key.zeroExtend 64, d.first.zeroExtend 64, BitVec.ofNat 64 d.count, ~~~0])
        | some e =>
          let x := p.entry e
          let x1 := if d.fail then { x with qcnt := x.qcnt - 1 } else { x with qcnt := x.qcnt - 1, inuse := inuseNext x.inuse p1.step, use := p1.step }
          let word : W64 := if d.fail then ~~~0 else BitVec.ofNat 64 (x.rpl * 2 ^ 36 + (p.nearest x (s.strand u).core).toNat)
          .next (givePull (s.setPart part (p1.setEntry e x1).granted) u ord [d.key.zeroExtend 64, d.first.zeroExtend 64, BitVec.ofNat 64 d.count, word]))
      | [] =>
        if p.closed && p.ert.all (fun e => decide (e.2.waiters = [])) then .next (givePull (s.setPart part { p.ertStep with pulls := rest }) u ord [])
        else .next s)
    | _ => .next s

/-- ERT_CONFIG_WRITE (R288). -/
def execErtConfigWrite (part e : Nat) (c : ErtConfig) (s : State) : Host.Outcome State Fault Refusal :=
  let p := s.part part
  let x := p.entry e
  if s.stage ≠ 2 ∨ p.st = .free ∨ p.ownsEntry e = false then .next s
  else if x.st = .absent ∧ x.inuse = 0 ∧ x.qcnt = 0 ∧ x.waiters = [] then
    .next (s.setPart part (p.setEntry e { x with
      valid := c.valid, key := c.key, farb := c.farb, t := c.t, spn := c.spn, fpl := c.fpl, biasA := c.biasA, biasB := c.biasB }))
  else .next (s.cfgRej part)

/-- The step of a SNAP: the counters of `n` keys read and cleared (R298). -/
def Part.snap (p : Part) (k0 : W32) : Nat → Nat → Part × List W32
  | _, 0 => (p.ertStep, [])
  | i, n + 1 =>
    match p.findKey (k0 + BitVec.ofNat 32 i) with
    | none => let (p', l) := Part.snap p k0 (i + 1) n
              (p', 0 :: l)
    | some e =>
      let x := p.entry e
      let (p', l) := Part.snap (p.setEntry e { x with rc := 0 }) k0 (i + 1) n
      (p', x.rc :: l)

end Sys2Proof.Machine
end

