-- ==== Sys2Proof/Machine/Lane.lean ====
section
/-! DEFINITION. Lane.lean: the integer lane instructions (R92 to R102), CVT with its floating-point cases (R130, R131). -/

namespace Sys2Proof.Machine

/-- A lane result from one source. -/
def lane1 (i : Instr) (x : VCode) (wide : Bool) (s : State) (f : W64 → W64) : Res :=
  writes (operOf i) x wide s (fun _ v l => match v with
    | [a] => f (a.at l)
    | _ => 0)

/-- A lane result from two sources. -/
def lane2 (i : Instr) (x : VCode) (wide : Bool) (s : State) (f : W64 → W64 → W64) : Res :=
  writes (operOf i) x wide s (fun _ v l => match v with
    | [a, b] => f (a.at l) (b.at l)
    | _ => 0)

/-- A lane result from three sources. -/
def lane3 (i : Instr) (x : VCode) (wide : Bool) (s : State) (f : W64 → W64 → W64 → W64) : Res :=
  writes (operOf i) x wide s (fun _ v l => match v with
    | [a, b, c] => f (a.at l) (b.at l) (c.at l)
    | _ => 0)

/-- ADD (R95). -/
def execAdd (k : Marks) (ty : Ty) (sat : Bool) (x y z : VCode) (m : MCode) (s : State) : Host.Outcome State Fault Refusal :=
  issue (.add k ty sat x y z m) ⟨k, 0x20, 2, .plain⟩ s (fun s =>
    lane2 (.add k ty sat x y z m) x ty.wide s (fun a b => ty.narrow sat (ty.val a + ty.val b)))

/-- SUB (R95). -/
def execSub (k : Marks) (ty : Ty) (sat : Bool) (x y z : VCode) (m : MCode) (s : State) : Host.Outcome State Fault Refusal :=
  issue (.sub k ty sat x y z m) ⟨k, 0x21, 2, .plain⟩ s (fun s =>
    lane2 (.sub k ty sat x y z m) x ty.wide s (fun a b => ty.narrow sat (ty.val a - ty.val b)))

/-- MUL (R95). -/
def execMul (k : Marks) (ty : Ty) (sat : Bool) (x y z : VCode) (m : MCode) (s : State) : Host.Outcome State Fault Refusal :=
  issue (.mul k ty sat x y z m) ⟨k, 0x22, 2, .plain⟩ s (fun s =>
    lane2 (.mul k ty sat x y z m) x ty.wide s (fun a b => ty.narrow sat (ty.val a * ty.val b)))

/-- MULH (R95). -/
def execMulh (k : Marks) (ty : Ty) (x y z : VCode) (m : MCode) (s : State) : Host.Outcome State Fault Refusal :=
  issue (.mulh k ty x y z m) ⟨k, 0x23, 2, .plain⟩ s (fun s =>
    lane2 (.mulh k ty x y z m) x ty.wide s (fun a b => ty.wrap (ty.val a * ty.val b / 2 ^ 32)))

/-- MAD (R95). -/
def execMad (k : Marks) (ty : Ty) (sat : Bool) (x y z w : VCode) (m : MCode) (s : State) : Host.Outcome State Fault Refusal :=
  issue (.mad k ty sat x y z w m) ⟨k, 0x24, 3, .plain⟩ s (fun s =>
    lane3 (.mad k ty sat x y z w m) x ty.wide s (fun a b c => ty.narrow sat (ty.val a * ty.val b + ty.val c)))

/-- MIN (R95). -/
def execMin (k : Marks) (ty : Ty) (x y z : VCode) (m : MCode) (s : State) : Host.Outcome State Fault Refusal :=
  issue (.min k ty x y z m) ⟨k, 0x25, 2, .plain⟩ s (fun s =>
    lane2 (.min k ty x y z m) x ty.wide s (fun a b => if ty.val b < ty.val a then b else a))

/-- MAX (R95). -/
def execMax (k : Marks) (ty : Ty) (x y z : VCode) (m : MCode) (s : State) : Host.Outcome State Fault Refusal :=
  issue (.max k ty x y z m) ⟨k, 0x26, 2, .plain⟩ s (fun s =>
    lane2 (.max k ty x y z m) x ty.wide s (fun a b => if ty.val a < ty.val b then b else a))

/-- NEG (R96). -/
def execNeg (k : Marks) (ty : Ty) (sat : Bool) (x y : VCode) (m : MCode) (s : State) : Host.Outcome State Fault Refusal :=
  issue (.neg k ty sat x y m) ⟨k, 0x27, 2, .plain⟩ s (fun s =>
    lane1 (.neg k ty sat x y m) x ty.wide s (fun a => ty.narrow sat (-ty.val a)))

/-- AND (R96). -/
def execAnd (k : Marks) (ty : Ty) (x y z : VCode) (m : MCode) (s : State) : Host.Outcome State Fault Refusal :=
  issue (.and_ k ty x y z m) ⟨k, 0x28, 2, .plain⟩ s (fun s => lane2 (.and_ k ty x y z m) x ty.wide s (· &&& ·))

/-- OR (R96). -/
def execOr (k : Marks) (ty : Ty) (x y z : VCode) (m : MCode) (s : State) : Host.Outcome State Fault Refusal :=
  issue (.or_ k ty x y z m) ⟨k, 0x29, 2, .plain⟩ s (fun s => lane2 (.or_ k ty x y z m) x ty.wide s (· ||| ·))

/-- XOR (R96). -/
def execXor (k : Marks) (ty : Ty) (x y z : VCode) (m : MCode) (s : State) : Host.Outcome State Fault Refusal :=
  issue (.xor_ k ty x y z m) ⟨k, 0x2A, 2, .plain⟩ s (fun s => lane2 (.xor_ k ty x y z m) x ty.wide s (· ^^^ ·))

/-- NOT (R96). -/
def execNot (k : Marks) (ty : Ty) (x y : VCode) (m : MCode) (s : State) : Host.Outcome State Fault Refusal :=
  issue (.not_ k ty x y m) ⟨k, 0x2B, 2, .plain⟩ s (fun s => lane1 (.not_ k ty x y m) x ty.wide s (fun a => ~~~a))

/-- SHL (R96). -/
def execShl (k : Marks) (ty : Ty) (x y z : VCode) (m : MCode) (s : State) : Host.Outcome State Fault Refusal :=
  issue (.shl k ty x y z m) ⟨k, 0x2C, 2, .plain⟩ s (fun s =>
    lane2 (.shl k ty x y z m) x ty.wide s (fun a b => if ty.width ≤ b.toNat then 0 else ty.wrap (ty.val a * 2 ^ b.toNat)))

/-- SHR (R96). -/
def execShr (k : Marks) (ty : Ty) (x y z : VCode) (m : MCode) (s : State) : Host.Outcome State Fault Refusal :=
  issue (.shr k ty x y z m) ⟨k, 0x2D, 2, .plain⟩ s (fun s =>
    lane2 (.shr k ty x y z m) x ty.wide s (fun a b =>
      if ty.width ≤ b.toNat then ty.wrap (if ty.val a < 0 then -1 else 0) else ty.wrap (ty.val a / 2 ^ b.toNat)))

/-- POPC (R96). -/
def execPopc (k : Marks) (x y : VCode) (m : MCode) (s : State) : Host.Outcome State Fault Refusal :=
  issue (.popc k x y m) ⟨k, 0x2E, 2, .plain⟩ s (fun s => lane1 (.popc k x y m) x false s (fun a => BitVec.ofNat 64 (popcount (a.extractLsb' 0 32))))

/-- The zero bits above the highest set bit of 32; 32 for zero. -/
def clz32 (n : Nat) : Nat := if n = 0 then 32 else 31 - Nat.log2 n

/-- CLZ (R96). -/
def execClz (k : Marks) (x y : VCode) (m : MCode) (s : State) : Host.Outcome State Fault Refusal :=
  issue (.clz k x y m) ⟨k, 0x2F, 2, .plain⟩ s (fun s => lane1 (.clz k x y m) x false s (fun a => BitVec.ofNat 64 (clz32 (a.toNat % 2 ^ 32))))

/-- The place p and the cut length n′ of a bit field, from its control lane (R97). -/
def fieldOf (c : W64) : Nat × Nat :=
  let p := c.toNat % 32
  (p, Nat.min (c.toNat / 32 % 32 + 1) (32 - p))

/-- BFX of one lane (R97). -/
def bfxLane (signed : Bool) (a c : W64) : W64 :=
  let (p, n) := fieldOf c
  let f := a.toNat / 2 ^ p % 2 ^ n
  if signed ∧ 2 ^ (n - 1) ≤ f then Ty.s32.wrap ((f : Int) - 2 ^ n) else BitVec.ofNat 64 f

/-- BFI of one lane (R97). -/
def bfiLane (a b c : W64) : W64 :=
  let (p, n) := fieldOf c
  let mask := (2 ^ n - 1) * 2 ^ p
  (a &&& ~~~(BitVec.ofNat 64 mask)) ||| BitVec.ofNat 64 (b.toNat % 2 ^ n * 2 ^ p)

/-- BFX (R97). -/
def execBfx (k : Marks) (ty : Ty) (x y z : VCode) (m : MCode) (s : State) : Host.Outcome State Fault Refusal :=
  issue (.bfx k ty x y z m) ⟨k, 0x30, 2, .plain⟩ s (fun s => lane2 (.bfx k ty x y z m) x false s (bfxLane ty.isSigned))

/-- BFI (R97). -/
def execBfi (k : Marks) (x y z w : VCode) (m : MCode) (s : State) : Host.Outcome State Fault Refusal :=
  issue (.bfi k x y z w m) ⟨k, 0x31, 3, .plain⟩ s (fun s => lane3 (.bfi k x y z w m) x false s bfiLane)

/-- A comparison of two sources: Pd the lanes where it holds, Pe the others of the operating map (R98, R129). -/
def compare (i : Instr) (x pe : MCode) (s : State) (holds : Strand → W64 → W64 → Bool) : Res :=
  let t0 := s.me
  reads (operOf i) s (fun t v m => match v with
    | [a, b] =>
      let yes := mapOf ((lanesIn t.ext m).filter (fun l => holds t0 (a.at l) (b.at l)))
      let t := t.setMapReg x yes
      if pe = 0 then t else t.setMapReg pe (m ^^^ yes)
    | _ => t)

/-- CMP (R98). -/
def execCmp (k : Marks) (ty : Ty) (cc : ICond) (x pe : MCode) (y z : VCode) (m : MCode) (s : State) : Host.Outcome State Fault Refusal :=
  issue (.cmp k ty cc x pe y z m) ⟨k, 0x32, 2, .plain⟩ s (fun s =>
    compare (.cmp k ty cc x pe y z m) x pe s (fun _ a b => cc.holds (ty.val a) (ty.val b)))

/-- SEL (R99). -/
def execSel (k : Marks) (ty : Ty) (x y z : VCode) (pc m : MCode) (s : State) : Host.Outcome State Fault Refusal :=
  issue (.sel k ty x y z pc m) ⟨k, 0x33, 2, .plain⟩ s (fun s =>
    writes (operOf (.sel k ty x y z pc m)) x ty.wide s (fun t v l => match v with
      | [a, b] => if (t.mapReg pc).getLsbD l then a.at l else b.at l
      | _ => 0))

/-- The value MOVI gives its lanes (R100). -/
def moviValue (ty : Ty) (imm : W32) : W64 :=
  match ty with
  | .s64 => imm.signExtend 64
  | .bf16 | .f16 => (imm.extractLsb' 0 16).zeroExtend 64
  | _ => imm.zeroExtend 64

/-- MOVI (R100). -/
def execMovi (k : Marks) (ty : Ty) (x : VCode) (m : MCode) (imm : W32) (s : State) : Host.Outcome State Fault Refusal :=
  issue (.movi k ty x m imm) ⟨k, 0x34, 3, .plain⟩ s (fun s =>
    writes (operOf (.movi k ty x m imm)) x ty.wide s (fun _ _ _ => moviValue ty imm))

/-- MOV (R100). -/
def execMov (k : Marks) (ty : Ty) (x y : VCode) (m : MCode) (s : State) : Host.Outcome State Fault Refusal :=
  issue (.mov k ty x y m) ⟨k, 0x35, 2, .plain⟩ s (fun s => lane1 (.mov k ty x y m) x ty.wide s id)

/-- LANEID (R100). -/
def execLaneid (k : Marks) (x : VCode) (m : MCode) (s : State) : Host.Outcome State Fault Refusal :=
  issue (.laneid k x m) ⟨k, 0x36, 2, .plain⟩ s (fun s => writes (operOf (.laneid k x m)) x false s (fun _ _ l => BitVec.ofNat 64 l))

/-- BCAST (R100). -/
def execBcast (k : Marks) (ty : Ty) (x : VCode) (y : SCode) (m : MCode) (s : State) : Host.Outcome State Fault Refusal :=
  issue (.bcast k ty x y m) ⟨k, 0x37, 2, .plain⟩ s (fun s => writes (operOf (.bcast k ty x y m)) x ty.wide s (fun t _ _ => t.s y))

/-- The type a CVT source reads as; none for the order keys. -/
def CvtSrc.ty : CvtSrc → Option Ty
  | .b32 => some .n32
  | .s32 => some .s32
  | .n32 => some .n32
  | .f32 => some .f32
  | .bf16 => some .bf16
  | .f16 => some .f16
  | .s16 => some .s16
  | .n16 => some .n16
  | .s8 => some .s8
  | .n8 => some .n8
  | .s64 => some .s64
  | .n64 => some .n64
  | .f32ord | .bf16ord => none

/-- A floating-point type. -/
def isFloat : Ty → Bool
  | .f32 | .bf16 | .f16 => true
  | _ => false

/-- A conversion between two types under a rounding mode and flushing (R102, R130). -/
def convert (src dst : Ty) (rm : Nat) (fz : Bool) (x : W64) : W64 :=
  let n := x.toNat
  if isFloat src then
    if isFloat dst then BitVec.ofNat 64 (cvtFF src.fmt dst.fmt rm fz n)
    else dst.wrap (cvtFI src.fmt rm fz dst.lo dst.hi n)
  else if isFloat dst then BitVec.ofNat 64 (cvtIF dst.fmt rm fz (src.val x))
  else dst.narrow true (src.val x)

/-- CVT (R101, R102, R130, R131). -/
def execCvt (k : Marks) (src : CvtSrc) (ty : Ty) (x y : VCode) (m : MCode) (s : State) : Host.Outcome State Fault Refusal :=
  issue (.cvt k src ty x y m) ⟨k, 0x38, 2, .plain⟩ s (fun s =>
    let f := s.me.f
    lane1 (.cvt k src ty x y m) x ty.wide s (fun a => match CvtSrc.ty src with
      | some st => convert st ty (fRM f) (fFZ f) a
      | none => BitVec.ofNat 64 (orderKey (decide (src = .f32ord)) a.toNat)))

end Sys2Proof.Machine
end

