-- ==== Sys2Proof/Machine/Matrix.lean ====
section
/-! DEFINITION. Matrix.lean: banks and their requests, the matrix channel, MMA and its gangs, MZERO, MRD, MST, engine reset (R197 to R219). -/

namespace Sys2Proof.Machine

/-! Banks. -/

/-- The banks a command names. -/
def MCmd.banks (c : MCmd) : BitVec 16 :=
  match c.kind with
  | .mfree m => m
  | _ => BitVec.ofNat 16 (2 ^ c.bank)

/-- The matrix commands pending on a core, with their strands. -/
def pendingOn (s : State) (c : Nat) : List (Nat × MCmd) :=
  (s.strands.filter (fun e => decide (e.2.core = c) && e.2.life.onCore && decide ((s.part e.2.part).st = .live))).flatMap
    (fun e => e.2.mx.cmds.map (fun m => (e.1, m)))

/-- The banks that a pending command keeps from being granted: its own; an MFREE keeps none, since the commands before it that name its banks do (R201). -/
def MCmd.keeps (c : MCmd) : BitVec 16 :=
  match c.kind with
  | .mfree _ => 0
  | _ => c.banks

/-- The free banks of a core, rising: held by no frame and named by no pending command that uses them (R155, R201). -/
def freeBanks (s : State) (c : Nat) : List Nat :=
  let held := s.frames.foldl (fun (m : BitVec 16) e => if e.2.gone ∨ (s.part e.2.part).st ≠ .live then m else m ||| e.2.heldOn c) 0
  let busy := (pendingOn s c).foldl (fun (m : BitVec 16) e => m ||| e.2.keeps) 0
  (List.range 16).filter (fun b => !(held ||| busy).getLsbD b)

/-- HELD of a frame on a core set. -/
def Frame.setHeld (f : Frame) (c : Nat) (m : BitVec 16) : Frame := { f with held := Tbl.set 0 f.held c m }

/-- `n` banks granted to a strand: zeroed, held, their mask in its scalar (R200). -/
def grant (s : State) (u n : Nat) (x : SCode) : State :=
  let t := s.strand u
  let g := (freeBanks s t.core).take n
  let m : BitVec 16 := g.foldl (fun m b => m ||| BitVec.ofNat 16 (2 ^ b)) 0
  let f := s.frame t.frame
  let s := { s with mem := g.foldl (fun mem b => mem.clear (accKey t.core b 0) 16384) s.mem }
  (s.setFrame t.frame (f.setHeld t.core (f.heldOn t.core ||| m))).setStrand u (t.setS x (m.zeroExtend 64))

/-- MALLOC (R200). -/
def execMalloc (k : Marks) (x y : SCode) (n : BitVec 5) (s : State) : Host.Outcome State Fault Refusal :=
  issue (.malloc k x y n) ⟨k, 0x74, 2, .plain⟩ s (fun s =>
    let t := s.me
    let n := (t.s y).toNat + n.toNat
    let c := s.core t.core
    if n = 0 ∨ 16 < n ∨ 16 < popcount ((s.frame t.frame).heldOn t.core) + n then .trap .accRange 0
    else if c.reqs = [] ∧ n ≤ (freeBanks s t.core).length then .done (grant s s.cur n x) 1
    else .after (s.setCore t.core { c with reqs := c.reqs ++ [{ sid := s.cur, n := n, x := x }] }) .malloc 1)

/-- MALLOC_GRANT (R200). -/
def execMallocGrant (core : Nat) (s : State) : Host.Outcome State Fault Refusal :=
  let c := s.core core
  match c.reqs with
  | r :: rest =>
    if r.n ≤ (freeBanks s core).length then .next ((grant (s.setCore core { c with reqs := rest }) r.sid r.n r.x).makeReady r.sid) else .next s
  | [] => .next s

/-! The matrix channel (R198, R202). -/

/-- A channel without a command. -/
def MxCh.drop (m : MxCh) (ord : Nat) : MxCh := { m with cmds := m.cmds.filter (fun c => decide (c.ord ≠ ord)) }.advance

/-- The places of a strand's matrix channel in use: its commands, and each MRD that has left it with values still to return (R323). -/
def Strand.mxHeld (t : Strand) : Nat :=
  t.mx.cmds.length + (t.rets.filter (fun r => decide (r.kind = .mrd) && t.mx.cmds.all (fun c => decide (c.ord ≠ r.ord)))).length

/-- A command entered into the issuing strand's matrix channel; a full channel holds the strand (R198). -/
def enterMx (s : State) (t' : Strand) (i : Instr) (bank : Nat) (kind : MKind) (o : Ordn) (sc : Scope) (tagged : Bool) (k : Nat) : Res :=
  if Config.matrixChannelLen ≤ s.me.mxHeld then .stall
  else
    let c : MCmd := { ord := t'.ord, gord := s.gord, tag := nextTag s t', batch := none, bank := bank, kind := kind, o := o, sc := sc, insn := allWords i,
                      pc := t'.pc.bits, cls := s.classOf t' }
    let s := { s with gord := s.gord + 1 }.setMe { t' with mx := { t'.mx with cmds := t'.mx.cmds ++ [c] } }
    .done (if tagged then useTag s t' else s) k

/-- MFREE (R201). -/
def execMfree (k : Marks) (y : SCode) (s : State) : Host.Outcome State Fault Refusal :=
  issue (.mfree k y) ⟨k, 0x75, 2, .plain⟩ s (fun s =>
    let t := s.me
    let m : BitVec 16 := (t.s y).extractLsb' 0 16
    let f := s.frame t.frame
    let held := f.heldOn t.core
    if m &&& ~~~held ≠ 0 then .trap .accRange 0
    else if m = 0 then .done s 1
    else enterMx (s.setFrame t.frame (f.setHeld t.core (held &&& ~~~m))) t (.mfree k y) 0 (.mfree m) .rlx .strand true 1)

/-- MZERO (R214). -/
def execMzero (k : Marks) (y : SCode) (kb : BitVec 4) (s : State) : Host.Outcome State Fault Refusal :=
  issue (.mzero k y kb) ⟨k, 0x77, 2, .plain⟩ s (fun s =>
    match bankOf s s.me y kb.toNat with
    | none => .trap .accRange 0
    | some b => enterMx s s.me (.mzero k y kb) b .mzero .rlx .strand true 1)

/-- SETG (R210). -/
def execSetg (k : Marks) (d : SCode) (b : SOpB) (s : State) : Host.Outcome State Fault Refusal :=
  issue (.setg k d b) ⟨k, 0x58, 2, .plain⟩ s (fun s =>
    let t := s.me
    let g : BitVec 16 := (b.get t).extractLsb' 0 16
    let bad := popcount g < 2 ∨ 6 < popcount g ∨ g.getLsbD t.sidx = false
      ∨ (List.range 16).any (fun i => g.getLsbD i && (decide (t.fsize ≤ i) || (s.paired t && decide (i % 2 ≠ t.sidx % 2))))
    if g ≠ 0 ∧ bad then .trap .gang 0 else .done (s.setMe { t.setS d (t.g.zeroExtend 64) with g := g }) 1)

/-! MMA (R209) and gangs (R212). -/

/-- The MMA of a gang that has just closed. -/
def closeMma (gid : Nat) (c : MCmd) : MCmd :=
  match c.kind with
  | .mma rows d g _ a b => if g = some gid then { c with kind := .mma rows d g true a b } else c
  | _ => c

/-- The members of a gang that closes commit from then on, and its latch opens for the next (R212). -/
def closeGang (s : State) (fu c gid : Nat) : State :=
  let f := s.frame fu
  let s := s.setFrame fu { f with latch := Tbl.set Latch.reset f.latch c { f.latchOn c with isOpen := false, arr := 0 } }
  let s := { s with strands := s.strands.map (fun (e : Nat × Strand) =>
    if e.2.frame = fu ∧ e.2.core = c then (e.1, { e.2 with mx := { e.2.mx with cmds := e.2.mx.cmds.map (closeMma gid) } }) else e) }
  f.strands.foldl (fun s u => match (s.strand u).life with
    | .parked .gang => if (s.strand u).core = c then s.makeReady u else s
    | _ => s) s

/-- The arrival of an MMA's strand at its latch (R212): the number of its gang. -/
def gangArrive (s : State) (d : BDesc) : State × Nat :=
  let t := s.me
  let f := s.frame t.frame
  let l := f.latchOn t.core
  let l := if l.isOpen then l else { isOpen := true, gid := s.gord, gm := t.g, arr := 0, bd := d }
  let l := { l with arr := l.arr ||| BitVec.ofNat 16 (2 ^ t.sidx) }
  (s.setFrame t.frame { f with latch := Tbl.set Latch.reset f.latch t.core l }, l.gid)

/-- The 16-byte pieces of ranges of a near space: (address, bytes). -/
def piecesOf (s : State) (t : Strand) (sp : Space) (l : List (Nat × Nat)) : Pieces :=
  l.flatMap (fun e => (List.range (e.2 / 16)).map (fun i => (nearKey s t sp (e.1 + 16 * i), none)))

/-- MMA (R208, R209, R212). -/
def execMma (k : Marks) (ty : Ty) (maj gng : Bool) (o : Ordn) (sc : Scope) (sp : Space) (x y : SCode) (z : VCode) (m : MCode) (kb : BitVec 4)
    (sk spl sm : SCode) (rs : BitVec 12) (s : State) : Host.Outcome State Fault Refusal :=
  issue (.mma k ty maj gng o sc sp x y z m kb sk spl sm rs) ⟨k, 0x76, 4, .plain⟩ s (fun s =>
    let t := s.me
    let i := Instr.mma k ty maj gng o sc sp x y z m kb sk spl sm rs
    match mmaUse s t ty maj sp x y z m kb sk spl sm rs with
    | .error (c, d) => .trap c d
    | .ok (b, rows, d) =>
      let keys := rows.map (fun e => (e.1, nearKey s t .spad e.2))
      let n := t.lanesK (operOf i)
      let ap := piecesOf s t .spad (rows.map (fun e => (e.2, if d.fmt = 2 then 128 else 256)))
      let bp := piecesOf s t sp (bRanges d)
      if !gng then enterMx s t i b (.mma keys d none true ap bp) o sc true n
      else if gangAct s t d ≠ .join then .trap .gang 0
      else
        let (s', gid) := gangArrive s d
        match enterMx s' t i b (.mma keys d (some gid) false ap bp) o sc true n with
        | .done s'' n =>
          let l := (s''.frame t.frame).latchOn t.core
          .done (if l.arr = l.gm then closeGang s'' t.frame t.core gid else s'') n
        | r => r)

/-! MRD and MST. -/

/-- MRD (R215). -/
def execMrd (k : Marks) (ty : Ty) (x : VCode) (y z : SCode) (kb : BitVec 4) (r : BitVec 6) (m : MCode) (s : State) :
    Host.Outcome State Fault Refusal :=
  issue (.mrd k ty x y z kb r m) ⟨k, 0x78, 2, .plain⟩ s (fun s =>
    let t := s.me
    let i := Instr.mrd k ty x y z kb r m
    let o := operOf i
    let mp := t.operMap o
    let row := (t.s z).toNat + r.toNat
    match bankOf s t y kb.toNat with
    | none => .trap .accRange 0
    | some b =>
      if 64 ≤ row then .trap .accRange 0
      else if t.mx.rst then .trap .engineReset 0
      else match t.roomFor o x false mp with
        | .wait => .stall
        | .full => .trap .pegExhausted 0
        | .ok t' =>
          if t.returnsFull then .stall
          else
            let ret : Ret := { ord := t.ord, kind := .mrd, dest := x.toNat, wide := false, ty := ty, dests := [],
                               units := (lanesIn t.ext mp).map (fun l => { lane := l, key := 0, off := 0, val := none }),
                               tag := ⟨0, 0, 0, 0⟩, addr := 0, insn := firstWord i, pc := t.pc.bits, cls := s.classOf t }
            let t' := t'.putV x false mp (fun _ => 0)
            enterMx s { t' with rets := if mp = 0 then t'.rets else t'.rets ++ [ret] } i b (.mrd row ty t.f) .rlx .strand false (t.lanesK o))

/-- Bytes of an element of MST. -/
def mstBytes (ty : Ty) : Nat := ty.bytes

/-- A scale tile is misaligned or partial (R137). -/
def scaleBad (s : State) (t : Strand) (a : Nat) : Bool := decide (a % 128 ≠ 0) || decide (nearSize s t .spad false < a + 128)

/-- MST (R216). -/
def execMst (k : Marks) (ty : Ty) (o : Ordn) (sc : Scope) (sp : Space) (x y z sa : SCode) (kb : BitVec 4) (rs : BitVec 16) (s : State) :
    Host.Outcome State Fault Refusal :=
  issue (.mst k ty o sc sp x y z sa kb rs) ⟨k, 0x79, 3, .engine⟩ s (fun s =>
    let t := s.me
    let scl := fSCL t.f
    let base := (t.s x).toNat
    match bankOf s t y kb.toNat with
    | none => .trap .accRange 0
    | some b =>
      if t.mx.rst then .trap .engineReset 0
      else if (1 ≤ scl ∧ scaleBad s t (t.s z).toNat = true) ∨ (scl = 2 ∧ scaleBad s t (t.s sa).toNat = true) then .trap .scaleLayout 0
      else if nearSize s t sp false < base + 63 * rs.toNat + 64 * ty.bytes then .trap .nearBounds 0
      else if base % 16 ≠ 0 ∨ rs.toNat % 16 ≠ 0 then .trap .misaligned 0
      else
        let tile (n : Nat) (a : SCode) : Pieces := piecesOf s t .spad (if n ≤ scl then [((t.s a).toNat, 128)] else [])
        enterMx s t (.mst k ty o sc sp x y z sa kb rs) b (.mst sp base rs.toNat ty t.f (t.s z).toNat (t.s sa).toNat (tile 1 z) (tile 2 sa) 0) o sc true 1)

/-! Commits. -/

/-- The head command of a strand's channel may execute: every earlier command of its core that names one of its banks has committed (R203), and what it reads is performed (R191, R204). -/
def mxReady (s : State) (u : Nat) (c : MCmd) : Bool :=
  let t := s.strand u
  (s.part t.part).st = .live && t.life.onCore
    && (pendingOn s t.core).all (fun e => decide (c.gord ≤ e.2.gord) || decide (e.2.banks &&& c.banks = 0))
    && (match c.kind with
      | .mma _ _ _ _ _ _ | .mzero | .mst _ _ _ _ _ _ _ _ _ _ => engineReady s u c.ord c.o
      | _ => true)

/-- The head of a strand's matrix channel, when it may execute. -/
def mxHead (s : State) (u : Nat) : Option MCmd :=
  match (s.strand u).mx.cmds with
  | c :: _ => if mxReady s u c then some c else none
  | [] => none

/-- A command leaves its channel. -/
def mxDone (s : State) (u ord : Nat) : State := s.setStrand u { s.strand u with mx := (s.strand u).mx.drop ord }

/-- The members of a gang with their MMAs: the strand, the command, and whether it is the head of its channel with its stores performed. -/
def gangMembers (s : State) (c gid : Nat) : List (Nat × Nat × Bool) :=
  (pendingOn s c).filterMap (fun e => match e.2.kind with
    | .mma _ _ (some g) _ _ _ =>
      if g = gid then some (e.1, e.2.ord, decide ((s.strand e.1).mx.cmds.head?.map (·.ord) = some e.2.ord) && engineReady s e.1 e.2.ord e.2.o) else none
    | _ => none)

/-- An accumulator element. -/
def accRead (s : State) (c b i n : Nat) : W32 := BitVec.ofNat 32 (ofBytes (s.mem.readN (accKey c b (256 * i + 4 * n)) 4))

/-- The A data of the rows of an MMA, in their order. -/
def rowBytes (d : BDesc) (rows : List (Nat × Nat)) (a : Pieces) : List (List Byte) :=
  let n := if d.fmt = 2 then 8 else 16
  (List.range rows.length).map (fun i => pieceBytes ((a.drop (n * i)).take n))

/-- The commit of an MMA: every element of its rows, from the A and B read (R209). -/
def mmaCommit (s : State) (c bank : Nat) (rows : List (Nat × Nat)) (d : BDesc) (a : List (List Byte)) (b : List Byte) : State :=
  let b := b.toArray
  let new := (rows.zip a).map (fun r =>
    let a := r.2.toArray
    (r.1.1, (List.range 64).flatMap (fun n => toBytes 4 (mmaElem d a b n (accRead s c bank r.1.1 n)).toNat)))
  { s with mem := new.foldl (fun m r => m.writeL (accKey c bank (256 * r.1)) r.2) s.mem }

/-- A matrix command of a strand changed, and the done marks of its channel looked at (R217). -/
def modMx (s : State) (u ord : Nat) (f : MKind → MKind) : State :=
  let t := s.strand u
  let x : MxCh := { t.mx with cmds := t.mx.cmds.map (fun (c : MCmd) => if c.ord = ord then { c with kind := f c.kind } else c) }
  s.setStrand u { t with mx := x.advance }

/-- An MMA with its A pieces set. -/
def MKind.withA (a : Pieces) : MKind → MKind
  | .mma rows d g cl _ b => .mma rows d g cl a b
  | k => k

/-- An MMA with its B pieces set. -/
def MKind.withB (b : Pieces) : MKind → MKind
  | .mma rows d g cl a _ => .mma rows d g cl a b
  | k => k

/-- A gang's B given to the MMAs of its members, read once (R212). -/
def giveB (s : State) (b : Pieces) (l : List (Nat × Nat × Bool)) : State := l.foldl (fun s e => modMx s e.1 e.2.1 (MKind.withB b)) s

/-- The members among whom B is read for the MMA of a strand: itself, or its closed gang once every member is at the head of its channel (R212). -/
def bMembers (s : State) (u : Nat) (c : MCmd) (gang : Option Nat) : Option (List (Nat × Nat × Bool)) :=
  match gang with
  | none => some [(u, c.ord, true)]
  | some gid => let l := gangMembers s (s.strand u).core gid
                if l.all (·.2.2) then some l else none

/-- A command may commit as far as its release goes, which the commit of an MMA or MZERO makes (R191, R204, R209). -/
def mayCommit (s : State) (u : Nat) (c : MCmd) : Bool := !Ordn.isRel c.o || engineReleases s u c.ord

/-- MATRIX_COMMIT (R203, R209, R214, R201): MZERO and MFREE commit; an MMA reads the pieces named, those of B once its gang may, and commits in an event after the last of them (log 64). -/
def execMatrixCommit (x : MatrixPart) (s : State) : Host.Outcome State Fault Refusal :=
  let sid := x.sid
  match mxHead s sid with
  | none => .next s
  | some c =>
    let t := s.strand sid
    match c.kind with
    | .mzero => if !mayCommit s sid c then .next s else .next (wakeAll (mxDone { s with mem := s.mem.clear (accKey t.core c.bank 0) 16384 } sid c.ord))
    | .mfree _ => .next (wakeAll (mxDone s sid c.ord))
    | .mma rows d gang closed a b =>
      if !closed then .next s
      else if a.read && b.read then
        if !mayCommit s sid c then .next s else .next (wakeAll (mxDone (mmaCommit s t.core c.bank rows d (rowBytes d rows a) (pieceBytes b)) sid c.ord))
      else
        let s1 := (modMx s sid c.ord (MKind.withA (readPieces s t.core x.a a))).carryKeys t.part t.core c.cls (pieceKeys x.a a)
        (match bMembers s sid c gang with
        | some l => .next (wakeAll ((giveB s1 (readPieces s t.core x.b b) l).carryKeys t.part t.core c.cls (pieceKeys x.b b)))
        | none => .next (wakeAll s1))
    | _ => .next s

/-- MRD_EXECUTE (R215): the values are read, and the MRD leaves its channel, whose place it holds until they have returned (R323). -/
def execMrdExecute (sid : Nat) (s : State) : Host.Outcome State Fault Refusal :=
  match mxHead s sid with
  | none => .next s
  | some c =>
    match c.kind with
    | .mrd row ty f =>
      let t := s.strand sid
      let src : Ty := if fFMT f = 2 then .f32 else .s32
      let val (l : Nat) : W64 := convert src ty (fRM f) (fFZ f) ((accRead s t.core c.bank row l).zeroExtend 64)
      let t := { t with rets := t.rets.map (fun r =>
        if r.ord = c.ord then { r with units := r.units.map (fun x => { x with val := some (val x.lane) }) } else r) }
      .next (wakeAll (mxDone (s.setStrand sid t) sid c.ord))
    | _ => .next s

/-- The element (i, n) of an MST as bytes (R216). -/
def mstElem (s : State) (t : Strand) (bank : Nat) (ty : Ty) (f : W32) (w a : Array Byte) (i n : Nat) : List Byte :=
  let x := accValue (fFMT f) (accRead s t.core bank i n)
  let x := if 1 ≤ fSCL f then fvMul x (scaleEntry w n) else x
  let x := if fSCL f = 2 then fvMul x (scaleEntry a i) else x
  toBytes ty.bytes (storeConv ty (fRM f) (fFZ f) x).toNat

/-- An MST with the pieces of its scale tiles set. -/
def MKind.withScales (ws as : Pieces) : MKind → MKind
  | .mst sp base rs ty f w a _ _ n => .mst sp base rs ty f w a ws as n
  | k => k

/-- An MST with `n` elements written. -/
def MKind.withDone (n : Nat) : MKind → MKind
  | .mst sp base rs ty f w a ws as _ => .mst sp base rs ty f w a ws as n
  | k => k

/-- An MST leaves its channel once its elements are performed at its scope (R217). -/
def mstSettle (s : State) (u ord : Nat) : State :=
  match (s.strand u).mx.cmds.find? (fun c => decide (c.ord = ord)) with
  | none => s
  | some c =>
    match c.kind with
    | .mst _ _ _ _ _ _ _ _ _ n => if n = 4096 ∧ engineDone s u ord c.sc = true then mxDone s u ord else s
    | _ => s

/-- How far an MST with `n` elements to write now may go from element `done`: element (63, 63) of a release follows the others once they are performed (R204, R257). -/
def mstUpTo (s : State) (u : Nat) (c : MCmd) (done n : Nat) : Nat :=
  let stop := if Ordn.isRel c.o && !(decide (done = 4095) && engineDone s u c.ord c.sc && engineReleases s u c.ord) then 4095 else 4096
  Nat.max done (Nat.min (done + n) stop)

/-- What the element writes of an MST carry: they are told from other engine writes by the KIND of MST, because they are performed in ascending order wherever they go (R216, R326). -/
def mstEntry (c : MCmd) : SEntry := { engineEntry c.ord c.tag c.sc c.pc c.cls with ikind := 22 }

/-- MST_WRITE (R216): the pieces named of the scale tiles are read; once they all are, as many more elements as named are sent in ascending (i, n) order (log 64). -/
def execMstWrite (x : MstPart) (s : State) : Host.Outcome State Fault Refusal :=
  let sid := x.sid
  match mxHead s sid with
  | none => .next s
  | some c =>
    match c.kind with
    | .mst sp base rs ty f _ _ ws as done =>
      let t := s.strand sid
      if ws.read && as.read then
        let w := (pieceBytes ws).toArray
        let a := (pieceBytes as).toArray
        let upto := mstUpTo s sid c done x.n
        let s1 := (List.range' done (upto - done)).foldl (fun s1 e1 =>
          engineSend s1 sid (mstEntry c) e1 (nearKey s t sp (base + e1 / 64 * rs + ty.bytes * (e1 % 64))) (mstElem s t c.bank ty f w a (e1 / 64) (e1 % 64))) s
        .next (wakeAll (mstSettle (modMx s1 sid c.ord (MKind.withDone upto)) sid c.ord))
      else
        let s1 := modMx s sid c.ord (MKind.withScales (readPieces s t.core x.ws ws) (readPieces s t.core x.as as))
        .next (wakeAll (s1.carryKeys t.part t.core c.cls (pieceKeys x.ws ws ++ pieceKeys x.as as)))
    | _ => .next s

/-! Engine reset (R219). -/

/-- A channel with every command discarded and their batches in error 6. -/
def MxCh.discard (m : MxCh) : MxCh :=
  { m with cmds := [], st := m.cmds.foldl (fun st (c : MCmd) => markAt st c.batch 6) m.st }.advance

/-- Every outstanding MRD of a strand delivered as zero. -/
def Strand.zeroMrd (t : Strand) : Strand :=
  let mrd (r : Ret) : Bool := decide (r.kind = .mrd)
  let t' := (t.rets.filter mrd).foldl (fun t r => r.units.foldl (fun t x => t.arrive r x 0) t) t
  { t' with rets := t.rets.filter (fun r => !mrd r) }

/-- The reset of a core's matrix engine: steps 1 to 5 of R219, and ENGRESET of its partition (R345). Element writes of an MST that were sent before it are still performed (DESIGN CHOICE, log 52). -/
def resetEngine (s : State) (c : Nat) : State :=
  let here (t : Strand) : Bool := decide (t.core = c) && t.life.onCore && decide ((s.part t.part).st = .live)
  let holds (t : Strand) : Bool := t.life.live && decide ((s.frame t.frame).heldOn c ≠ 0) && decide ((s.part t.part).st = .live)
  let s1 := { s with
    mem := s.mem.clear (accKey c 0 0) 262144
    strands := s.strands.map (fun (e : Nat × Strand) =>
      let t := if here e.2 then { e.2.zeroMrd with mx := e.2.mx.discard } else e.2
      (e.1, if holds e.2 then { t with mx := { t.mx with rst := true } } else t))
    frames := s.frames.map (fun (e : Nat × Frame) =>
      (e.1, if (s.part e.2.part).st = PartSt.live then { e.2 with latch := Tbl.set Latch.reset e.2.latch c Latch.reset } else e.2)) }
  let owner := s.parts.find? (fun e => decide (e.2.st ≠ .free) && (coresOf e.2.rcd.clm).contains c)
  let s2 := match owner with
    | some (p, _) => s1.modErrs p (fun e => { e with engreset := satAdd e.engreset 1 })
    | none => { s1 with errs := { s1.errs with engreset := satAdd s1.errs.engreset 1 } }
  wakeAll { s2 with testing := if s2.testing.contains (HwUnit.engine c) then s2.testing else s2.testing ++ [HwUnit.engine c] }

/-- ENGINE_HANG (R219): a matrix command of the core has run 2^24 master cycles without committing. -/
def execEngineHang (core : Nat) (s : State) : Host.Outcome State Fault Refusal :=
  if pendingOn s core = [] then .next s else .next (resetEngine s core)

end Sys2Proof.Machine
end

