-- ==== Sys2Proof/Machine/Arrive.lean ====
section
/-! DEFINITION. Arrive.lean: returns (R74, R76), the store queue's head leaving (R183), the append of SPAWN (R272), writes and atomic steps at their ordering points (R178, R183, R330, R331), and the fault of a fetched word (R53). -/

namespace Sys2Proof.Machine

/-! Returns. -/

/-- A returning instruction whose values go to scalars (R76). -/
def RKind.scalar : RKind → Bool
  | .lds | .atoms | .xpull => true
  | _ => false

/-- The value that is ready for a unit of a strand's returning instruction; the shadow takes what the primary's returned (R370). -/
def Strand.readyVal (t : Strand) (r : Ret) (x : RUnit) : Option W64 := x.val.orElse (fun _ => t.mirrored r.ord x.lane)

/-- A strand that has taken one value. -/
def Strand.takeVal (t : Strand) (r : Ret) (x : RUnit) (v : W64) : Strand :=
  let t' := (t.arrive r x v).dropUnit r.ord x.lane
  { t' with mirror := t'.mirror.filter (fun e => !(decide (e.1 = 2 * r.ord + 1) && decide (e.2[0]? = some (BitVec.ofNat 64 x.lane)))) }

/-- The checkpoint of a braced strand takes the values of the instructions before it (R370). -/
def ckptTake (s : State) (u : Nat) (r : Ret) (x : RUnit) (v : W64) : State :=
  let c := Tbl.get Strand.blank s.ckpts u
  if c.rets.any (fun y => decide (y.ord = r.ord)) then { s with ckpts := Tbl.set Strand.blank s.ckpts u (c.takeVal r x v) } else s

/-- A value delivered: to its lane or scalar, its kept result freed (R329), and the strand taken up if it waited for it. -/
def deliver (s : State) (u : Nat) (r : Ret) (x : RUnit) (v : W64) : State :=
  let t := s.strand u
  let p := s.part t.part
  let s1 := (s.setStrand u (t.takeVal r x v)).setPart t.part { p with results := p.results.filter (fun e => decide (e.1 ≠ (r.tag, x.lane))) }
  wakeOne (ckptTake s1 u r x v) u

/-- One value of an LDB or PLDM read, when it may be (R156, R176). -/
def lockArrival (s : State) (u ord lane : Nat) : State :=
  match (s.strand u).locks.find? (fun r => decide (r.ord = ord)) with
  | none => s
  | some r =>
    match r.units.find? (fun x => decide (x.lane = lane)) with
    | some x => if loadFree s u r.ord x.key r.size then readLock s u r x else s
    | none => s

/-- The return of one value of a strand's instruction, if it is ready; a near load that is not performed is performed first, when it may be, and returns later; a value of an LDB or PLDM is read. -/
def returnOne (s : State) (sid ord lane : Nat) (scalar : Bool) : State :=
  let t := s.strand sid
  if s.works sid && t.life.live then
    match t.rets.find? (fun r => decide (r.ord = ord) && decide (r.kind.scalar = scalar)) with
    | none => lockArrival s sid ord lane
    | some r =>
      match r.units.find? (fun x => decide (x.lane = lane)) with
      | none => s
      | some x =>
        match t.readyVal r x with
        | some v => deliver s sid r x v
        | none => performLoad s sid r x
  else s

/-- RETURN_ARRIVAL (R74). -/
def execReturnArrival (sid ord lane : Nat) (s : State) : Host.Outcome State Fault Refusal := .next (returnOne s sid ord lane false)

/-- SCALAR_RETURN (R76). -/
def execScalarReturn (sid ord which : Nat) (s : State) : Host.Outcome State Fault Refusal := .next (returnOne s sid ord which true)

/-! Leaving the store queue. -/

/-- No strand of the core but `u` has passed an unperformed load of these bytes, or has made a load of them before atomics of its own that have not left their queue (R186). -/
def notAwaited (s : State) (u : Nat) (l : List (Nat × Nat)) : Bool :=
  s.strands.all (fun w => decide (w.1 = u) || decide (w.2.core ≠ (s.strand u).core)
    || (w.2.loads.all (fun r => !r.passed || l.all (fun a => !r.openAt a.1 a.2))
        && w.2.ahead.all (fun x => atomsLeft w.2 x.1 || l.all (fun a => !overlap a.1 a.2 x.2.1 x.2.2))))

/-- The head of a strand's store queue may leave: the fences before it are met, as a release it waits for every earlier access (R183), the acquires before it are performed (R189), and it keeps the order of the core (R185, R186). -/
def mayLeave (s : State) (u : Nat) (e : SEntry) : Bool :=
  s.works u && (s.strand u).fences.all (fun f => decide (e.ord ≤ f.1) || performedBefore s u f.1 f.2)
    && (!Ordn.isRel e.o || performedBefore s u e.ord e.sc)
    && acquiresDone s u e.ord && (ranges s e).all (fun a => mayPass s u e.ord a.1 a.2) && notAwaited s u (ranges s e)

/-- The strand without the head of its queue; the fences that it met are forgotten, and the loads it passed are marked. -/
def Strand.leave (t : Strand) (e : SEntry) : Strand :=
  { t.pass e.ord with sq := t.sq.drop 1, fences := t.fences.filter (fun f => decide (e.ord ≤ f.1)) }

/-- The units of an entry on their way to their ordering points, behind those that left before (R183). -/
def send (s : State) (u : Nat) (e : SEntry) (units : List SUnit) (snap : Bool) : State :=
  let c := (s.strand u).core
  s.setCore c ((s.core c).send (units.map (fun y => { sid := u, entry := { e with units := [] }, u := y, snap := snap, num := 0 })))

/-! Braced stores (R370). -/

/-- One byte through CRC-64/ECMA-182 (PRESUMED polynomial 0x42F0E1EBA9EA3693, log 45). -/
def crcByte (c : W64) (b : Byte) : W64 :=
  (List.range 8).foldl (fun (c : W64) _ => if c.getLsbD 63 then (c <<< 1) ^^^ 0x42F0E1EBA9EA3693 else c <<< 1) (c ^^^ ((b.zeroExtend 64) <<< 56))

/-- The address of a byte as both copies of a braced strand name it: the vault byte, or the half and offset in the frame's allocation. -/
def braceAddr (s : State) (t : Strand) (k : Nat) : Nat :=
  let f := s.frame t.frame
  if isVault k then k
  else ((f.cores.zip f.bases).zipIdx.findSome? (fun e =>
    let b := spadKey e.1.1 e.1.2
    if b ≤ k ∧ k < b + f.spb then some (e.2 * 2 ^ 40 + (k - b)) else none)).getD 0

/-- The signature after one write: its address in 8 bytes, its size in 1, its data. -/
def signWrite (s : State) (t : Strand) (sig : W64) (k : Nat) (d : List Byte) : W64 :=
  (toBytes 8 (braceAddr s t k) ++ toBytes 1 d.length ++ d).foldl crcByte sig

/-- The writes of an entry. -/
def SEntry.plain (e : SEntry) : List (Nat × List Byte) :=
  e.units.filterMap (fun x => match x.op with
    | .write d => some (x.key, d)
    | .atom _ => none)

/-- The bytes held by a braced strand. -/
def Strand.heldBytes (t : Strand) : Nat := sumOf (fun h => h.2.length) t.held

/-- The writes of an entry that a braced strand would hold. -/
def vaultWrites (e : SEntry) : List (Nat × List Byte) := e.plain.filter (fun w => isVault w.1)

/-- How many leading units a brace buffer with `room` bytes takes. -/
def braceTake : Nat → List SUnit → Nat
  | _, [] => 0
  | room, x :: r =>
    match x.op with
    | .write d => if isVault x.key then (if d.length ≤ room then braceTake (room - d.length) r + 1 else 0) else braceTake room r + 1
    | .atom _ => braceTake room r + 1

/-- The brace buffer, of 4 KiB, has no room for the next write of the queue: a comparison point (R370). -/
def bufferFull (t : Strand) : Bool :=
  match t.sq with
  | e :: _ => t.twin.isSome && decide (e.units ≠ []) && decide (braceTake (4096 - t.heldBytes) e.units = 0)
  | [] => false

/-- A unit that a braced strand sends at once: an atomic, or a write of its own allocation. -/
def SUnit.goes (x : SUnit) : Bool :=
  match x.op with
  | .write _ => !isVault x.key
  | .atom _ => true

/-- An entry of writes and atomic steps leaves; a braced strand signs its writes and holds those to vaults, and what its buffer does not take stays at the head of its queue until the next comparison. -/
def leaveUnits (s : State) (u : Nat) (e : SEntry) : State :=
  let t := s.strand u
  if t.twin.isSome then
    let n := braceTake (4096 - t.heldBytes) e.units
    let out := { e with units := e.units.take n }
    let t1 := if e.units.drop n = [] then t.leave e else { t.pass e.ord with sq := { e with units := e.units.drop n } :: t.sq.drop 1 }
    let t' := { t1 with
      sig := out.plain.foldl (fun g w => signWrite s t g w.1 w.2) t.sig
      held := t.held ++ vaultWrites out }
    send (s.setStrand u t') u e (out.units.filter SUnit.goes) false
  else send (s.setStrand u (t.leave e)) u e e.units false

/-- STORE_QUEUE_LEAVE (R183): the head leaves; a DEP acts on its counter (R273), an XCTL.SNAP makes its step and sends its words (R298), a SPAWN leaves by SPAWN_APPEND. -/
def execStoreQueueLeave (sid : Nat) (s : State) : Host.Outcome State Fault Refusal :=
  let t := s.strand sid
  match t.sq with
  | [] => .next s
  | e :: _ =>
    if !mayLeave s sid e || bufferFull t then .next s
    else match e.kind with
      | .units => .next (wakeOne (leaveUnits s sid e) sid)
      | .dep c add => .next (wakeOne ((s.setStrand sid (t.leave e)).setCounter c (s.counter c + add)) sid)
      | .snap words k0 =>
        let (p, l) := (s.part t.part).snap k0 0 words.length
        let units := (words.zip l).zipIdx.map (fun w => ({ unit := w.2, key := w.1.1, op := .write (toBytes 4 w.1.2.toNat), off := 0 } : SUnit))
        .next (wakeOne (send ((s.setStrand sid (t.leave e)).setPart t.part p) sid e units true) sid)
      | .spawn _ _ => .next s

/-- The record of a SPAWN at the head of its strand's queue written behind the last one of its queue, and published (R272). -/
def appendRecord (s : State) (u : Nat) (e : SEntry) (q : Nat) (b : List Byte) : State :=
  let t := s.strand u
  let p := s.part t.part
  let x := p.queue q
  let s1 := ({ s with mem := s.mem.writeL (windowKey p (x.at x.tail)) b }).carryWindow t.part (dieOf t.core) (x.at x.tail) 128 e.cls
  (s1.setStrand u (t.leave e)).setPart t.part (Part.moveTail s1.mem p q (x.tail + 1))

/-- SPAWN_APPEND (R272): once the entry may leave and its queue has room, the pieces named of its record are read near, each a single-copy atomic access of 16 bytes, and with the last of them the record is appended; in what order the eight are read the spec does not say, and any order may be named. -/
def execSpawnAppend (x : SpawnPart) (s : State) : Host.Outcome State Fault Refusal :=
  let t := s.strand x.sid
  match t.sq with
  | [] => .next s
  | e :: _ =>
    match e.kind with
    | .spawn pieces q =>
      let y := (s.part t.part).queue q
      if !mayLeave s x.sid e || decide (2 ^ y.sz ≤ y.len) then .next s
      else
        let l := readPieces s t.core x.pieces pieces
        let s1 := s.carryKeys t.part t.core e.cls (pieceKeys x.pieces pieces)
        if l.read then .next (wakeOne (appendRecord s1 x.sid e q (pieceBytes l)) x.sid)
        else .next (s1.setStrand x.sid { t with sq := { e with kind := .spawn l q } :: t.sq.drop 1 })
    | _ => .next s

/-! At the ordering points. -/

/-- Two sent units are elements of one MST, which are performed in ascending order wherever they go (R216). -/
def Sent.sameMst (x e : Sent) : Bool := decide (x.entry.ikind = 22) && decide (e.entry.ikind = 22) && decide (x.sid = e.sid) && decide (x.ord = e.ord)

/-- The entry at a place among a core's sent ones, when it is the first to its ordering point (R183). -/
def arrivable (s : State) (core idx : Nat) : Option Sent :=
  let l := (s.core core).sent
  match l[idx]? with
  | none => none
  | some e => if (l.take idx).all (fun x => decide (pointOf x.u.key ≠ pointOf e.u.key) && !x.sameMst e) then some e else none

/-- A core without one of its sent entries. -/
def dropSent (s : State) (core idx : Nat) : State := s.setCore core { s.core core with sent := (s.core core).sent.eraseIdx idx }

/-- The request of a sent unit carried to its ordering point: one for each line of 128 bytes that a pass reaches in the vaults, with the last of its units; the unit itself is no longer among those that `s` holds as sent (R12, R170). -/
def carrySent (s : State) (core : Nat) (e : Sent) : State :=
  if (s.core core).sent.any (fun x => decide (x.sid = e.sid) && decide (x.ord = e.ord) && decide (x.u.pass = e.u.pass) && decide (x.u.key / 128 = e.u.key / 128)) then s
  else s.carryNear e.tag.part core e.u.key e.u.len e.entry.cls

/-- The bytes of a sent write at their ordering point; a word of a braced primary's snapshot reaches its shadow's allocation too (R370). -/
def writeSent (s : State) (e : Sent) (d : List Byte) : State :=
  if e.snap then engineWrite s (s.strand e.sid) e.u.key d else { s with mem := s.mem.writeL e.u.key d }

/-- A write performed at its ordering point; a replayed one that was performed before the freeze is suppressed and its tag removed (R330). -/
def performWrite (s : State) (e : Sent) (d : List Byte) : State :=
  let p := s.part e.tag.part
  if suppressed s e then
    s.setPart e.tag.part { p with tags := p.tags.filter (· ≠ (e.tag, e.u.unit)) }
  else writeSent s e d

/-- The engine command whose write has been performed is VISIBLE if that was its last (R217, R256). -/
def engineArrived (s : State) (e : Sent) : State := if e.engine then mstSettle (settle s e.sid e.ord) e.sid e.ord else s

/-- WRITE_ARRIVAL (R183): acknowledged to the core at once, so that no write tag stays (R329). -/
def execWriteArrival (core idx : Nat) (s : State) : Host.Outcome State Fault Refusal :=
  match arrivable s core idx with
  | none => .next s
  | some e =>
    match e.u.op with
    | .atom _ => .next s
    | .write d =>
      let s1 := carrySent (performWrite (dropSent s core idx) e d) core e
      .next (if e.engine then wakeAll (engineArrived s1 e) else wakeOne s1 e.sid)

/-- The value that an atomic step returns (R178). -/
def stepValue (kind : RKind) (ty : Ty) (old : W32) : W64 :=
  match kind, ty with
  | .atoms, .s32 => old.signExtend 64
  | _, _ => old.zeroExtend 64

/-- The result of a step given to the strand's instruction, and to its shadow's; the second value says that the instruction still waits for it. -/
def giveResult (s : State) (e : Sent) (ty : Ty) (old : W32) : State × Bool :=
  let t := s.strand e.sid
  match t.rets.find? (fun r => decide (r.ord = e.ord) && (decide (r.kind = .atom) || decide (r.kind = .atoms))) with
  | none => (s, false)
  | some r =>
    let v := stepValue r.kind ty old
    (mirrorVal (s.setStrand e.sid (t.perform e.ord e.u.unit v)) e.sid e.ord e.u.unit v, r.units.any (fun y => decide (y.lane = e.u.unit)))

/-- The memory after one atomic step (R177). -/
def stepMem (m : Memory) (k : Nat) (a : AStep) (old : W32) : Memory :=
  let new := atomNew a.op a.ty old a.d a.e
  if AtomOp.onlyNew a.op && decide (new = old) then m else m.writeL k (toBytes 4 new.toNat)

/-- One atomic step of a strand in near memory; that of a braced primary on its own allocation reaches its shadow's too (R177, R370). -/
def makeStep (s : State) (u k : Nat) (a : AStep) (old : W32) : State :=
  let m := stepMem s.mem k a old
  match twinKey s (s.strand u) k with
  | some k' => { s with mem := m.writeL k' (m.readN k 4) }
  | none => { s with mem := m }

/-- The kept result of a replayed step that was made before the freeze (R331). -/
def keptResult (s : State) (e : Sent) : Option W32 :=
  if e.replayed then ((s.part e.tag.part).results.find? (fun x => decide (x.1 = (e.tag, e.u.unit)))).map (·.2) else none

/-- An atomic step performed: the result of a replayed one that was made before the freeze comes from the result store, whose slot is freed; otherwise the step is made and its result kept until it returns (R329, R331). -/
def performStep (s : State) (e : Sent) (a : AStep) : State :=
  let p := s.part e.tag.part
  let key := (e.tag, e.u.unit)
  match keptResult s e with
  | some x => (giveResult (s.setPart e.tag.part { p with results := p.results.filter (fun y => decide (y.1 ≠ key)) }) e a.ty x).1
  | none =>
    let old : W32 := BitVec.ofNat 32 (ofBytes (s.mem.readN e.u.key 4))
    let (s1, waits) := giveResult (makeStep s e.sid e.u.key a old) e a.ty old
    if a.res && waits then s1.setPart e.tag.part { s1.part e.tag.part with results := p.results ++ [(key, old)] } else s1

/-- Every slot of the result store of a step's partition is full, and it would need one (R329). -/
def resultsFull (s : State) (e : Sent) : Bool := (keptResult s e).isNone && decide (Config.resultSlots ≤ (s.part e.tag.part).results.length)

/-- The strand of a step that is an acquire (R189). -/
def stepAcquires (s : State) (e : Sent) : State := if Ordn.isAcq e.entry.o then s.setStrand e.sid ((s.strand e.sid).acquires s) else s

/-- ATOMIC_STEP (R178): held back while every slot of the result store is full (R329). -/
def execAtomicStep (core idx : Nat) (s : State) : Host.Outcome State Fault Refusal :=
  match arrivable s core idx with
  | none => .next s
  | some e =>
    match e.u.op with
    | .write _ => .next s
    | .atom a =>
      if resultsFull s e then .next s
      else .next (wakeOne (carrySent (stepAcquires (performStep (dropSent s core idx) e a) e) core e) e.sid)

/-! The fault of a word. -/

/-- FETCH_FAULT (R53): the running strand takes the fault of the word at its PC. -/
def execFetchFault (c : FetchErr) (s : State) : Host.Outcome State Fault Refusal :=
  let t := s.me
  if t.life = .running then .next (takeFault s s.cur (fetchCode c) 0 t.pc t.pc) else .next s

end Sys2Proof.Machine
end

