-- ==== Sys2Proof/Machine/Brace.lean ====
section
/-! DEFINITION. Brace.lean: the comparison points of braced execution (R370, R371). -/

namespace Sys2Proof.Machine

/-- A done mark no later than the last batch of a checkpoint. -/
def backMark (last done : W32) : W32 := if atOrBefore done last then done else last

/-- A copy channel at a checkpoint: the commands entered go on, and a batch closed since is open again. -/
def CopyCh.back (now old : CopyCh) : CopyCh :=
  { now with
    cmds := now.cmds.map (fun c => match c.batch with
      | some b => if atOrBefore b old.cpbatch then c else { c with batch := none }
      | none => c)
    cpbatch := old.cpbatch
    rdone := backMark old.cpbatch now.rdone
    vdone := backMark old.cpbatch now.vdone }

/-- A matrix channel at a checkpoint: the commands issued since are gone. -/
def MxCh.back (now old : MxCh) (n : Nat) : MxCh :=
  { now with
    cmds := (now.cmds.filter (fun c => decide (c.ord < n))).map (fun c => match c.batch with
      | some b => if atOrBefore b old.mxbatch then c else { c with batch := none }
      | none => c)
    mxbatch := old.mxbatch
    rdone := backMark old.mxbatch now.rdone
    vdone := backMark old.mxbatch now.vdone }

/-- An entry that a braced strand makes on its own: writes only. -/
def SEntry.onlyWrites (e : SEntry) : Bool :=
  (match e.kind with
    | .units => true
    | _ => false) && e.units.all (fun x => match x.op with
    | .write _ => true
    | .atom _ => false)

/-- A braced strand at its last checkpoint `c`: its held writes are discarded, and its own writes since are to come again; what the pair makes once goes on (R370, R371; log 61). -/
def Strand.back (now c : Strand) (misses : Nat) : Strand :=
  { c with
    life := (match c.life with
      | .parked p => .parked p
      | _ => .ready)
    core := now.core, slot := now.slot
    sq := c.sq.filter (fun e => now.sq.any (fun x => decide (x.ord = e.ord)) || e.onlyWrites)
    copy := now.copy.back c.copy
    mx := now.mx.back c.mx c.ord
    held := [], mirror := now.mirror, misses := misses, passed := false, ckDue := false }

/-- A braced strand goes back to its last checkpoint. -/
def rollback (s : State) (u misses : Nat) : State :=
  let s1 := s.setStrand u ((s.strand u).back (Tbl.get Strand.blank s.ckpts u) misses)
  match (s1.strand u).life with
  | .ready => s1.makeReady u
  | _ => wakeOne s1 u

/-- A braced strand waits at an instruction's comparison point: its own writes have left (R370). -/
def atPoint (s : State) (u : Nat) : Bool := decide ((s.strand u).life = .parked .brace) && decide ((s.strand u).sq = [])

/-- The units of a core: its datapath lanes, the banks of its scratchpad and of its accumulator memory, its matrix engine (R10, R372). -/
def coreUnits (k : Nat) : List HwUnit :=
  (List.range 32).map (HwUnit.lane k) ++ (List.range 32).map (HwUnit.spadBank k) ++ (List.range 16).map (HwUnit.accBank k) ++ [HwUnit.engine k]

/-- The units of a cluster, put under their targeted self-test (R371, R372). -/
def testCluster (s : State) (c : Nat) : State :=
  let units := (coresOf (BitVec.ofNat 32 (2 ^ c))).flatMap coreUnits
  { s with testing := s.testing ++ units.filter (fun x => !s.testing.contains x) }

/-- The primary's held writes performed in order and carried to their vaults in the class of the strand, the shadow's discarded (R12, R364, R370). -/
def releaseHeld (s : State) (u w : Nat) : State :=
  let t := s.strand u
  let s0 := s.carryKeys t.part t.core (s.classOf t) (t.held.map (fun h => (h.1, h.2.length)))
  let s1 := { s0 with mem := t.held.foldl (fun m (h : Nat × List Byte) => m.writeL h.1 h.2) s.mem }
  (s1.setStrand u { t with held := [], misses := 0 }).setStrand w { s.strand w with held := [], misses := 0 }

/-- A strand past its comparison: it is Ready to issue, or it has its checkpoint where the full buffer stopped it. -/
def passPoint (s : State) (u : Nat) (op : Bool) : State :=
  if op then (s.setStrand u { s.strand u with passed := true }).makeReady u
  else { s with ckpts := Tbl.set Strand.blank s.ckpts u (s.strand u) }

/-- A braced strand waits at a comparison point: at an instruction's, or with its buffer full (R370). -/
def waitsTwin (s : State) (u : Nat) : Bool := atPoint s u || bufferFull (s.strand u)

/-- BRACE_COMPARE (R370, R371): the signatures of a pair are compared when both wait at a comparison point; one copy at an instruction's and the other with its buffer full have gone apart, which shows here or at a later comparison. -/
def execBraceCompare (sid : Nat) (s : State) : Host.Outcome State Fault Refusal :=
  let t := s.strand sid
  match t.twin with
  | none => .next s
  | some w =>
    let x := s.strand w
    let op := atPoint s sid && atPoint s w
    if t.shadow || !s.works sid || !(waitsTwin s sid && waitsTwin s w) || !((s.core t.core).sent = []) then .next s
    else if t.sig = x.sig then .next (wakeAll (passPoint (passPoint (releaseHeld s sid w) sid op) w op))
    else if t.misses = 0 then
      let s1 := s.modErrs t.part (fun e => { e with corr := satAdd e.corr 1 })
      .next (rollback (rollback (testCluster (testCluster s1 (clusterOf t.core)) (clusterOf x.core)) sid 1) w 1)
    else
      let s1 := s.modErrs t.part (fun e => { e with uncorr := satAdd e.uncorr 1 })
      .next (wakeAll ((s1.kill sid (trapWord .uncorrectable 0) t.pc.bits).kill w (trapWord .uncorrectable 0) x.pc.bits))

end Sys2Proof.Machine
end

