-- ==== Sys2Proof/Machine/Control.lean ====
section
/-! DEFINITION. Control.lean: the control stack, branches, calls and returns, EXIT, TRAP, BKPT and OPIN (R139 to R155, R230, R232). -/

namespace Sys2Proof.Machine

/-- A structured push of `n` entries finds room: entry 31 is kept for trap delivery (R142). -/
def Strand.canPush (t : Strand) (n : Nat) : Bool := decide (t.stack.length + n ≤ 31)

/-- A strand with an entry pushed, FCOPY := F (R143). -/
def Strand.push (t : Strand) (kind : CKind) (map : LaneMap) (link : PC) : Strand :=
  { t with stack := { map := map, link := link, fcopy := t.f, kind := kind } :: t.stack }

/-- The PC value stored as LINK for an OFFSET target, judged when it is used (R141). -/
def linkOf (s : State) (t : Strand) (off : W32) : PC :=
  (targetPC s t off).getD { t.pc with word := BitVec.ofInt 14 ((t.pc.word.toNat : Int) + off.toInt) }

/-- A taken transfer to an OFFSET target from the strand `t`: ILLEGAL-ENCODING outside the overlay (R43). -/
def jumpTo (s : State) (t : Strand) (off : W32) (next : Strand) : Res :=
  match targetPC s t off with
  | some pc => .jump (s.setMe next) pc 1
  | none => .trap .illegalEncoding 0

/-- NOP (R154). -/
def execNop (k : Marks) (hint : BitVec 53) (s : State) : Host.Outcome State Fault Refusal :=
  issue (.nop k hint) ⟨k, 0x00, 2, .plain⟩ s (fun s => .done s 1)

/-- IF (R144). -/
def execIf (k : Marks) (p : MCode) (off : W32) (s : State) : Host.Outcome State Fault Refusal :=
  issue (.if_ k p off) ⟨k, 0x01, 2, .plain⟩ s (fun s =>
    let t := s.me
    let n := t.scope &&& t.mapReg p
    let t' := t.push .if_ n (linkOf s t off)
    if !t.canPush 1 then .trap .stackDepth 0
    else if n = 0 then jumpTo s t off t'
    else .done (s.setMe t') 1)

/-- ELSE (R145). -/
def execElse (k : Marks) (off : W32) (s : State) : Host.Outcome State Fault Refusal :=
  issue (.else_ k off) ⟨k, 0x02, 2, .plain⟩ s (fun s =>
    let t := s.me
    match t.stack with
    | e :: b :: r =>
      if e.kind ≠ .if_ then .trap .stackDepth 0
      else
        let alt := b.map &&& (t.all ^^^ (e.map &&& t.all))
        let t' := { t with f := e.fcopy, stack := { e with kind := .else_, map := alt, link := linkOf s t off } :: b :: r }
        if alt = 0 then jumpTo s t off t' else .done (s.setMe t') 1
    | _ => .trap .stackDepth 0)

/-- ENDIF (R146). -/
def execEndif (k : Marks) (s : State) : Host.Outcome State Fault Refusal :=
  issue (.endif k) ⟨k, 0x03, 2, .plain⟩ s (fun s =>
    let t := s.me
    match t.stack with
    | e :: r => if e.kind = .if_ ∨ e.kind = .else_ then .done (s.setMe { t with f := e.fcopy, stack := r }) 1 else .trap .stackDepth 0
    | [] => .trap .stackDepth 0)

/-- LOOP (R147). -/
def execLoop (k : Marks) (off : W32) (s : State) : Host.Outcome State Fault Refusal :=
  issue (.loop k off) ⟨k, 0x04, 2, .plain⟩ s (fun s =>
    let t := s.me
    let t' := (t.push .lhead t.scope (linkOf s t off)).push .lbody t.scope PC.zero
    if !t.canPush 2 then .trap .stackDepth 0
    else if t.scope = 0 then jumpTo s t off t'
    else .done (s.setMe t') 1)

/-- The stack split at the highest LHEAD entry: the entries above it, it, and the entries below; none when there is no LHEAD or a CALL or TRAP entry comes first (R148). -/
def splitLoop : List CEntry → Option (List CEntry × CEntry × List CEntry)
  | [] => none
  | e :: r =>
    if e.kind = .lhead then some ([], e, r)
    else if e.kind = .call ∨ e.kind = .trap then none
    else match splitLoop r with
      | some (a, h, b) => some (e :: a, h, b)
      | none => none

/-- The lowest entry with an empty MAP: what stands above it, it, and what stands below it. -/
def splitEmpty : List CEntry → Option (List CEntry × CEntry × List CEntry)
  | [] => none
  | e :: r => match splitEmpty r with
    | some (a, x, b) => some (e :: a, x, b)
    | none => if e.map = 0 then some ([], e, r) else none

/-- BRK and CONT with the lanes `x`: the MAPs edited, then the stack settled (R148). -/
def leaveLanes (s : State) (brk : Bool) (y : MCode) : Res :=
  let t := s.me
  match splitLoop t.stack with
  | none => .trap .stackDepth 0
  | some (above, h, below) =>
    let x := t.scope &&& t.mapReg y
    let cut (e : CEntry) : CEntry := { e with map := e.map &&& (t.all ^^^ (x &&& t.all)) }
    let h' := if brk then cut h else h
    if x = 0 then .done s 1
    else match splitEmpty (above.map cut) with
      | none => .done (s.setMe { t with stack := above.map cut ++ h' :: below }) 1
      | some (gone, e, rest) =>
        let t' := { t with stack := e :: rest ++ h' :: below, f := (gone.getLast?.map (·.fcopy)).getD t.f }
        match linkPC s t (if e.kind = .lbody then h.link else e.link) with
        | some pc => .jump (s.setMe t') pc 1
        | none => .trap .illegalEncoding 0

/-- BRK (R148). -/
def execBrk (k : Marks) (y : MCode) (s : State) : Host.Outcome State Fault Refusal :=
  issue (.brk k y) ⟨k, 0x05, 2, .plain⟩ s (fun s => leaveLanes s true y)

/-- CONT (R148). -/
def execCont (k : Marks) (y : MCode) (s : State) : Host.Outcome State Fault Refusal :=
  issue (.cont k y) ⟨k, 0x06, 2, .plain⟩ s (fun s => leaveLanes s false y)

/-- ENDLOOP (R149). -/
def execEndloop (k : Marks) (off : W32) (s : State) : Host.Outcome State Fault Refusal :=
  issue (.endloop k off) ⟨k, 0x07, 2, .plain⟩ s (fun s =>
    let t := s.me
    match t.stack with
    | e :: h :: r =>
      if e.kind ≠ .lbody ∨ h.kind ≠ .lhead then .trap .stackDepth 0
      else if h.map ≠ 0 then jumpTo s t off { t with stack := { e with map := h.map } :: h :: r }
      else .done (s.setMe { t with f := h.fcopy, stack := r }) 1
    | _ => .trap .stackDepth 0)

/-- BRA (R151). -/
def execBra (k : Marks) (c : BraCond) (off : W32) (s : State) : Host.Outcome State Fault Refusal :=
  issue (.bra k c off) ⟨k, 0x08, 2, .plain⟩ s (fun s =>
    if c.taken s.me then jumpTo s s.me off s.me else .done s 1)

/-- CALL (R152). -/
def execCall (k : Marks) (off : W32) (s : State) : Host.Outcome State Fault Refusal :=
  issue (.call k off) ⟨k, 0x09, 2, .plain⟩ s (fun s =>
    let t := s.me
    if !t.canPush 1 then .trap .stackDepth 0 else jumpTo s t off (t.push .call t.scope (nextPC s t 2)))

/-- OCALL (R230). -/
def execOcall (k : Marks) (sk : SCode) (off : W32) (s : State) : Host.Outcome State Fault Refusal :=
  issue (.ocall k sk off) ⟨k, 0x0A, 2, .plain⟩ s (fun s =>
    let t := s.me
    let x := t.s sk
    let id : BitVec 24 := x.extractLsb' 0 24
    let c := s.core t.core
    if x.extractLsb' 24 40 ≠ 0 then .trap .illegalOperand 0
    else if off.toInt < 0 ∨ 16384 ≤ off.toInt then .trap .illegalEncoding 0
    else if x = 0 ∧ t.priv = false then .trap .privilege 0
    else if c.resident id = none then .trap .overlayAbsent id.toNat
    else match c.pcAt id off.toNat with
      | none => .trap .illegalEncoding 0
      | some pc => if !t.canPush 1 then .trap .stackDepth 0 else .jump (s.setMe (t.push .call t.scope (nextPC s t 2))) pc 1)

/-- The return through the highest entry of a kind: its FCOPY and its LINK, whose generation must hold (R152). -/
def returnTo (s : State) (kind : CKind) (stops : List CKind) : Res :=
  let t := s.me
  match popTo kind stops t.stack with
  | none => .trap .stackDepth 0
  | some (e, r) =>
    if (s.core t.core).slotAt e.link = none then .trap .codeReplaced 0
    else .jump (s.setMe { t with f := e.fcopy, stack := r }) e.link 1

/-- RET (R152). -/
def execRet (k : Marks) (s : State) : Host.Outcome State Fault Refusal :=
  issue (.ret k) ⟨k, 0x0B, 2, .plain⟩ s (fun s => returnTo s .call [.trap])

/-- RETT, the return from an exception (R152). -/
def execRett (k : Marks) (s : State) : Host.Outcome State Fault Refusal :=
  issue (.rett k) ⟨k, 0x0B, 2, .plain⟩ s (fun s => returnTo s .trap [])

/-- EXIT (R155). -/
def execExit (k : Marks) (s : State) : Host.Outcome State Fault Refusal :=
  issue (.exit k) ⟨k, 0x0C, 2, .engine⟩ s (fun s =>
    let t := s.me
    if t.rets ≠ [] then .gone (((charge s (weight s 0x0C)).setMe { t with life := .exiting }).endRun t.core)
    else if exitMismatch s s.cur then .trap .launchMismatch 0
    else .gone (wakeAll (exitNow (charge s (weight s 0x0C)) s.cur)))

/-- TRAP (R153). -/
def execTrap (k : Marks) (n : BitVec 10) (s : State) : Host.Outcome State Fault Refusal :=
  issue (.trap k n) ⟨k, 0x0E, 2, .plain⟩ s (fun _ => .trap .trap n.toNat)

/-- BKPT (R153). -/
def execBkpt (k : Marks) (n : BitVec 10) (s : State) : Host.Outcome State Fault Refusal :=
  issue (.bkpt k n) ⟨k, 0x0E, 2, .plain⟩ s (fun _ => .trap .bkpt n.toNat)

/-- The slot of an OPIN, unsigned and unbounded (R232). -/
def pinSlot (t : Strand) (y : SCode) (j : BitVec 6) : Nat := (t.s y).toNat + j.toNat

/-- The PIN count of a slot changed (R232). -/
def setPin (s : State) (y : SCode) (j : BitVec 6) (f : BitVec 8 → BitVec 8) : Res :=
  let t := s.me
  let n := pinSlot t y j
  if 64 ≤ n ∨ n = 0 then .trap .illegalOperand 0
  else
    let c := s.core t.core
    let x := c.slot n
    .done (s.setCore t.core (c.setSlot n { x with pin := f x.pin })) 1

/-- OPIN.pin (R232). -/
def execOpinPin (k : Marks) (y : SCode) (j : BitVec 6) (s : State) : Host.Outcome State Fault Refusal :=
  issue (.opinPin k y j) ⟨k, 0x0F, 2, .plain⟩ s (fun s => setPin s y j (fun p => if p = 255 then p else p + 1))

/-- OPIN.unpin (R232). -/
def execOpinUnpin (k : Marks) (y : SCode) (j : BitVec 6) (s : State) : Host.Outcome State Fault Refusal :=
  issue (.opinUnpin k y j) ⟨k, 0x0F, 2, .plain⟩ s (fun s => setPin s y j (fun p => if p = 0 then p else p - 1))

/-- STATE of a slot as a code (R221). -/
def SlotSt.code : SlotSt → Nat
  | .empty => 0
  | .loading => 1
  | .loaded => 2
  | .firmware => 3

/-- The word OPIN.query returns (R232). -/
def slotWord (x : Slot) : W64 :=
  BitVec.ofNat 64 (x.gen.toNat * 2 ^ 48 + x.pin.toNat * 2 ^ 40 + x.idx.toNat * 2 ^ 36 + x.cnt.toNat * 2 ^ 32 + x.st.code * 2 ^ 24 + x.ovid.toNat)

/-- OPIN.query (R232). -/
def execOpinQuery (k : Marks) (x y : SCode) (j : BitVec 6) (s : State) : Host.Outcome State Fault Refusal :=
  issue (.opinQuery k x y j) ⟨k, 0x0F, 2, .plain⟩ s (fun s =>
    let t := s.me
    let n := pinSlot t y j
    if 64 ≤ n then .trap .illegalOperand 0 else .done (s.setMe (t.setS x (slotWord ((s.core t.core).slot n)))) 1)

end Sys2Proof.Machine
end

