-- ==== Sys2Proof/Machine/Freeze.lean ====
section
/-! DEFINITION. Freeze.lean: pre-emption (R332 to R334), the in-flight record (R323 to R328) and the discard of idempotent frames (R338). -/

namespace Sys2Proof.Machine

/-! The in-flight record (R325, R326). -/

/-- The 24 bits of a tag (R328). -/
def Tag.bits (t : Tag) : Nat := t.part % 64 * 2 ^ 18 + t.slot % 32 * 2 ^ 13 + t.seq % 2 ^ 13

/-- Bytes filled up with zeros to a multiple of 32. -/
def pad32 (b : List Byte) : List Byte := b ++ List.replicate ((32 - b.length % 32) % 32) 0

/-- The fields of a header (R325) but for PLEN; `dest` is DEST where DV is set. -/
structure IfrFields where
  addr : W80
  tag : Nat
  aux : Nat
  dest : Option Nat
  kind : Nat
  prog : Nat
  cls : Nat
  insn : W64
  ph : Nat := 0
deriving DecidableEq, Repr

/-- An entry of its fields and its payload sections, each on a 32-byte boundary. -/
def ifrEntry (f : IfrFields) (sections : List (List Byte)) : IfrEntry :=
  let payload := sections.flatMap pad32
  let dv := match f.dest with
    | some d => 2 ^ 87 + d % 128 * 2 ^ 80
    | none => 0
  { header := BitVec.ofNat 256 (f.addr.toNat * 2 ^ 176 + f.tag % 2 ^ 24 * 2 ^ 152 + payload.length / 32 % 2 ^ 16 * 2 ^ 136
      + f.ph % 2 ^ 16 * 2 ^ 120 + f.aux % 2 ^ 32 * 2 ^ 88 + dv + f.kind % 256 * 2 ^ 72 + f.prog % 16 * 2 ^ 68 + f.cls % 4 * 2 ^ 66 + f.insn.toNat)
    payload := payload }

/-- The image of a map of lanes (R172). -/
def lanesImage (t : Strand) (l : List Nat) : List Byte := toBytes (8 * ((t.ext + 63) / 64)) (mapOf l).toNat

/-- The data of a write in 4-byte parts: the low words of all, then the high words of 64-bit ones. -/
def dataSections (l : List (List Byte)) : List (List Byte) :=
  let low := l.flatMap (fun d => toBytes 4 (ofBytes (d.take 4)))
  if l.any (fun d => decide (4 < d.length)) then [low, l.flatMap (fun d => d.drop 4)] else [low]

/-- The payload of a store-queue kind (R326). -/
def storePayload (t : Strand) (e : SEntry) : List (List Byte) :=
  let lanes := lanesImage t (e.units.map (·.unit))
  let offs := e.units.flatMap (fun x => toBytes 4 x.off.toNat)
  let data := e.plain.map (·.2)
  let steps := e.units.filterMap (fun x => match x.op with
    | .atom a => some a
    | .write _ => none)
  let es := if steps.any (fun a => decide (a.op = .cas)) then [steps.flatMap (fun a => toBytes 4 a.e.toNat)] else []
  match e.ikind with
  | 3 => lanes :: offs :: dataSections data
  | 7 => lanes :: offs :: steps.flatMap (fun a => toBytes 4 a.d.toNat) :: es
  | 8 => es
  | 13 => (match e.kind with
    | .dep _ add => [toBytes 4 add.toNat]
    | _ => [])
  | 4 | 5 | 6 => [data.flatten]
  | _ => []

/-- CLS of a KIND (R326). -/
def kindClass (k : Nat) : Nat := if k ∈ [1, 2, 18, 21] then 0 else if k ∈ [7, 8, 9, 10, 11, 12, 13, 24] then 2 else 1

/-- The entry of a store-queue operation that returns nothing. -/
def storeIfr (t : Strand) (e : SEntry) : IfrEntry :=
  ifrEntry { addr := e.addr, tag := e.tag.bits, aux := e.aux.toNat, dest := none, kind := e.ikind,
             prog := if e.replayed then 1 else 0, cls := kindClass e.ikind, insn := e.insn } (storePayload t e)

/-- PROG of a returning instruction: its step is still in the queue or the MRD in its channel, it has left, or it is performed (R325). -/
def retProg (t : Strand) (r : Ret) : Nat :=
  if r.units.all (fun x => x.val.isSome) then 2
  else if r.kind = .mrd then 0
  else if t.sq.any (fun e => decide (e.ord = r.ord) && !e.replayed) then 0 else 1

/-- The entry of a returning instruction, for what has not returned; none for an XPULL not popped. -/
def retIfr (t : Strand) (r : Ret) : Option IfrEntry :=
  let lanes := lanesImage t (r.units.map (·.lane))
  let f (kind aux : Nat) : IfrFields :=
    { addr := r.addr, tag := if kindClass kind = 0 then 0 else r.tag.bits, aux := aux, dest := some (if r.kind.scalar then (r.dests.headD 0).toNat else r.dest),
      kind := kind, prog := retProg t r, cls := kindClass kind, insn := r.insn }
  let col (g : RUnit → W32) : List Byte := r.units.flatMap (fun x => toBytes 4 (g x).toNat)
  let cas (l : List (List Byte)) : List (List Byte) := if r.insn.extractLsb' 11 4 = 7 then l else []
  match r.kind with
  | .ld => some (ifrEntry (f 1 0) [lanes, col (·.off)])
  | .lds => some (ifrEntry (f 2 0) [])
  | .atom => some (ifrEntry (f 7 0) (lanes :: col (·.off) :: col (·.d) :: cas [col (·.e)]))
  | .atoms => some (ifrEntry (f 8 ((r.units.head?.map (·.d.toNat)).getD 0)) (cas [col (·.e)]))
  | .mrd => some (ifrEntry (f 21 (((t.mx.cmds.find? (fun c => decide (c.ord = r.ord))).bind (·.batch)).getD 0).toNat) [lanes])
  | .ldb | .pldm => none
  | .xpull => if r.four = [] then none else some (ifrEntry (f 10 0) [r.four.flatMap (fun v => toBytes 8 v.toNat)])

/-- KIND of a copy-channel command. -/
def CmdKind.num : CmdKind → Nat
  | .cpy _ _ _ => 14
  | .gather _ => 15
  | .sort _ _ _ _ _ => 16
  | .ovld _ _ _ => 17
  | .tinv _ _ _ _ _ => 18

/-! The payload of an engine command: the words behind its first, the values fixed at issue, a bitmap of its units not done (R326); the spec gives the values no layout, and the model's is this (DESIGN CHOICE, log 62). -/

/-- Numbers of 10 bytes each. -/
def numBytes (l : List Nat) : List Byte := l.flatMap (toBytes 10)

/-- A place: 0 none, 1 near, 2 far, and its address. -/
def Loc.nums : Option Loc → List Nat
  | none => [0, 0]
  | some (.near k) => [1, k]
  | some (.far a) => [2, a.toNat]

/-- A bitmap of unit indexes. -/
def unitMap (l : List Nat) : List Byte := toBytes ((l.foldl Nat.max 0) / 8 + 1) (l.foldl (fun m i => m ||| 2 ^ i) 0)

/-- The indexes of the units of a command that are not done (R328). -/
def Cmd.left (c : Cmd) : List Nat :=
  match c.kind with
  | .sort _ _ _ n k => if c.readDone then c.units.map (·.unit) else List.range n ++ (List.range (2 * k)).map (65536 + ·)
  | _ => c.units.map (·.unit)

/-- The places of a unit, behind its index. -/
def CUnit.nums (x : CUnit) : List Nat := x.unit :: (Loc.nums x.src ++ Loc.nums x.dst)

/-- The values that a command fixed at issue: the places of each lane of CPY, of the first chunk not done of each row of CPGATHER, the first of an overlay; the addresses of SORT and TINV. -/
def Cmd.values (c : Cmd) : List Nat :=
  match c.kind with
  | .cpy _ _ _ => c.units.flatMap CUnit.nums
  | .gather _ => ((c.units.map (·.lane)).dedup.filterMap (fun l => c.units.find? (fun x => decide (x.lane = l)))).flatMap CUnit.nums
  | .sort a b tb n k => [a, b, tb, n, k]
  | .ovld j n gens => [j, n] ++ gens.map (·.toNat) ++ (c.units.take 1).flatMap CUnit.nums
  | .tinv asid a n _ _ => [(asid.map (·.toNat)).getD (2 ^ 16), a.toNat, n]

/-- The entries of a copy-channel command: it, and its counter decrement; AUX of both is the number of the command's batch, 0 while it is in none (DESIGN CHOICE, log 88). -/
def cmdIfr (c : Cmd) : List IfrEntry :=
  let batch := (c.batch.map (·.toNat)).getD 0
  let kind := c.kind.num
  let insn := c.insn.extractLsb' 0 64
  let begun : Bool := match c.kind with
    | .tinv _ _ _ started _ => started
    | _ => c.started
  let main := ifrEntry { addr := c.addr, tag := if kind = 18 then 0 else c.tag.bits, aux := batch, dest := none, kind := kind,
                         prog := if begun then 1 else 0, cls := kindClass kind, insn := insn }
    [toBytes 12 (c.insn.extractLsb' 32 96).toNat, numBytes c.values, unitMap c.left]
  match c.counter with
  | none => [main]
  | some (i, remote) =>
    [main, ifrEntry { addr := 0, tag := c.ctrTag.bits, aux := batch, dest := none, kind := 24, prog := 0, cls := 2, insn := insn }
      [toBytes 4 i ++ toBytes 4 (if remote then 1 + (c.onePeer.getD 0) else 0)]]

/-- The numbers of a B descriptor (R211). -/
def BDesc.nums (d : BDesc) : List Nat :=
  [d.sp.code.toNat, d.sb.toNat, d.spl.toNat, d.sm.toNat, d.ty.code.toNat, (if d.maj then 1 else 0), d.fmt, d.pl, d.spn]

/-- The values that a matrix command fixed at issue, with the B descriptor and the rows of MMA, and its units not done. -/
def MCmd.values (c : MCmd) : List Nat × List Nat :=
  match c.kind with
  | .mma rows d _ _ _ _ => (c.bank :: d.nums ++ rows.flatMap (fun r => [r.1, r.2]), [0])
  | .mst sp base rs ty f w a _ _ n => ([c.bank, sp.code.toNat, base, rs, ty.code.toNat, f.toNat, w, a], List.range' n (4096 - n))
  | .mfree m => ([m.toNat], [0])
  | .mzero | .mrd _ _ _ => ([c.bank], [0])

/-- Some piece is read. -/
def Pieces.begun (l : Pieces) : Bool := List.any l (fun e => e.2.isSome)

/-- The entry of a matrix command; an MRD that awaits values is recorded with the returning instructions. -/
def mxIfr (t : Strand) (c : MCmd) : Option IfrEntry :=
  let begun : Bool := match c.kind with
    | .mma _ _ _ _ a b => a.begun || b.begun
    | .mst _ _ _ _ _ _ _ ws as n => ws.begun || as.begun || decide (n ≠ 0)
    | _ => false
  let aux : Nat := (c.batch.map (·.toNat)).getD 0
  let out (kind : Nat) : Option IfrEntry :=
    some (ifrEntry { addr := 0, tag := c.tag.bits, aux := aux, dest := none, kind := kind, prog := if begun then 1 else 0,
                     cls := kindClass kind, insn := c.insn.extractLsb' 0 64 }
      [toBytes 12 (c.insn.extractLsb' 32 96).toNat, numBytes c.values.1, unitMap c.values.2])
  match c.kind with
  | .mma _ _ _ _ _ _ => out 19
  | .mzero => out 20
  | .mrd _ _ _ =>
    if t.rets.any (fun r => decide (r.ord = c.ord)) then none
    else some (ifrEntry { addr := 0, tag := 0, aux := aux, dest := none, kind := 21, prog := 0, cls := 0, insn := c.insn.extractLsb' 0 64 } [lanesImage t []])
  | .mst _ _ _ _ _ _ _ _ _ _ => out 22
  | .mfree _ => out 23

/-- The entry of a MEET whose own arrival is made and whose status is outstanding (R326 kind 9, R377). -/
def meetIfr : Life → List (Nat × IfrEntry)
  | .parked (.meetWait x _ ph (some op)) =>
    [(op.ord, ifrEntry { addr := 0, tag := op.tag.bits, aux := (op.insn.extractLsb' 54 9).toNat, dest := some x.toNat, kind := 9, prog := 2, cls := 2,
                         insn := op.insn, ph := ph.toNat } [])]
  | _ => []

/-- An entry put in issue order, behind those of its own number. -/
def insIfr (x : Nat × IfrEntry) : List (Nat × IfrEntry) → List (Nat × IfrEntry)
  | [] => [x]
  | y :: r => if x.1 < y.1 then x :: y :: r else y :: insIfr x r

/-- The in-flight record of a strand at a freeze (R324, R332). -/
def makeIfr (t : Strand) : List IfrEntry :=
  let l := (t.sq.filter (fun e => !t.rets.any (fun r => decide (r.ord = e.ord)))).map (fun e => (e.ord, storeIfr t e)) ++ t.copy.cmds.flatMap (fun c => (cmdIfr c).map (fun x => (c.ord, x)))
    ++ t.mx.cmds.filterMap (fun c => (mxIfr t c).map (fun x => (c.ord, x))) ++ t.rets.filterMap (fun r => (retIfr t r).map (fun x => (r.ord, x))) ++ meetIfr t.life
  (l.foldl (fun a x => insIfr x a) []).map (·.2)

/-- The bytes of a record. -/
def ifrBytes (l : List IfrEntry) : List Byte := l.flatMap (fun e => toBytes 32 e.header.toNat ++ e.payload)

/-! What was sent (R332 step 2). -/

/-- A replayed entry put among the queue's entries in issue order, joined with its earlier units. -/
def insEntry (x : SEntry) : List SEntry → List SEntry
  | [] => [x]
  | y :: r => if y.ord = x.ord then { y with units := y.units ++ x.units } :: r else if x.ord < y.ord then x :: y :: r else y :: insEntry x r

/-- The record of the strand has room for one more store-queue entry than its queue holds, or the unit's entry is there already (R324). -/
def roomForEntry (t : Strand) (ord : Nat) : Bool := decide (t.sq.length < Config.storeQueueLen) || t.sq.any (fun x => decide (x.ord = ord))

/-- A sent unit goes back into its strand's queue, to be replayed with its tag (R335). -/
def requeue (s : State) (e : Sent) : State :=
  let t := s.strand e.sid
  s.setStrand e.sid { t with sq := insEntry { e.entry with kind := .units, units := [e.u], replayed := true } t.sq }

/-- The value of an atomic step that has been made returned at once. -/
def returnStep (s : State) (e : Sent) : State :=
  match (s.strand e.sid).rets.find? (fun r => decide (r.ord = e.ord) && (decide (r.kind = .atom) || decide (r.kind = .atoms))) with
  | none => s
  | some r =>
    match r.units.find? (fun x => decide (x.lane = e.u.unit)) with
    | none => s
    | some x => match x.val with
      | some v => if (s.strand e.sid).life.live then deliver s e.sid r x v else s
      | none => s

/-- A sent unit at the freeze: it is performed and its tag or result is kept; a write of an engine command, or one for which the record has no room, is acknowledged as well (log 19); the result of an atomic step that finds every result slot full goes to its core at once, which has not halted yet (R329, R332; DESIGN CHOICE, log 70). -/
def freezeSent (s : State) (e : Sent) : State :=
  let p := s.part e.tag.part
  let key := (e.tag, e.u.unit)
  match e.u.op with
  | .write d =>
    if e.engine then engineArrived { s with mem := s.mem.writeL e.u.key d } e
    else
      let kept := p.tags.contains key
      let s1 := if kept then s else writeSent s e d
      if roomForEntry (s.strand e.sid) e.ord then
        requeue (if kept then s1 else s1.setPart e.tag.part { p with tags := p.tags ++ [key] }) e
      else s1.setPart e.tag.part { p with tags := p.tags.filter (· ≠ key) }
  | .atom a => if resultsFull s e then returnStep (performStep s e a) e else performStep s e a

/-- The values that the strands of a partition's loads and MRDs have at the freeze return now, so that what is recorded is read again after it (R185, R335; DESIGN CHOICE, log 70). -/
def freezeReturns (s : State) (p : Nat) : State :=
  s.strands.foldl (fun s (e : Nat × Strand) =>
    if e.2.part = p then
      (s.strand e.1).rets.foldl (fun s r =>
        if r.kind.load || decide (r.kind = .mrd) then
          r.units.foldl (fun s x => match x.val with
            | some v => if (s.strand e.1).life.live then deliver s e.1 r x v else s
            | none => s) s
        else s) s
    else s) s

/-- The values of LDB and PLDM that may be read at the freeze are: a fixed-latency instruction that has issued is done (R156, R332). -/
def freezeLocks (s : State) (p : Nat) : State :=
  s.strands.foldl (fun s (e : Nat × Strand) =>
    if e.2.part = p then
      (s.strand e.1).locks.foldl (fun s r => r.units.foldl (fun s x => if loadFree s e.1 r.ord x.key r.size then readLock s e.1 r x else s) s) s
    else s) s

/-- What a core has sent, one after another in the order in which it was sent. -/
def freezeList (c : Nat) : List Sent → State → State
  | [], s => s
  | e :: r, s => freezeList c r (carrySent (freezeSent (s.setCore c { s.core c with sent := r }) e) c e)

/-- Everything a core has sent. -/
def freezeCoreSent (s : State) (c : Nat) : State := freezeList c (s.core c).sent s

/-! Discarded frames (R338). -/

/-- A frame is discarded at the freeze: every live strand is in a region, and its allocation is its own; a braced frame is saved (R370). -/
def discards (s : State) (f : Frame) : Bool :=
  !f.gone && decide (f.strands ≠ []) && !f.inherited && f.twin.isNone && f.strands.all (fun u => decide ((s.strand u).idem ≠ 0))

/-- A strand of a discarded frame: gone with all it had in flight; a killed one keeps its slot until its record can be held (R361). -/
def Strand.discard (t : Strand) : Strand := if t.life = .killed then { Strand.blank with life := .killed, part := t.part, core := t.core, slot := t.slot, readyAt := t.readyAt } else Strand.blank

/-- The discard of a frame: its strands, those that have exited before it too, end with all they had in flight and the tags and results kept for it; its banks, latches and meeting points are reset (R166, R338). -/
def discardFrame (s : State) (fu : Nat) : State :=
  let f := s.frame fu
  let again := f.strands.map (fun u => ((s.strand u).sidx, (s.strand u).idem, (s.strand u).bkOff))
  let all := s.strands.filter (fun e => decide (e.2.frame = fu))
  let s1 := all.foldl (fun s e => s.setStrand e.1 e.2.discard) s
  let c := f.cores.foldl (fun s c => s.setCore c { s.core c with reqs := (s.core c).reqs.filter (fun r => !f.strands.contains r.sid) }) s1
  let p := c.part f.part
  let d := c.setPart f.part { p with
    tags := p.tags.filter (fun e => !all.any (fun t => t.2.sq.any (fun x => decide (x.tag = e.1))))
    results := p.results.filter (fun e => !all.any (fun t => t.2.rets.any (fun r => decide (r.tag = e.1.1))))
    pulls := p.pulls.filter (fun u => !f.strands.contains u) }
  d.setFrame fu { f with strands := [], held := [], latch := [], meet := [], fab := false, reborn := again }

/-! The shadow areas (R334). -/

/-- Key of a byte of the shadow area in local vault `i` (0 or 1) of a core. -/
def shadowKey (p : Part) (c i o : Nat) : Nat := vaultKey (2 * c + i) (p.rcd.shadowbase + o)

/-- Offset of the operand-store image, in the even vault. -/
abbrev shadowPegs : Nat := 0
/-- Offset of the map-store image, in the even vault. -/
abbrev shadowMaps : Nat := 1048576

/-- Offset of the scratchpad image. -/
abbrev shadowSpad : Nat := 0
/-- Offset of the accumulator image. -/
abbrev shadowAcc : Nat := 524288
/-- Offset of the images of slots 1 to 63. -/
abbrev shadowCode : Nat := 786432
/-- Offset of the index. -/
abbrev shadowIndex : Nat := 1044480

/-- The shadow area of a core copied to or from a core: 2 MiB of each of its local vaults, in requests of 128 bytes, over the collar where the core is on the other die (R334, R347, R364; that it is copied whole is a DESIGN CHOICE, log 86). -/
def State.swap (s : State) (part old new : Nat) : State :=
  let s1 := (s.request part (2 * old) 16384).request part (2 * old + 1) 16384
  if dieOf old = dieOf new then s1
  else { s1 with
    carried := Tbl.count s1.carried (4 * Config.collar + 1) 32768
    moved := Tbl.count s1.moved (countKey Config.collar part) (2 ^ 22) }

/-- The images of a core written to its shadow area, in its own local vault: no link and no collar lies between (R9, R364). -/
def saveImages (m : Memory) (p : Part) (c : Nat) : Memory :=
  ((m.copy (spadKey c 0) (shadowKey p c 1 shadowSpad) 524288).copy (accKey c 0 0) (shadowKey p c 1 shadowAcc) 262144).copy
    (codeKey c 1 0) (shadowKey p c 1 shadowCode) 258048

/-- The images of a saved core brought back to the core that takes its place. -/
def loadImages (m : Memory) (p : Part) (old new : Nat) : Memory :=
  ((m.copy (shadowKey p old 1 shadowSpad) (spadKey new 0) 524288).copy (shadowKey p old 1 shadowAcc) (accKey new 0 0) 262144).copy
    (shadowKey p old 1 shadowCode) (codeKey new 1 0) 258048

/-- An index entry (R334). -/
def indexEntry (bytes count off : Nat) : List Byte := toBytes 16 (bytes * 2 ^ 64 + count * 2 ^ 48 + off)

/-! The private parts of a shadow area: the spec says what they hold and not how it is laid out; the model's layout is this (DESIGN CHOICE, log 62). -/

/-- A vector register in pegs of 8 lanes. -/
def VReg.pegBytes (v : VReg) : List Byte := pad32 (v.flatMap (fun e => toBytes 4 e.2.toNat))

/-- A strand's pegs: its vector registers in the operand store, then its queue entries. -/
def Strand.pegBytes (t : Strand) : List Byte := t.inStore.flatMap (fun r => (t.vec r).pegBytes) ++ t.q.flatMap (fun e => e.2.flatMap VReg.pegBytes)

/-- The words of a map of a strand. -/
def Strand.mapImage (t : Strand) (m : LaneMap) : List Byte := toBytes (t.ext / 8) m.toNat

/-- A strand's maps: those of its P registers, scopes, vector registers and queue entries. -/
def Strand.mapsBytes (t : Strand) : List Byte :=
  t.p.flatMap (fun e => t.mapImage e.2) ++ t.stack.flatMap (fun e => t.mapImage e.map) ++ t.v.flatMap (fun e => t.mapImage e.2.map)
    ++ t.q.flatMap (fun e => e.2.flatMap (fun v => t.mapImage v.map))

/-- KIND of a control-stack entry as a number, in the order of R140. -/
def CKind.num : CKind → Nat
  | .base => 0 | .if_ => 1 | .else_ => 2 | .lhead => 3 | .lbody => 4 | .call => 5 | .trap => 6

/-- A park cause with what the parked instruction still has to do (R157). -/
def Park.nums : Park → List Nat
  | .marker => [0]
  | .qEmpty q => [1, q]
  | .fetch => [2]
  | .restore l keep => 3 :: l.length :: (l ++ keep)
  | .fence o sc n => [4, o.code.toNat, sc.code.toNat, n]
  | .meetArrive form x j n ph op => [5, (match form with
    | .arr => 0
    | .wait => 1
    | .aw => 2), x.toNat, j, n, ph.toNat, op.ord, op.tag.bits, op.insn.toNat]
  | .meetWait x j ph op => [6, x.toNat, j, ph.toNat] ++ (match op with
    | some op => [op.ord, op.tag.bits, op.insn.toNat]
    | none => [])
  | .gang => [7]
  | .wait vis mx trp x n pc => [8, vis.toNat, mx.toNat, trp.toNat, x.toNat, n.toNat, pc.bits.toNat]
  | .malloc => [9]
  | .xpull ord => [10, ord]
  | .brace => [11]
  | .replay => [12]

/-- The state of a strand and its park cause (R160, R162). -/
def Life.nums : Life → List Nat
  | .ready | .frozenReady => [0]
  | .running => [1]
  | .parked c | .frozenParked c => 2 :: c.nums
  | .exiting | .frozenExiting => [3]
  | .killed => [4]
  | .gone => [5]

/-- The channels of a strand: batch numbers, done marks, status rings, RST (R198, R238). -/
def Strand.channelNums (t : Strand) : List Nat :=
  let ring (st : Tbl W64) : List Nat := (List.range 65).map (fun i => (Tbl.get 0 st i).toNat)
  [t.copy.cpbatch.toNat, t.copy.rdone.toNat, t.copy.vdone.toNat, t.mx.mxbatch.toNat, t.mx.rdone.toNat, t.mx.vdone.toNat, t.mx.rst.toNat]
    ++ ring t.copy.st ++ ring t.mx.st

/-- The identity and launch registers of a strand, its state, its place in the backing area, its pending fences, its records of the meeting points (R66, R81, R160, R166). -/
def Strand.stateNums (t : Strand) : List Nat :=
  [t.sidx, t.frameId.toNat, t.fsize, t.ext, t.span, t.launchId.toNat, t.ecl, t.priv.toNat, t.bkOff, t.bkLen, t.ord, t.sMark.toNat] ++ t.life.nums
    ++ (List.range 16).map (fun i => (Tbl.get 0 t.args i).toNat) ++ (List.range 16).flatMap (fun j => [(t.meetRec j).pend.toNat, (t.meetRec j).ph.toNat])
    ++ t.evicted.length :: t.evicted ++ t.written.length :: t.written ++ t.fences.length :: t.fences.flatMap (fun f => [f.1, f.2.code.toNat])
    ++ (t.slotEnd.map (fun pc => pc.bits.toNat)).toList

/-- The registers, the stack and the state of a strand (R22). -/
def Strand.regBytes (t : Strand) : List Byte :=
  (List.range 64).flatMap (fun r => toBytes 8 (Tbl.get 0 t.sr r).toNat) ++ (List.range 16).flatMap (fun r => toBytes 10 (Tbl.get 0 t.b r).toNat)
    ++ toBytes 4 t.f.toNat ++ toBytes 2 t.g.toNat ++ toBytes 1 t.disc ++ toBytes 4 t.mapdrop.toNat ++ toBytes 4 t.stray.toNat ++ toBytes 4 t.runcut.toNat
    ++ toBytes 8 t.batchstat.toNat ++ toBytes 5 t.idem.toNat ++ toBytes 5 t.handler.toNat ++ toBytes 5 t.absvec.toNat ++ toBytes 8 t.trapcode.toNat
    ++ toBytes 7 t.trappc.toNat ++ toBytes 1 t.prio ++ toBytes 2 t.pegquota ++ toBytes 7 t.pc.bits.toNat ++ toBytes 1 t.age
    ++ toBytes 1 t.stack.length ++ t.stack.flatMap (fun e => toBytes 7 e.link.bits.toNat ++ toBytes 4 e.fcopy.toNat ++ toBytes 1 e.kind.num)
    ++ numBytes t.stateNums ++ numBytes t.channelNums

/-- A slot record (R221). -/
def Slot.bytes (x : Slot) : List Byte :=
  toBytes 3 x.ovid.toNat ++ toBytes 1 (x.idx.toNat + 16 * x.cnt.toNat) ++ toBytes 2 x.gen.toNat ++ toBytes 1 x.pin.toNat ++ toBytes 1 x.st.code

/-- A meeting point: PHASE, ARR, CNT, AB (R166). -/
def MeetPt.bytes (m : MeetPt) : List Byte := toBytes 2 m.phase.toNat ++ toBytes 2 m.arr.toNat ++ toBytes 1 m.cnt ++ toBytes 1 m.ab.toNat

/-- A frame record. -/
def Frame.bytes (f : Frame) : List Byte :=
  toBytes 4 f.frameId.toNat ++ toBytes 4 f.launchId.toNat ++ toBytes 128 f.record.toNat
    ++ f.held.flatMap (fun e => toBytes 2 e.2.toNat) ++ toBytes 1 f.fab.toNat ++ (List.range 16).flatMap (fun j => (f.point j).bytes)
    ++ f.latch.flatMap (fun e => toBytes 1 e.2.isOpen.toNat ++ toBytes 2 e.2.gm.toNat ++ toBytes 2 e.2.arr.toNat ++ numBytes e.2.bd.nums)

/-- An admission load that is not complete (R234). -/
def AdmLoad.bytes (l : AdmLoad) : List Byte := numBytes ([l.ovid.toNat, l.img, l.slot, l.n] ++ l.gens.map (·.toNat))

/-- The scheduler state of a core. -/
def Core.bytes (c : Core) : List Byte :=
  toBytes 8 c.ebudget.toNat ++ toBytes 4 c.lastchg.toNat ++ (List.range' 1 63).flatMap (fun j => (c.slot j).bytes) ++ c.reqs.flatMap (fun r => toBytes 4 r.sid ++ toBytes 1 r.n)

/-- The strand in a slot of a core. -/
def strandIn (s : State) (c j : Nat) : Option Strand :=
  (s.strands.find? (fun e => decide (e.2.core = c) && decide (e.2.slot = j) && decide (e.2.life ≠ .gone))).map (·.2)

/-- The strands of a core by slot. -/
def strandsIn (s : State) (c : Nat) : List Strand := (List.range 32).filterMap (strandIn s c)

/-- The frame records of a core, with the admission loads that are not complete (R234). -/
def frameRecords (s : State) (c : Nat) : List Byte :=
  (s.frames.filter (fun e => e.2.cores.contains c && !e.2.gone)).flatMap (fun e => e.2.bytes) ++ (s.core c).loads.flatMap AdmLoad.bytes

/-- Bytes written into the area of a core in its odd vault, as far as the area goes (DESIGN CHOICE, log 62). -/
def writeArea (m : Memory) (p : Part) (c o : Nat) (b : List Byte) : Memory := m.writeL (shadowKey p c 1 o) (b.take (2097152 - o))

/-- The index of a core, behind it its private parts, and behind them the in-flight records, as far as the area goes; the operand store and the map store in the even vault. -/
def saveRecords (s : State) (p : Part) (c : Nat) : State :=
  let l := strandsIn s c
  let rest := pad32 (l.flatMap Strand.regBytes ++ frameRecords s c ++ (s.core c).bytes)
  let r := (List.range 32).foldl (fun (a : Memory × Nat) j =>
    match strandIn s c j with
    | none => (writeArea a.1 p c (shadowIndex + 16 * j) (indexEntry 0 0 0), a.2)
    | some t =>
      let b := ifrBytes t.ifr
      (writeArea (writeArea a.1 p c (shadowIndex + 16 * j) (indexEntry b.length t.ifr.length a.2)) p c a.2 b, a.2 + b.length))
    (writeArea s.mem p c (shadowIndex + 512) rest, shadowIndex + 512 + rest.length)
  let m2 := r.1.writeL (shadowKey p c 0 shadowPegs) ((l.flatMap Strand.pegBytes).take 1048576)
  { s with mem := m2.writeL (shadowKey p c 0 shadowMaps) ((l.flatMap Strand.mapsBytes).take 1048576) }

/-! The freeze (R332). -/

/-- The state a strand is frozen in. -/
def Life.freeze : Life → Life
  | .ready | .running => .frozenReady
  | .parked c => .frozenParked c
  | .exiting => .frozenExiting
  | l => l

/-- Every strand of a partition changed. -/
def State.mapStrands (s : State) (p : Nat) (f : Nat → Strand → Strand) : State :=
  { s with strands := s.strands.map (fun (e : Nat × Strand) => if e.2.part = p then (e.1, f e.1 e.2) else e) }

/-- The braced strands of a partition at their last checkpoints; one past its comparison, or whose checkpoint is due, stands at it. -/
def freezeBraced (s : State) (p : Nat) : State :=
  s.strands.foldl (fun s (e : Nat × Strand) =>
    if e.2.part = p ∧ e.2.twin.isSome ∧ e.2.life.live ∧ !e.2.passed ∧ !e.2.ckDue then s.setStrand e.1 (e.2.back (Tbl.get Strand.blank s.ckpts e.1) e.2.misses) else s) s

/-- A core that no partition uses any more: no run, no bank request, no load and no write under way; its slots stay as they are until a creation empties them (R221). -/
def Core.idle (c : Core) : Core := { c with running := none, runLen := 0, runCharge := 0, reqs := [], loads := [], sent := [] }

/-- A core at a partition's creation or a warm reset: slots 1 to 63 are EMPTY with PIN 0 and keep their generations (R221); OVID, IDX and CNT are 0 (DESIGN CHOICE, log 4); what self-test found stays. -/
def Core.bare (c : Core) : Core :=
  { Core.reset with
    slots := (List.range 64).foldl (fun l j => if j = 0 then Tbl.set Slot.empty l 0 Slot.firmware else Tbl.set Slot.empty l j { Slot.empty with gen := (c.slot j).gen }) []
    seqs := c.seqs, spareUsed := c.spareUsed, retired := c.retired }

/-- The freeze of a partition (R332 steps 1 to 4); of its TLB entries those of the copy TLBs are dropped (R312, DESIGN CHOICE, log 69). -/
def freeze (s : State) (p : Nat) : State :=
  let cs := coresOf (s.part p).rcd.clm
  let s := cs.foldl (fun s c => s.endRun c) s
  let s := freezeBraced s p
  let s := cs.foldl freezeCoreSent s
  let s := freezeLocks (freezeReturns s p) p
  let s := s.frames.foldl (fun s (e : Nat × Frame) => if e.2.part = p ∧ discards s e.2 then discardFrame s e.1 else s) s
  let s := s.mapStrands p (fun _ t => { t with life := t.life.freeze, ifr := makeIfr t })
  let x := s.part p
  let s := cs.foldl (fun s c => s.swap p c c) { s with mem := cs.foldl (fun m c => saveImages m x c) s.mem }
  let s := cs.foldl (fun s c => saveRecords s x c) s
  let s := dropCopyTlbs s (fun e => decide (e.part = p))
  let x := s.part p
  let s := s.setPart p { x with st := .frozen, saved := cs.map (fun c => (c, { s.core c with running := none })), freezing := true }
  cs.foldl (fun s c => s.setCore c (s.core c).idle) s

end Sys2Proof.Machine
end

