-- ==== Sys2Proof/Machine/Lantern.lean ====
section
/-! DEFINITION. Lantern.lean: signed reading records (R350, R351), the mailbox's answers (R355), quotes (R369), energy attribution (R346 to R349), start and cold reset (R352, R366, R367). -/

namespace Sys2Proof.Machine

/-! Reading records. -/

/-- The first `n` bytes of a list, filled up with zeros. -/
def fixBytes (n : Nat) (b : List Byte) : List Byte := (List.range n).map (fun i => b.getD i 0)

/-- The kinds of a reading record (R350). -/
inductive ReadKind | periodic | demand | creation | destruction | coldReset
deriving DecidableEq, Repr

/-- KIND (R350). -/
def ReadKind.num : ReadKind → Nat
  | .periodic => 1 | .demand => 2 | .creation => 3 | .destruction => 4 | .coldReset => 5

/-- The body of a record (R350). -/
def readingBody (s : State) (p : Nat) (k : ReadKind) (seq : W64) : BitVec 640 :=
  let e := (s.part p).energy
  Config.serial ++ s.cyc1 ++ s.cyc0 ++ e.idle ++ e.fabric ++ e.vault ++ e.compute ++ seq ++ s.epoch ++ (0 : BitVec 48)
    ++ BitVec.ofNat 8 k.num ++ BitVec.ofNat 8 (p % 64)

/-- A record produced, signed and placed in the partition's ring, with its MSI-X vector (R351, R359): SEQ counts it. -/
def produceReading (s : State) (p : Nat) (k : ReadKind) : State :=
  let seq := Tbl.get 0 s.seq p + 1
  let body := readingBody s p k seq
  let r : Reading := { body := body, sig := fixBytes 2420 (Config.signature 0 0 (fixBytes 32 (Config.sha3 (toBytes 80 body.toNat)))) }
  let x := s.part p
  let ring := x.ring ++ [r]
  ({ s with seq := Tbl.set 0 s.seq p seq }.setPart p { x with ring := ring.drop (ring.length - 64) }).signal (p + 1) 3

/-- A record of every partition that is not FREE (R351). -/
def produceAll (s : State) (k : ReadKind) : State :=
  s.parts.foldl (fun s e => if e.2.st = .free then s else produceReading s e.1 k) s

/-! The mailbox (R355). -/

/-- A response in a function's mailbox, with its vector (R359). -/
def respond (s : State) (fn : Nat) (b : List Byte) : State := { s with response := Tbl.set [] s.response fn (fixBytes 64 b) }.signal fn 0

/-- A command accepted. -/
def accept (s : State) (fn len : Nat) : State := respond s fn (Config.response true len s.msix.length)

/-- A command refused: nothing changes but the response. -/
def refuse (s : State) (fn : Nat) : State := respond s fn (Config.response false 0 s.msix.length)

/-- The function's mailbox answers: function 0 once there is power; a virtual function at stage 2 (R366). -/
def answers (s : State) (fn : Nat) : Bool := s.powered && (decide (fn = 0) || (decide (fn ≤ 32) && decide (s.stage = 2)))

/-- A command of function 0 that is answered from stage 2 on. -/
def manages (s : State) (fn : Nat) : Bool := answers s fn && decide (fn = 0) && decide (s.stage = 2)

/-- A function may name a partition: function 0 any, a virtual function its own. -/
def mayName (fn p : Nat) : Bool := decide (p < 32) && (decide (fn = 0) || decide (fn = p + 1))

/-- The start status (R355). -/
def statusBytes (s : State) : List Byte :=
  toBytes 1 s.stage ++ toBytes 1 s.failCode.toNat ++ toBytes 2 (if s.stage = 0 then 0 else s.version.toNat) ++ toBytes 4 s.failed.length
    ++ toBytes 8 s.epoch.toNat ++ toBytes 8 Config.serial.toNat

/-- STATUS (R355). -/
def execStatus (fn : Nat) (s : State) : Host.Outcome State Fault Refusal :=
  if answers s fn then .next (respond s fn (statusBytes s)) else .next s

/-- READ_SIGN (R351, R355). -/
def execReadSign (fn part : Nat) (s : State) : Host.Outcome State Fault Refusal :=
  if answers s fn = false then .next s
  else if mayName fn part = false ∨ s.stage ≠ 2 ∨ (s.part part).st = .free then .next (refuse s fn)
  else .next (accept (produceReading s part .demand) fn 0)

/-- A body of at most 64 KiB in a function's result buffer. -/
def place (s : State) (fn : Nat) (b : List Byte) : State := { s with result := Tbl.set [] s.result fn (b.take 65536) }

/-- STATE of a partition as a number (R354). -/
def PartSt.num : PartSt → Nat
  | .free => 0
  | .live => 1
  | .frozen => 2

/-- The numbers of a partition record (R354). -/
def recordNumbers (st : PartSt) (r : PartRecord) : List Nat :=
  [st.num, r.clm.toNat, r.rv, r.cbase, r.ccnt, r.ebase, r.ecnt, r.fasid.toNat, r.dq, r.pbase, r.fsz, r.nfr, r.rootdir.toNat, r.casid.toNat, r.hsbase,
    r.shadowbase, r.bkbase, r.bklen, r.kok.toNat, r.cxlsh, r.tcmax, r.c3sh, (if r.brace then 1 else 0), r.ebud.toNat, r.chw.toNat] ++ r.win

/-- The signed part of a quote (R369). -/
def quoteBody (s : State) (part : Option Nat) (nonce : List Byte) : List Byte :=
  fixBytes 32 nonce ++ toBytes 8 Config.serial.toNat ++ toBytes 8 s.epoch.toNat ++ toBytes 4 Config.romVersion.toNat
    ++ toBytes 2 (if s.stage = 0 then 0 else s.version.toNat) ++ [0, 0]
    ++ fixBytes 32 (Config.sha3 s.firmware) ++ fixBytes 32 (Config.sha3 s.expansion)
    ++ (match part with
      | some p => fixBytes 32 (Config.recordDigest (recordNumbers (s.part p).st (s.part p).rcd))
      | none => List.replicate 32 0)
    ++ (List.range 1312).map Config.energyKey

/-- QUOTE (R355, R369). -/
def execQuote (fn : Nat) (part : Option Nat) (nonce : List Byte) (s : State) : Host.Outcome State Fault Refusal :=
  if answers s fn = false then .next s
  else if (match part with
    | some p => mayName fn p
    | none => decide (fn = 0)) = false then .next (refuse s fn)
  else
    let b := quoteBody s part nonce
    let q := b ++ fixBytes 2420 (Config.signature 1 s.msix.length (fixBytes 32 (Config.sha3 b)))
    .next (accept (place s fn q) fn q.length)

/-- CERT (R355, R369). -/
def execCert (fn : Nat) (s : State) : Host.Outcome State Fault Refusal :=
  if answers s fn = false then .next s
  else if s.stage ≠ 2 then .next (refuse s fn)
  else
    let n := Nat.min Config.certLen 65536
    .next (accept (place s fn ((List.range n).map Config.certChain)) fn n)

/-! Energy (R346 to R349). -/

/-- A partition's place among the takers: itself while it is not FREE, else UNASSIGNED. -/
def takerOf (s : State) (p : Option Nat) : Option Nat :=
  match p with
  | some p => if (s.part p).st = .free then none else some p
  | none => none

/-- The count of a taker at a source. -/
def countOf (s : State) (x : SharedSource) (p : Option Nat) : Nat :=
  sumOf (fun (e : Option Nat × Nat) => if takerOf s e.1 = p then e.2 else 0) x.counts

/-- All the counts of a source. -/
def totalOf (x : SharedSource) : Nat := sumOf (fun (e : Option Nat × Nat) => e.2) x.counts

/-- Those among whom energy is divided, in the model's order: the partitions that are not FREE, then UNASSIGNED. -/
def takers (s : State) : List (Option Nat) := (s.parts.filter (fun e => decide (e.2.st ≠ .free))).map (fun e => some e.1) ++ [none]

/-- A taker's part of an energy divided by weights: the energy of all up to it less that of all before it, each cut to a whole unit of 2^-32 microjoule, so that the parts add up to the energy (log 29). -/
def splitOf (l : List (Option Nat)) (w : Option Nat → Nat) (energy : Nat) (p : Option Nat) : Nat :=
  let total := sumOf w l
  let before := sumOf w (l.takeWhile (fun x => decide (x ≠ p)))
  if total = 0 then 0 else energy * (before + w p) / total - energy * before / total

/-- A taker's share of a category's sources with counts, in units of 2^-32 microjoule. -/
def shareOf (s : State) (l : List SharedSource) (p : Option Nat) : Nat := sumOf (fun (x : SharedSource) => splitOf (takers s) (countOf s x) x.energy p) l

/-- The energy of the sources without a count, which goes to IDLE. -/
def uncounted (l : List SharedSource) : Nat := sumOf (fun (x : SharedSource) => if totalOf x = 0 then x.energy else 0) l

/-! Ownership of clusters within an epoch (R347). -/

/-- The partition that owns a cluster. -/
def clusterOwner (s : State) (c : Nat) : Option Nat := (s.parts.find? (fun e => decide (e.2.st ≠ .free) && e.2.rcd.clm.getLsbD c)).map (·.1)

/-- The key of the cycles of an owner of a cluster; 32 stands for none. -/
def ownKey (c : Nat) (p : Option Nat) : Nat := 33 * c + p.getD 32

/-- The cycles of die 0 in this epoch for which the present owner of a cluster has had it. -/
def ownCycles (s : State) (c : Nat) : Nat := (s.die 0).all - Nat.max (Tbl.get 0 s.ownedFrom c) s.epochAt

/-- The cycles of the present owner of a cluster noted, before it changes. -/
def noteOwner (s : State) (c : Nat) : State :=
  let k := ownKey c (clusterOwner s c)
  { s with owned := Tbl.set 0 s.owned k (Tbl.get 0 s.owned k + ownCycles s c), ownedFrom := Tbl.set 0 s.ownedFrom c (s.die 0).all }

/-- A table of counts by source and partition with those of a partition at the first `n` sources given to UNASSIGNED. -/
def Tbl.unassign (t : Tbl Nat) (p n : Nat) : Tbl Nat :=
  (List.range n).foldl (fun t x => Tbl.count (Tbl.set 0 t (countKey x p) 0) (countKey x 32) (Tbl.get 0 t (countKey x p))) t

/-- The cycles, requests and bytes of a partition that ends go to UNASSIGNED: its counters are read a last time before. -/
def forgetOwner (s : State) (p : Nat) : State :=
  { s with owned := Tbl.unassign s.owned p 32, requests := Tbl.unassign s.requests p 8, moved := Tbl.unassign s.moved p 26 }

/-- The energy of a cluster as a source divided by cycles of ownership (R347). -/
def clusterSource (s : State) (c energy : Nat) : SharedSource :=
  { energy := energy
    counts := (clusterOwner s c, ownCycles s c) :: ((List.range 32).map some ++ [none]).map (fun p => (p, Tbl.get 0 s.owned (ownKey c p))) }

/-- The energies of the clusters, by number, as sources. -/
def clusterSources (s : State) (l : List Nat) : List SharedSource := (l.take 32).zipIdx.map (fun e => clusterSource s e.2 e.1)

/-- A source whose counts the device keeps in a table, by source and partition (R347). -/
def countedSource (t : Tbl Nat) (x energy : Nat) : SharedSource :=
  { energy := energy, counts := ((List.range 32).map some ++ [none]).map (fun p => (p, Tbl.get 0 t (countKey x (p.getD 32)))) }

/-- The energies of the first `n` sources of a kind; a source is named once, by its number. -/
def countedSources (t : Tbl Nat) (n : Nat) (l : List (Nat × Nat)) : List SharedSource :=
  (List.range n).filterMap (fun i => (l.find? (fun e => decide (e.1 = i))).map (fun e => countedSource t i e.2))

/-- The energies of the stacked SRAM dies, by 4 · die + s, divided by the requests to their vaults (R9, R170). -/
def sramSources (s : State) (l : List (Nat × Nat)) : List SharedSource := countedSources s.requests 8 l

/-- The energies of the links, divided by the bytes they moved: the UALink, CXL and PCIe ports and the collar (R11). -/
def linkSources (s : State) (l : List (Nat × Nat)) : List SharedSource := countedSources s.moved 26 l

/-- w_p of a partition (R347). -/
def partWeight (s : State) (p : Nat) : Nat := 16 * popcount (s.part p).rcd.clm + (s.part p).rcd.win.length

/-- The weight of a taker; UNASSIGNED has what is left of 1,024. -/
def takerWeight (s : State) (p : Option Nat) : Nat :=
  match p with
  | some p => partWeight s p
  | none => 1024 - sumOf (fun (e : Nat × Part) => if e.2.st = .free then 0 else partWeight s e.1) s.parts

/-- A share with the remainder credited in whole microjoules: the counter and the new remainder. -/
def credit (c : W64) (rem : W32) (share : Nat) : W64 × W32 :=
  let x := share + rem.toNat
  (c + BitVec.ofNat 64 (x / 2 ^ 32), BitVec.ofNat 32 (x % 2 ^ 32))

/-- A taker's counters after an epoch (R347). -/
def Energy.epoch (s : State) (m : EpochMeasure) (p : Option Nat) (e : Energy) : Energy :=
  let clusters := clusterSources s m.clusters
  let srams := sramSources s m.srams
  let links := linkSources s m.links
  let idle := splitOf (takers s) (takerWeight s) (m.base + uncounted clusters + uncounted srams + uncounted links) p
  let c := credit e.compute e.remC (shareOf s clusters p)
  let v := credit e.vault e.remV (shareOf s srams p)
  let f := credit e.fabric e.remF (shareOf s links p)
  let i := credit e.idle e.remI idle
  { compute := c.1, vault := v.1, fabric := f.1, idle := i.1, remC := c.2, remV := v.2, remF := f.2, remI := i.2 }

/-- ENERGY_EPOCH_END (R347, R351): enabled at each 2^20 master cycles of die 0, and no further cycle passes before it; the periodic records follow the first epoch end at or after each 2^30 cycles: the one that coincides with them counts as the first after them (DEDUCED, log 31). -/
def execEnergyEpochEnd (m : EpochMeasure) (s : State) : Host.Outcome State Fault Refusal :=
  let d := s.die 0
  if d.all < s.epochAt + 2 ^ 20 then .next s
  else
    let parts := s.parts.map (fun (e : Nat × Part) => if e.2.st = .free then e else (e.1, { e.2 with energy := e.2.energy.epoch s m (some e.1) }))
    let s1 := { s with parts := parts, unassigned := s.unassigned.epoch s m none, owned := [], requests := [], moved := [], epochAt := s.epochAt + 2 ^ 20, cyc0 := d.cycle, cyc1 := (s.die 1).cycle }
    if s1.readingAt + 2 ^ 30 ≤ d.all then .next (produceAll { s1 with readingAt := s1.readingAt + 2 ^ 30 } .periodic) else .next s1

/-- ENERGY of a partition (R349). -/
def energyValue (e : Energy) : W64 := BitVec.ofNat 64 ((e.compute.toNat + e.vault.toNat + e.fabric.toNat + e.idle.toNat) / 250000 * 250000)

/-- ENERGY_REFRESH (R349): once at each 2^20 cycles that the die's CYCLE counts, and no further cycle passes before it. -/
def execEnergyRefresh (die : Nat) (s : State) : Host.Outcome State Fault Refusal :=
  let d := s.die die
  if die < 2 ∧ d.refreshDue then
    .next (s.setDie die { d with refreshDue := false, energy := s.parts.foldl (fun l e => if e.2.st = .free then l else Tbl.set 0 l e.1 (energyValue e.2.energy)) d.energy })
  else .next s

/-! Start (R366, R367). -/

/-- POWER_GOOD (R366): the lantern runs from ROM. -/
def execPowerGood (s : State) : Host.Outcome State Fault Refusal :=
  if s.powered then .next s else .next { s with powered := true, stage := 0, failCode := 0 }

/-- The failure of a start: what was found, or a version below the fused minimum (R355, R367). -/
def startFailure (s : State) (r : StageResult) : BitVec 8 :=
  if r.fail = 1 then 1 else if r.version.toNat < s.fused.toNat then 2 else r.fail

/-- The image of a start is accepted, whatever fails after it, and the fuses are raised to the minimum it demands (R367). -/
def raiseFuses (s : State) (r : StageResult) (f : BitVec 8) : State :=
  if f = 1 ∨ f = 2 then s else { s with fused := if s.fused.toNat < r.minimum.toNat then r.minimum else s.fused }

/-- What a start finds, with the firmware of the start before where a warm reset has come between (R368). -/
def sameFirmware (s : State) (r : StageResult) : StageResult :=
  if s.warmed then { r with version := s.version, firmware := s.firmware, runtime := s.mem.readN (firmwareKey 0) 4096 } else r

/-- STAGE_1 (R366, R367): stage 1 is reached, or a failure leaves stage 0: slot 0 of every core takes the runtime, the links train, the self-test names the failed vaults. From stage 1 the next event of this kind reaches stage 2: the clusters are released and the virtual functions appear. -/
def execStage1 (r : StageResult) (s : State) : Host.Outcome State Fault Refusal :=
  if s.powered = false ∨ 2 ≤ s.stage then .next s
  else if s.stage = 1 then .next { s with stage := 2 }
  else
    let r := sameFirmware s r
    let f := startFailure s r
    let s1 := raiseFuses s r f
    if f ≠ 0 then .next { s1 with failCode := f }
    else
      let mem := (s.mem.clear (firmwareKey 0) 4096).writeL (firmwareKey 0) (fixBytes 4096 r.runtime)
      .next { s1 with
        mem := mem, stage := 1, warmed := false, failCode := 0, version := r.version, failed := r.failed, firmware := r.firmware, expansion := r.table
        links := r.trained.foldl (fun l e => Tbl.set 0 l e.1 (Nat.min e.2 (Config.linkLanes e.1))) [] }

/-- The device after a cold reset: the pool, the lantern's store and what self-test found remain; EPOCH counts it (R352). -/
def coldState (s : State) : State :=
  { State.reset with
    cores := s.cores.map (fun (e : Nat × Core) => (e.1, { Core.reset with spareUsed := e.2.spareUsed, retired := e.2.retired }))
    retired := s.retired
    mem := s.mem.filter (fun c => decide (c.1 < 2 ^ 64)), seq := s.seq, epoch := s.epoch + 1, fused := s.fused, agenda := s.agenda, turn := s.turn
    next := s.next, gord := s.gord, clock := s.clock }

/-- COLD_RESET (R351, R352): records of kind 5, then the counters, CYCLE and the rings are cleared. -/
def execColdReset (s : State) : Host.Outcome State Fault Refusal :=
  if s.powered then .next { coldState (produceAll s .coldReset) with powered := true } else .next s

/-- POWER_LOSS (R352): what was measured in the epoch under way is lost. -/
def execPowerLoss (s : State) : Host.Outcome State Fault Refusal :=
  if s.powered then .next (coldState s) else .next s

end Sys2Proof.Machine
end

