-- ==== Sys2Proof/Machine/Partition.lean ====
section
/-! DEFINITION. Partition.lean: the mailbox commands that change partitions and the device: CREATE, DESTROY, PREEMPT, RESUME, ENGINE-RESET, WARM-RESET (R332 to R338, R355, R368). -/

namespace Sys2Proof.Machine

/-! CREATE (R355). -/

/-- A record as its fields hold it: each at the width of its card, SHADOWBASE at a multiple of 2 MiB (R286, R313, R318, R354). -/
def fitRecord (r : PartRecord) : PartRecord :=
  { r with
    rv := r.rv % 2 ^ 10, cbase := r.cbase % 2 ^ 16, ccnt := r.ccnt % 2 ^ 17, ebase := r.ebase % 2 ^ 14, ecnt := r.ecnt % 2 ^ 15, dq := r.dq % 2 ^ 14,
    pbase := r.pbase % 2 ^ 34, fsz := r.fsz % 2 ^ 13, nfr := r.nfr % 2 ^ 16, hsbase := r.hsbase % 2 ^ 34,
    shadowbase := r.shadowbase % 2 ^ 25 / 2 ^ 21 * 2 ^ 21, bkbase := r.bkbase % 2 ^ 34, bklen := r.bklen % 2 ^ 16, cxlsh := r.cxlsh % 2 ^ 8,
    tcmax := r.tcmax % 4, c3sh := r.c3sh % 64 }

/-- The other partitions that are not FREE. -/
def othersOf (s : State) (p : Nat) : List (Nat × Part) := s.parts.filter (fun e => decide (e.1 ≠ p) && decide (e.2.st ≠ .free))

/-- Two ranges of `n` and `m` things share one. -/
def rangesMeet (a n b m : Nat) : Bool := decide (0 < n) && decide (0 < m) && decide (a < b + m) && decide (b < a + n)

/-- The local vaults of the cores of a mask lie among the reserved ones of a record (R334). -/
def localsReserved (clm : W32) (r : PartRecord) : Bool :=
  let reserved := r.win.drop (r.win.length - r.rv)
  (coresOf clm).all (fun c => reserved.contains (2 * c) && reserved.contains (2 * c + 1))

/-- The clusters of a mask belong to no other partition. -/
def clustersFree (s : State) (p : Nat) (clm : W32) : Bool := (othersOf s p).all (fun e => decide (e.2.rcd.clm &&& clm = 0))

/-- The window offsets of the shadow areas of a record (R334). -/
def shadowOffsets (r : PartRecord) : List Nat :=
  (coresOf r.clm).flatMap (fun c => [2 * c, 2 * c + 1].map (fun v => 2 ^ 25 * (r.win.takeWhile (fun x => decide (x ≠ v))).length + r.shadowbase))

/-- The backing area of a record is placed as R81 asks. -/
def backingOk (r : PartRecord) : Bool :=
  let n := 65536 * r.bklen
  let open_ := 2 ^ 25 * (r.win.length - r.rv)
  decide (r.bkbase % 65536 = 0) && (decide (n = 0) || (decide (open_ ≤ r.bkbase) && decide (r.bkbase + n ≤ 2 ^ 25 * r.win.length)))
    && !(shadowOffsets r).any (fun o => rangesMeet r.bkbase n o 2097152)
    && !rangesMeet r.bkbase n r.pbase (4096 * r.fsz * r.nfr)
    && !rangesMeet r.bkbase n r.hsbase 262144

/-- CREATE is not refused (R81, R334, R355, R366). -/
def createOk (s : State) (p : Nat) (r : PartRecord) : Bool :=
  let o := othersOf s p
  decide (p < 32) && decide ((s.part p).st = .free)
    && clustersFree s p r.clm
    && decide (1 ≤ r.win.length) && decide (r.win.length ≤ 512) && decide (r.rv ≤ r.win.length)
    && r.win.all (fun v => decide (v < 512) && !s.failed.contains v && o.all (fun e => !e.2.rcd.win.contains v)) && decide r.win.Nodup
    && decide (r.cbase + r.ccnt ≤ 65536) && o.all (fun e => !rangesMeet r.cbase r.ccnt e.2.rcd.cbase e.2.rcd.ccnt)
    && decide (r.ebase + r.ecnt ≤ 16384) && o.all (fun e => !rangesMeet r.ebase r.ecnt e.2.rcd.ebase e.2.rcd.ecnt)
    && localsReserved r.clm r && backingOk r
    && decide (r.dq + sumOf (fun e => e.2.rcd.dq) o ≤ 8192)
    && decide (r.cxlsh + sumOf (fun e => e.2.rcd.cxlsh) o ≤ 256)
    && decide (r.c3sh + sumOf (fun e => e.2.rcd.c3sh) o ≤ 16)

/-- A cluster given to a partition: its ACT is 0 (R342). -/
def giveCluster (s : State) (c : Nat) : State := { s with act := Tbl.set 0 s.act c 0 }

/-- A partition at its creation: its launch queues are all zero, KOK too, as R262 and R355 say, whatever KOK0 to KOK7 of the record are (DEDUCED, log 53); its ring keeps the records of its number. -/
def newPart (old : Part) (r : PartRecord) : Part := { Part.free with st := .live, rcd := r, ring := old.ring }

/-- The state after CREATE, before its reading. -/
def createPart (s : State) (p : Nat) (r : PartRecord) : State :=
  let s := forgetOwner ((clustersOf r.clm).foldl noteOwner s) p
  let s := s.setPart p (newPart (s.part p) r)
  let s := { s with counters := s.counters.filter (fun e => decide (e.1 < r.cbase) || decide (r.cbase + r.ccnt ≤ e.1)) }
  let s := (clustersOf r.clm).foldl giveCluster s
  let s := (coresOf r.clm).foldl (fun s c => s.setCore c { (s.core c).bare with ebudget := r.ebud }) s
  [0, 1].foldl (fun s d => s.setDie d { s.die d with energy := (s.die d).energy.del p }) s

/-- CREATE (R355). -/
def execCreate (fn part : Nat) (r : PartRecord) (s : State) : Host.Outcome State Fault Refusal :=
  if manages s fn = false then .next (if answers s fn then refuse s fn else s)
  else if createOk s part (fitRecord r) then .next (accept (produceReading (createPart s part (fitRecord r)) part .creation) fn 0)
  else .next (refuse s fn)

/-! PREEMPT and its report (R332). -/

/-- PREEMPT (R332, R355). -/
def execPreempt (fn part : Nat) (s : State) : Host.Outcome State Fault Refusal :=
  if manages s fn = false then .next (if answers s fn then refuse s fn else s)
  else if part < 32 ∧ (s.part part).st = .live then .next (accept (freeze s part) fn 0)
  else .next (refuse s fn)

/-- FREEZE_COMPLETE (R332 step 5, R359). -/
def execFreezeComplete (part : Nat) (s : State) : Host.Outcome State Fault Refusal :=
  if (s.part part).freezing then .next ((s.setPart part { s.part part with freezing := false }).signal (part + 1) 4) else .next s

/-! DESTROY (R355). -/

/-- A launch queue of a partition that ends: its registers stay (R6, R262), what the scheduler had of its head record goes. -/
def LQueue.ended (q : LQueue) : LQueue := { q with stage := .fresh, cur := 0, counts := [] }

/-- What a partition has on the device is discarded, and its energy counters are cleared (R346, R351); its ring stays, its error counters, which creation zeroes (R345), and the registers of its launch queues and record queues, whose cards name no destruction (R6, R262, R361). -/
def discardPart (s : State) (p : Nat) : State :=
  let cs := coresOf (s.part p).rcd.clm
  let s := forgetOwner ((clustersOf (s.part p).rcd.clm).foldl noteOwner s) p
  let s := { s with
    strands := s.strands.filter (fun e => decide (e.2.part ≠ p))
    frames := s.frames.filter (fun e => decide (e.2.part ≠ p))
    ckpts := s.ckpts.filter (fun e => decide (e.2.part ≠ p))
    signals := s.signals.filter (fun x => decide (x.part ≠ p))
    dies := s.dies.map (fun (e : Nat × Die) => (e.1, { e.2 with walks := e.2.walks.filter (fun w => decide (w.part ≠ p)), waits := e.2.waits.filter (fun w => decide (w.1 ≠ p)), waiters := e.2.waiters.filter (fun w => decide (w.1 ≠ p)) })) }
  let s := dropTlbs s (fun e => decide (e.part = p))
  let s := cs.foldl (fun s c => s.setCore c (s.core c).idle) s
  let x := s.part p
  s.setPart p { Part.free with
    ring := x.ring, errs := x.errs, absentQ := x.absentQ, eventQ := x.eventQ
    queues := x.queues.map (fun (e : Nat × LQueue) => (e.1, e.2.ended)) }

/-- DESTROY (R355): the destruction record carries the final counters. -/
def execDestroy (fn part : Nat) (s : State) : Host.Outcome State Fault Refusal :=
  if manages s fn = false then .next (if answers s fn then refuse s fn else s)
  else if 32 ≤ part ∨ (s.part part).st = .free then .next (refuse s fn)
  else
    let s := if (s.part part).st = .live then freeze s part else s
    .next (accept (discardPart (produceReading s part .destruction) part) fn 0)

/-! RESUME (R335). -/

/-- The core that takes the place of a saved one. -/
def newCore (l : List (Nat × Nat)) (c : Nat) : Nat := ((l.find? (fun e => decide (e.1 = c))).map (·.2)).getD c

/-- A memory key with its scratchpad moved. -/
def moveKey (l : List (Nat × Nat)) (k : Nat) : Nat :=
  if 2 ^ 65 ≤ k ∧ k < 2 ^ 66 then spadKey (newCore l ((k - 2 ^ 65) / 2 ^ 19)) ((k - 2 ^ 65) % 2 ^ 19) else k

/-- A place with its scratchpad moved. -/
def moveLoc (l : List (Nat × Nat)) : Loc → Loc
  | .near k => .near (moveKey l k)
  | .far a => .far a

/-- The pieces of a command or a SPAWN moved; what is not read whole is read again (R218, R335). -/
def movePieces (l : List (Nat × Nat)) (p : Pieces) : Pieces := List.map (fun e => (moveKey l e.1, if p.read then e.2 else none)) p

/-- A store-queue entry moved; those that had left their queue are marked as replayed since the freeze (R330, R335). -/
def moveEntry (l : List (Nat × Nat)) (e : SEntry) : SEntry :=
  { e with
    units := e.units.map (fun x => { x with key := moveKey l x.key })
    kind := (match e.kind with
      | .spawn k q => .spawn (movePieces l k) q
      | .snap w a => .snap (w.map (moveKey l)) a
      | k => k) }

/-- A unit of a command that is read again, unless the command is READ-DONE (R256, R260). -/
def CUnit.again (x : CUnit) (reading : Bool) : CUnit := if reading && x.src.isSome then { x with dat := none } else x

/-- A copy command moved: it is replayed, and what it has read is read again unless it is READ-DONE (R256, R260). -/
def moveCmd (l : List (Nat × Nat)) (c : Cmd) : Cmd :=
  { c with
    replayed := true
    units := c.units.map (fun x => { x.again c.reading with src := x.src.map (moveLoc l), dst := x.dst.map (moveLoc l) })
    kind := (match c.kind with
      | .sort a b t n k => .sort (moveKey l a) (moveKey l b) (moveKey l t) n k
      | .tinv a v n _ _ => .tinv a v n false []
      | k => k) }

/-- A matrix command moved (R217, R218). -/
def moveMx (l : List (Nat × Nat)) (c : MCmd) : MCmd :=
  { c with kind := match c.kind with
    | .mma rows d g cl a b => .mma (rows.map (fun r => (r.1, moveKey l r.2))) d g cl (movePieces l a) (movePieces l b)
    | .mst sp base rs ty f w a ws as n => .mst sp base rs ty f w a (movePieces l ws) (movePieces l as) n
    | k => k }

/-- The state a frozen strand comes back in. -/
def Life.thaw : Life → Life
  | .frozenReady => .ready
  | .frozenParked c => .parked c
  | .frozenExiting => .exiting
  | l => l

/-- A returning instruction moved: a near load reads all that has not returned (R335). -/
def moveRet (l : List (Nat × Nat)) (r : Ret) : Ret :=
  { r with units := r.units.map (fun x => { x with key := moveKey l x.key, val := if r.kind.load then none else x.val }) }

/-- A strand on the core that takes its core's place; its record is consumed, its AGE is 0 from then on (R274, R276; DESIGN CHOICE, log 24). One with copy-channel commands to replay waits for them before it is Ready (R260); those Ready at once keep among them the order in which they became Ready before the freeze, a strand whose run the freeze ended too (DESIGN CHOICE, log 24). -/
def moveStrand (l : List (Nat × Nat)) (t : Strand) : Strand :=
  { t with
    core := newCore l t.core, ifr := [], age := 0
    life := if t.life.thaw = .ready ∧ t.copy.cmds ≠ [] then .parked .replay else t.life.thaw
    sq := t.sq.map (moveEntry l)
    rets := t.rets.map (moveRet l), locks := t.locks.map (moveRet l), ahead := t.ahead.map (fun a => (a.1, moveKey l a.2.1, a.2.2))
    copy := { t.copy with cmds := t.copy.cmds.map (moveCmd l) }
    mx := { t.mx with cmds := t.mx.cmds.map (moveMx l) } }

/-- A frame moved. -/
def moveFrame (l : List (Nat × Nat)) (f : Frame) : Frame :=
  { f with
    cores := f.cores.map (newCore l)
    held := List.map (fun (e : Nat × BitVec 16) => (newCore l e.1, e.2)) f.held
    latch := List.map (fun (e : Nat × Latch) => (newCore l e.1, e.2)) f.latch }

/-- RESUME is not refused: as many clusters, free or the partition's own, with their local vaults reserved, and none with a retired core, to which no frame comes again (R334, R355, R372; log 71). -/
def resumeOk (s : State) (p : Nat) (clm : W32) : Bool :=
  let x := s.part p
  decide (p < 32) && decide (x.st = .frozen) && decide (popcount clm = popcount x.rcd.clm) && clustersFree s p clm && localsReserved clm x.rcd
    && (coresOf clm).all (fun c => !(s.core c).retired)

/-- A saved core put in its new place, its LASTCHG 0 (R274); what self-test found stays with the place. -/
def putCore (s : State) (new : Nat) (c : Core) : State :=
  let here := s.core new
  s.setCore new { c with running := none, runLen := 0, runCharge := 0, lastchg := 0, tlb := [], spareUsed := here.spareUsed, retired := here.retired }

/-- The admission loads that a core brings from the freeze copied, before any strand of it resumes (R234). -/
def replayLoads (s : State) (c : Nat) : State := (s.core c).loads.foldl (fun s l => admissionLoad s c l) s

/-- The resumption of a partition on clusters (R335). -/
def resume (s : State) (p : Nat) (clm : W32) : State :=
  let x := s.part p
  let news := coresOf clm
  let l := (x.saved.map (·.1)).zip news
  let s := (clustersOf (x.rcd.clm ^^^ clm)).foldl noteOwner s
  let s := l.foldl (fun s e => s.swap p e.1 e.2) { s with mem := l.foldl (fun m e => loadImages m x e.1 e.2) s.mem }
  let s := (x.saved.zip news).foldl (fun s e => putCore s e.2 e.1.2) s
  let s := ((clustersOf clm).filter (fun c => !x.rcd.clm.getLsbD c)).foldl giveCluster s
  let s := s.setPart p { s.part p with st := .live, saved := [], rcd := { x.rcd with clm := clm } }
  let s := s.mapStrands p (fun _ t => moveStrand l t)
  let s := { s with
    frames := s.frames.map (fun (e : Nat × Frame) => if e.2.part = p then (e.1, moveFrame l e.2) else e)
    ckpts := s.ckpts.map (fun (e : Nat × Strand) => if e.2.part = p then (e.1, moveStrand l e.2) else e) }
  let s := news.foldl replayLoads s
  let s := s.frames.foldl (fun s (e : Nat × Frame) => if e.2.part = p ∧ e.2.reborn ≠ [] ∧ canRebear s e.2 = true then rebear s e.1 else s) s
  wakeAll s

/-- RESUME (R335, R355). -/
def execResume (fn part : Nat) (clm : W32) (s : State) : Host.Outcome State Fault Refusal :=
  if manages s fn = false then .next (if answers s fn then refuse s fn else s)
  else if resumeOk s part clm then .next (accept (resume s part clm) fn 0)
  else .next (refuse s fn)

/-! Resets. -/

/-- ENGINE_RESET (R219, R355). -/
def execEngineReset (fn core : Nat) (s : State) : Host.Outcome State Fault Refusal :=
  if manages s fn = false then .next (if answers s fn then refuse s fn else s)
  else if core < 256 then .next (accept (resetEngine s core) fn 0)
  else .next (refuse s fn)

/-- An ERT entry after a warm reset of its LIVE partition: ABSENT with its counts at zero (R368); that USE, FERR, PINREQ, VCOPY and RCOPY are zero too is a DESIGN CHOICE (log 35). -/
def Ert.warm (x : Ert) : Ert :=
  { x with inuse := 0, qcnt := 0, rcopy := 0, rv := false, rbusy := false, vcopy := 0, rpl := 0, use := 0, ferr := 0, pinreq := false, defer := false,
           st := .absent, waiters := [] }

/-- Every launch queue halted with ERR 4. -/
def haltQueues (p : Part) (keep : Bool) : Part :=
  (List.range 8).foldl (fun p k =>
    let q := p.queue k
    p.setQueue k { q with halt := true, err := 4, stage := if keep then q.stage else .fresh }) p

/-- A partition after a warm reset (R368), a FREE one too, whose launch queues are halted as those of every partition: a LIVE one loses its strands' work, a FROZEN one nothing that its resumption needs. -/
def Part.warm (p : Part) : Part :=
  match p.st with
  | .free | .frozen => haltQueues p true
  | .live =>
    { haltQueues p false with
      launches := [], frames := [], ert := p.ert.map (fun (e : Nat × Ert) => (e.1, e.2.warm)), ready := [], dused := 0, deferred := [], takes := [],
      pulls := [], tags := [], results := [] }

/-- The device after a warm reset, before stage 1 runs again (R368): with the same firmware, where one had been loaded. -/
def warm (s : State) : State :=
  let frozen (p : Nat) : Bool := decide ((s.part p).st = .frozen)
  let s := (s.clearCopyTlbs (fun _ => true)).clearDieTlbs (fun _ => true)
  { s with
    mem := s.mem.filter (fun c => decide (c.1 < 2 ^ 65) || decide (2 ^ 68 ≤ c.1))
    strands := s.strands.filter (fun e => frozen e.2.part)
    frames := s.frames.filter (fun e => frozen e.2.part)
    ckpts := s.ckpts.filter (fun e => frozen e.2.part)
    cores := s.cores.map (fun (e : Nat × Core) => (e.1, { e.2.bare with ebudget := e.2.ebudget, lastchg := e.2.lastchg }))
    dies := s.dies.map (fun (e : Nat × Die) => (e.1, { e.2 with walks := [], waits := [], waiters := [] }))
    parts := (List.range 32).foldl (fun l p => Tbl.set Part.free l p (s.part p).warm) s.parts
    signals := s.signals.filter (fun x => frozen x.part)
    creditsUsed := [], class3 := [], links := [], stage := 0, warmed := s.warmed || decide (s.stage ≠ 0) }

/-- WARM_RESET (R368), answered in every stage (R366). -/
def execWarmReset (fn : Nat) (s : State) : Host.Outcome State Fault Refusal :=
  if answers s fn = false then .next s
  else if fn ≠ 0 then .next (refuse s fn)
  else .next (accept (warm s) fn 0)

end Sys2Proof.Machine
end

