-- ==== Sys2Proof/Machine/Link.lean ====
section
/-! DEFINITION. Link.lean: what the host and peers do through the windows and links (R247, R259 to R263, R288, R309, R359 to R364). -/

namespace Sys2Proof.Machine

/-! Window B and peers. -/

/-- Bytes of a partition's window from an offset on. -/
def windowRead (m : Memory) (p : Part) (o n : Nat) : List Byte := (List.range n).map (fun i => m.read (windowKey p (o + i)))

/-! Window A as the host reads it (R359); the spec gives the places of the parts, and within a part the model's places where the rule has none (DESIGN CHOICE, log 72). -/

/-- STATE of an ERT entry as a number (R285). -/
def ErtSt.num : ErtSt → Nat
  | .absent => 0
  | .filling => 1
  | .resident => 2
  | .evicting => 3
  | .pinned => 4

/-- An ERT entry as its 512 bits (R285). -/
def ertBits (x : Ert) : BitVec 512 :=
  x.rc ++ x.biasB ++ x.biasA ++ x.inuse ++ BitVec.ofNat 16 x.qcnt ++ BitVec.ofNat 14 x.waiters.length ++ x.rcopy ++ BitVec.ofBool x.rv ++ BitVec.ofBool x.rbusy
    ++ x.vcopy ++ BitVec.ofNat 4 x.rpl ++ x.fpl ++ x.spn ++ x.t ++ x.farb ++ x.use ++ BitVec.ofNat 4 x.ferr ++ BitVec.ofBool x.pinreq
    ++ BitVec.ofBool x.defer ++ BitVec.ofNat 3 x.st.num ++ (0 : BitVec 120) ++ BitVec.ofBool x.valid ++ x.key

/-- The registers of a launch queue, 8 bytes each. -/
def queueWords (q : LQueue) : List Nat :=
  [q.base, q.sz, q.head.toNat, q.tail.toNat, (if q.halt then 1 else 0), q.err, q.erridx.toNat]

/-- The registers of a record queue, 8 bytes each (R361). -/
def recqWords (q : RecQ) (held : Nat) : List Nat := [q.qbase, q.qsz, q.prod.toNat, q.cons.toNat, held]

/-- The event records held: one beyond 256 is not held yet, its killed strand waits with it (R361). -/
def RecQ.heldEvents (q : RecQ) : Nat := Nat.min q.held.length 256

/-- The error counters, 4 bytes each (R345). -/
def errWords (e : ErrCnt) : List Nat := [e.corr.toNat, e.uncorr.toNat, e.soft.toNat, e.retire.toNat, e.engreset.toNat, e.kill.toNat, e.cfgrej.toNat]

/-- The energy counters, 8 bytes each (R346). -/
def energyWords (e : Energy) : List Nat := [e.compute.toNat, e.vault.toNat, e.fabric.toNat, e.idle.toNat]

/-- Byte `o` of a list of words of `n` bytes; 0 past its end. -/
def wordByte (n : Nat) (l : List Nat) (o : Nat) : Byte := BitVec.ofNat 8 (l.getD (o / n) 0 / 256 ^ (o % n))

/-- The record that lies at a place of the reading ring: SEQ modulo 64. -/
def ringAt (p : Part) (i : Nat) : List Byte :=
  match p.ring.find? (fun r => decide ((r.body.extractLsb' 128 64).toNat % 64 = i)) with
  | some r => toBytes 80 r.body.toNat ++ r.sig
  | none => []

/-- A byte of the mailbox of a function (R355, R359): of the command last written, whose layout the spec does not give (a free value, log 72), or of the response. -/
def mailboxByte (s : State) (fn off : Nat) : Byte :=
  if off < 64 then Config.commandByte fn s.msix.length off
  else if off < 128 then (Tbl.get [] s.response fn).getD (off - 64) 0 else 0

/-- The counters of a function, read-only: error counters and behind them energy counters (R345, R346). -/
def counterByte (e : ErrCnt) (n : Energy) (off : Nat) : Byte := if off < 0x20 then wordByte 4 (errWords e) off else wordByte 8 (energyWords n) (off - 0x20)

/-- Byte `off` of window A of the function of a partition (R359): what is not listed reads as zero. -/
def windowA (s : State) (part off : Nat) : Byte :=
  let p := s.part part
  if off < 0x1000 then mailboxByte s (part + 1) off
  else if off < 0x2000 then (if off < 0x1200 then wordByte 8 (queueWords (p.queue ((off - 0x1000) / 64))) (off % 64) else 0)
  else if off < 0x3000 then wordByte 8 (recqWords p.absentQ p.absentQ.held.length) (off - 0x2000)
  else if off < 0x4000 then wordByte 8 (recqWords p.eventQ p.eventQ.heldEvents) (off - 0x3000)
  else if off < 0x8000 then counterByte p.errs p.energy (off - 0x4000)
  else if off < 0x10000 then wordByte 8 ((clustersOf p.rcd.clm).map (fun c => (Tbl.get 0 s.act c).toNat)) (off - 0x8000)
  else if off < 0x100000 then
    let i := (off - 0x10000) / 4
    if i < p.rcd.ccnt then wordByte 4 [(s.counter (p.rcd.cbase + i)).toNat] (off % 4) else 0
  else if off < 0x200000 then
    let e := (off - 0x100000) / 64
    if e < p.rcd.ecnt then wordByte 64 [(ertBits (p.entry (p.rcd.ebase + e))).toNat] (off % 64) else 0
  else if off < 0x300000 then (ringAt p ((off - 0x200000) / 2560)).getD ((off - 0x200000) % 2560) 0
  else if off < 0x310000 then (Tbl.get [] s.result (part + 1)).getD (off - 0x300000) 0
  else 0

/-- Byte `off` of window A of function 0: its mailbox and result buffer, the device's own counters, and at 0x10_0000 + 0x4000 · p the registers of partition p that its function shows from 0x1000 on (R345, R355, R361; the places are a DESIGN CHOICE, log 72). -/
def windowA0 (s : State) (off : Nat) : Byte :=
  if off < 0x1000 then mailboxByte s 0 off
  else if 0x4000 ≤ off ∧ off < 0x8000 then counterByte s.errs s.unassigned (off - 0x4000)
  else if 0x100000 ≤ off ∧ off < 0x180000 then windowA s ((off - 0x100000) / 0x4000) (0x1000 + (off - 0x100000) % 0x4000)
  else if 0x300000 ≤ off ∧ off < 0x310000 then (Tbl.get [] s.result 0).getD (off - 0x300000) 0
  else 0

/-- HOST_WINDOW_ACCESS (R359, R360): a read of window A, of a virtual function from stage 2 on and of function 0, which 32 names, in every stage (R366); in window B beyond the vault window a read gives all ones, and a write is discarded and counted. The access comes by the PCIe port of die 0, in class 1, and goes over the collar to a vault of die 1 (R11, R12, R364). The bytes of a task record come through window B, since R359 gives window A no place for them (R263; DESIGN CHOICE, log 89). -/
def execHostWindowAccess (part off n : Nat) (x : WinAcc) (s : State) : Host.Outcome State Fault Refusal :=
  let p := s.part part
  let inside (off len : Nat) : Bool := decide (p.st ≠ .free) && decide (off + len ≤ windowSize p)
  if s.powered = false ∨ (s.stage ≠ 2 ∧ part ≠ 32) then .next s
  else
    let len : Nat := match x with
      | .writeB b => b.length
      | _ => n
    let s := s.carry part Config.pcieLink 1 len
    let reach (s : State) : State := s.carryWindow part Config.blockDie off len 1
    match x with
    | .readA => .next { s with answer := (List.range n).map (fun i => if part = 32 then windowA0 s (off + i) else windowA s part (off + i)) }
    | .readB => if inside off n then .next { reach s with answer := windowRead s.mem p off n } else .next { s with answer := List.replicate n 0xFF }
    | .writeB b => if inside off b.length then .next { reach s with mem := windowWrite s.mem p off b } else .next (s.cfgRej part)

/-- The keys of a peer's access to the exported range: the vault window, or a scratchpad of the partition's cores (R363). -/
def exported (p : Part) (off n : Nat) : Option (List Nat) :=
  if off + n ≤ 2 ^ 40 then (if off + n ≤ windowSize p then some ((List.range n).map (fun i => windowKey p (off + i))) else none)
  else
    let c := (off - 2 ^ 40) / 2 ^ 19
    let b := (off - 2 ^ 40) % 2 ^ 19
    if 2 ^ 40 ≤ off ∧ (coresOf p.rcd.clm).contains c ∧ b + n ≤ 2 ^ 19 then some ((List.range n).map (fun i => spadKey c (b + i))) else none

/-- PEER_ACCESS (R363): at most 256 bytes; an address that nothing backs is refused with no answer; a frozen partition's scratchpads are held back; the access comes by the peer's port in the class that it carries (R364). -/
def execPeerAccess (part off n : Nat) (x : PeerAcc) (s : State) : Host.Outcome State Fault Refusal :=
  let p := s.part part
  let len := (x.data.map (·.length)).getD n
  match (if s.stage = 0 ∨ p.st = .free ∨ 256 < len then none else exported p off len) with
  | none => .next { s with answer := [] }
  | some keys =>
    if p.st = .frozen ∧ 2 ^ 40 ≤ off then .next s
    else
      let die := keyDie (keys.headD (2 ^ 64))
      let s0 := s.carryPeer part die x.peer (Nat.min x.cls 3) len
      let s1 := if off < 2 ^ 40 then s0.carryWindow part die off len (Nat.min x.cls 3) else s0
      match x.data with
      | none => .next { s1 with answer := keys.map s.mem.read }
      | some b => .next { s1 with mem := (keys.zip b).foldl (fun m e => m.write e.1 e.2) s.mem }

/-- REMOTE_SIGNAL (R247, R331): a counter outside the receiving partition's range is discarded and counted; the signal is kept by its tag, and a replayed one that has been performed is suppressed. It comes by the peer's port of the task scheduler's die, in class 1 (R12, R363; DESIGN CHOICE, log 86). -/
def execRemoteSignal (part : Nat) (x : PeerSignal) (s : State) : Host.Outcome State Fault Refusal :=
  let p := s.part part
  if s.stage = 0 then .next s
  else
  let s := s.carryPeer part Config.blockDie x.peer 1 4
  if p.st = .free ∨ inCounters p x.ctr = false then .next (s.cfgRej part)
  else
    let rest := p.signalTags.filter (fun e => decide (e ≠ (x.peer, x.tag)))
    if x.replayed && p.signalTags.contains (x.peer, x.tag) then .next (s.setPart part { p with signalTags := rest })
    else .next ((s.setPart part { p with signalTags := (x.peer, x.tag) :: rest }).setCounter x.ctr (s.counter x.ctr - 1))

/-- CREDIT_RETURN (R259): a credit of the port comes back, and the first signal that waits for it is sent. -/
def execCreditReturn (port : Nat) (s : State) : Host.Outcome State Fault Refusal :=
  if 8 ≤ port then .next s
  else
    let s1 := { s with creditsUsed := Tbl.set 0 s.creditsUsed port (Tbl.get 0 s.creditsUsed port - 1) }
    match s.signals.find? (fun x => decide (Config.peerLink x.part x.die x.peer = port)) with
    | none => .next s1
    | some x => .next (sendSignal { s1 with signals := s.signals.erase x } x)

/-- A window of 1,024 master cycles of die 0 is over (R364). -/
def windowOver (s : State) : Bool := decide (s.class3At + 1024 ≤ (s.die 0).all)

/-- CLASS3_WINDOW (R364): each 1,024 master cycles the class-3 allowances begin anew. -/
def execClass3Window (s : State) : Host.Outcome State Fault Refusal :=
  if windowOver s then .next { s with class3 := [], class3At := s.class3At + 1024 } else .next s

/-! Window A (R262, R263, R266, R309, R359, R361). -/

/-- A launch queue that a write may name: window A is there from stage 2 on (R366). -/
def namesQueue (s : State) (part q : Nat) : Bool := decide (s.stage = 2) && decide (q < 8) && decide ((s.part part).st ≠ .free)

/-- TAIL_DOORBELL (R263): a value that overfills the queue is ignored and counted. -/
def execTailDoorbell (part q : Nat) (v : W32) (s : State) : Host.Outcome State Fault Refusal :=
  let p := s.part part
  let x := p.queue q
  if namesQueue s part q = false then .next s
  else if (v - x.head).toNat ≤ 2 ^ x.sz then .next (s.setPart part (Part.moveTail s.mem p q v))
  else .next (s.cfgRej part)

/-- HEAD_WRITE (R262): only while HALT is 1 and within the queue's length, and the scheduler resumes at the new head; otherwise discarded and counted. -/
def execHeadWrite (part q : Nat) (v : W32) (s : State) : Host.Outcome State Fault Refusal :=
  let p := s.part part
  let x := p.queue q
  if namesQueue s part q = false then .next s
  else if x.halt ∧ (x.tail - v).toNat ≤ 2 ^ x.sz then .next (s.setPart part (p.setQueue q { x with head := v, stage := .fresh, cur := 0 }))
  else .next (s.cfgRej part)

/-- HALT_CLEAR (R266). -/
def execHaltClear (part q : Nat) (s : State) : Host.Outcome State Fault Refusal :=
  let p := s.part part
  if namesQueue s part q then .next (s.setPart part (p.setQueue q { p.queue q with halt := false })) else .next s

/-- The killed strands whose records are held now give up their slots (R361): in the order of their records, all but as many as there are records beyond 256. -/
def freeKilled (s : State) (part : Nat) : State :=
  let held := (s.part part).eventQ.held.length
  let killed := s.strands.filter (fun e => decide (e.2.part = part) && decide (e.2.life = .killed))
  let before (t : Strand) : Nat := (killed.filter (fun e => decide (e.2.readyAt < t.readyAt))).length
  (killed.filter (fun e => decide (before e.2 < killed.length - (held - 256)))).foldl (fun s e => s.setStrand e.1 { s.strand e.1 with life := .gone }) s

/-- CONS_WRITE (R361). -/
def execConsWrite (part : Nat) (event : Bool) (v : W32) (s : State) : Host.Outcome State Fault Refusal :=
  let p := s.part part
  if s.stage ≠ 2 ∨ p.st = .free then .next s
  else
    let p' := if event then { p with eventQ := { p.eventQ with cons := v } } else { p with absentQ := { p.absentQ with cons := v } }
    .next (freeKilled ((s.setPart part p').drainQ part event) part)

/-- A record queue is empty, whatever is held behind it (R361). -/
def RecQ.isEmpty (q : RecQ) : Bool := decide (q.prod = q.cons)

/-- A register of a record queue written while the queue is empty; held records move in as far as there is room then (R361). -/
def writeRecQ (s : State) (part : Nat) (event : Bool) (f : RecQ → RecQ) : State :=
  let p := s.part part
  let q := if event then p.eventQ else p.absentQ
  if q.isEmpty then freeKilled ((s.setPart part (if event then { p with eventQ := f q } else { p with absentQ := f q })).drainQ part event) part else s

/-- A window offset as a register of 34 bits holds it, at a multiple of `unit`. -/
def offsetField (v : W64) (unit : Nat) : Nat := v.toNat % 2 ^ 34 / unit * unit

/-- REGISTER_WRITE (R262, R344, R359, R361): a size above 16 or a register that is not there is discarded. -/
def execRegisterWrite (part : Nat) (r : WinReg) (v : W64) (s : State) : Host.Outcome State Fault Refusal :=
  let p := s.part part
  let queue (q : Nat) (f : LQueue → LQueue) : State := if q < 8 then s.setPart part (p.setQueue q (f (p.queue q))) else s
  if s.stage ≠ 2 ∨ p.st = .free then .next s
  else .next (match r with
    | .queueBase q => queue q (fun x => { x with base := offsetField v 128 })
    | .queueSz q => if v.toNat ≤ 16 then queue q (fun x => { x with sz := v.toNat }) else s
    | .queueKok q =>
      let bit : BitVec 8 := BitVec.ofNat 8 (2 ^ q)
      if q < 8 then s.setPart part { p.setQueue q { p.queue q with kok := v.getLsbD 0 } with rcd := { p.rcd with kok := if v.getLsbD 0 then p.rcd.kok ||| bit else p.rcd.kok &&& ~~~bit } } else s
    | .absentQbase => writeRecQ s part false (fun q => { q with qbase := offsetField v 32 })
    | .absentQsz => if v.toNat ≤ 16 then writeRecQ s part false (fun q => { q with qsz := v.toNat }) else s
    | .eventQbase => writeRecQ s part true (fun q => { q with qbase := offsetField v 32 })
    | .eventQsz => if v.toNat ≤ 16 then writeRecQ s part true (fun q => { q with qsz := v.toNat }) else s
    | .counter i => if i < p.rcd.ccnt then s.setCounter (p.rcd.cbase + i) (v.extractLsb' 0 32) else s)

end Sys2Proof.Machine
end

