-- ==== Sys2Proof/Machine/Clock.lean ====
section
/-! DEFINITION. Clock.lean: master cycles, droop and clock hops (R341, R373, R374), errors and self-test (R345, R372). -/

namespace Sys2Proof.Machine

/-- An event that falls on the present master cycle of a die is still to come: the end of an epoch or of a class-3 window on die 0, the refresh of the die's energy copies (R347, R349, R364). -/
def cycleDue (s : State) (die : Nat) : Bool :=
  (s.die die).refreshDue || (decide (die = 0) && (decide (s.epochAt + 2 ^ 20 ≤ (s.die 0).all) || windowOver s))

/-- MASTER_CYCLE (R341, R374): the cycle counts in CYCLE unless the droop response swallows it, at the odd pulses of the pattern; parked strands are taken up. It waits for what is due at the present cycle. -/
def execMasterCycle (die : Nat) (s : State) : Host.Outcome State Fault Refusal :=
  let d := s.die die
  if 2 ≤ die ∨ cycleDue s die = true then .next s
  else
    let swallowed := decide (1 < d.droop) && decide (d.all % 2 = 1)
    let cycle := if swallowed then d.cycle else d.cycle + 1
    .next (wakeAll (s.setDie die { d with
      all := d.all + 1
      cycle := cycle
      refreshDue := !swallowed && decide (cycle.toNat % 2 ^ 20 = 0)
      droop := if 1 < d.droop then d.droop - 1 else d.droop }))

/-- DROOP_DETECT (R374): 64 master cycles of response. -/
def execDroopDetect (die : Nat) (s : State) : Host.Outcome State Fault Refusal :=
  if die < 2 then .next (s.setDie die { s.die die with droop := 65 }) else .next s

/-- DROOP_END (R374): once its 64 master cycles are over. -/
def execDroopEnd (die : Nat) (s : State) : Host.Outcome State Fault Refusal :=
  let d := s.die die
  if d.droop = 1 then .next (s.setDie die { d with droop := 0 }) else .next s

/-- CLOCK_HOP (R374): requested, begun and completed; during a droop response it waits. -/
def execClockHop (die : Nat) (ph : HopPhase) (s : State) : Host.Outcome State Fault Refusal :=
  let d := s.die die
  if 2 ≤ die then .next s
  else match ph with
    | .request => .next (s.setDie die { d with hopWaits := true })
    | .start => if d.hopWaits ∧ d.droop = 0 then .next (s.setDie die { d with hopWaits := false, hopping := true }) else .next s
    | .complete => if d.hopping ∧ d.droop = 0 then .next (s.setDie die { d with hopping := false, source := !d.source }) else .next s

/-- CLOCK_PATTERN_CHANGE (R373): at a boundary of the 16-pulse pattern; k is `km1` + 1. -/
def execClockPatternChange (cluster : Nat) (km1 : BitVec 4) (s : State) : Host.Outcome State Fault Refusal :=
  if cluster < 32 ∧ (s.die (cluster / 16)).all % 16 = 0 then .next { s with kslow := Tbl.set 0 s.kslow cluster (15 - km1) } else .next s

/-! Errors (R345, R372). -/

/-- The partition that owns a cluster or a vault. -/
def ownerWhere (s : State) (f : Part → Bool) : Option Nat := (s.parts.find? (fun e => decide (e.2.st ≠ .free) && f e.2)).map (·.1)

/-- The partition that an error of a unit counts to: its owner; for a link the one whose traffic it served, for a device-wide block the one whose access met it (R345). -/
def unitOwner (s : State) (u : HwUnit) (link : Option Nat) : Option Nat :=
  let core (c : Nat) : Option Nat := ownerWhere s (fun p => (coresOf p.rcd.clm).contains c)
  match u with
  | .lane c _ | .spadBank c _ | .accBank c _ | .engine c => core c
  | .vaultRow v _ => ownerWhere s (fun p => p.rcd.win.contains v)
  | .linkLane _ _ | .block => link.bind (fun p => if (s.part p).st = .free then none else some p)

/-- Error counters of a partition, or of the device, changed. -/
def countErr (s : State) (o : Option Nat) (f : ErrCnt → ErrCnt) : State :=
  match o with
  | some p => s.modErrs p f
  | none => { s with errs := f s.errs }

/-- The address of the instruction of a strand's access with an issue number: that of its entry in a queue, a channel, or among its returns and loads or its writes on their way (R179, R336); the PC of the strand where none is found. -/
def accessPc (s : State) (u ord : Nat) : BitVec 54 :=
  let t := s.strand u
  let found : List (BitVec 54) :=
    (t.sq.filter (fun e => decide (e.ord = ord))).map (·.pc)
      ++ ((s.core t.core).sent.filter (fun e => decide (e.sid = u) && decide (e.ord = ord))).map (fun e => e.entry.pc)
      ++ (t.loads.filter (fun r => decide (r.ord = ord))).map (·.pc)
      ++ (t.copy.cmds.filter (fun c => decide (c.ord = ord))).map (·.pc) ++ (t.mx.cmds.filter (fun c => decide (c.ord = ord))).map (·.pc)
  found.headD t.pc.bits

/-- ERROR_DETECTED (R179, R336, R345, R372): the unit goes to its self-test, a device-wide block has none; an uncorrectable error kills the strand whose access met it, with TRAPPC naming the instruction of the access. -/
def execErrorDetected (u : HwUnit) (corrected : Bool) (owner : Option Nat) (victim : Option (Nat × Nat)) (s : State) : Host.Outcome State Fault Refusal :=
  let s1 := countErr s (unitOwner s u owner) (fun e => if corrected then { e with corr := satAdd e.corr 1 } else { e with uncorr := satAdd e.uncorr 1 })
  let s2 := { s1 with testing := if s1.testing.contains u || decide (u = .block) then s1.testing else s1.testing ++ [u] }
  match corrected, victim with
  | false, some (v, ord) =>
    if (s2.strand v).life.live && decide ((s2.part (s2.strand v).part).st = .live) then .next (wakeAll (s2.kill v (trapWord .uncorrectable 0) (accessPc s2 v ord))) else .next s2
  | _, _ => .next s2

/-- A core retired: its strands are killed and no frame comes to it again (R372). -/
def retireCore (s : State) (c : Nat) : State :=
  (s.liveOn c).foldl (fun s (e : Nat × Strand) => s.kill e.1 (trapWord .uncorrectable 0) e.2.pc.bits) (s.setCore c { s.core c with retired := true })

/-- SELF_TEST_DONE (R372): SOFT when the test passes; else RETIRE, and the unit is replaced: a lane by the core's spare, once; a link runs with a lane less. -/
def execSelfTestDone (u : HwUnit) (pass : Bool) (owner : Option Nat) (s : State) : Host.Outcome State Fault Refusal :=
  if s.testing.contains u = false then .next s
  else
    let s1 := { s with testing := s.testing.erase u }
    let o := unitOwner s u owner
    if pass then .next (countErr s1 o (fun e => { e with soft := satAdd e.soft 1 }))
    else
      let s2 := countErr { s1 with retired := s1.retired ++ [u] } o (fun e => { e with retire := satAdd e.retire 1 })
      match u with
      | .lane c _ => if (s2.core c).spareUsed then .next (wakeAll (retireCore s2 c)) else .next (s2.setCore c { s2.core c with spareUsed := true })
      | .linkLane l _ => .next { s2 with links := Tbl.set 0 s2.links l (Tbl.get 0 s2.links l - 1) }
      | _ => .next s2

end Sys2Proof.Machine
end

