-- ==== Sys2Proof/Machine/Cross.lean ====
section
/-! DEFINITION. Cross.lean: the cross-lane instructions (R103 to R109, R132). -/

namespace Sys2Proof.Machine

/-- The source lane of a SHFL (R104): none outside 0 to L − 1. -/
def shflLane (v : ShflKind) (ext : Nat) (idx : Nat) (l : Nat) : Option Nat :=
  let ok (j : Nat) : Option Nat := if j < ext then some j else none
  match v with
  | .idx _ => ok idx
  | .up n => if n.toNat ≤ l then ok (l - n.toNat) else none
  | .down n => ok (l + n.toNat)
  | .xor n => ok (Nat.xor l n.toNat)

/-- SHFL (R104). -/
def execShfl (k : Marks) (v : ShflKind) (x y : VCode) (m : MCode) (s : State) : Host.Outcome State Fault Refusal :=
  issue (.shfl k v x y m) ⟨k, 0x39, 2, .plain⟩ s (fun s =>
    writes (operOf (.shfl k v x y m)) x false s (fun t ops l => match ops with
      | a :: r =>
        let idx := match r with
          | b :: _ => (b.at l).toNat
          | [] => 0
        (match shflLane v t.ext idx l with
        | some j => if a.map.getLsbD j then a.at j else a.at l
        | none => a.at l)
      | [] => 0))

/-- The result of an integer RED over values in any order (R105). -/
def redInt (op : RedOp) (ty : Ty) (l : List Int) : Int :=
  match op with
  | .add => l.foldl (· + ·) 0
  | .min => l.foldl (fun a b => if b < a then b else a) ty.hi
  | .max => l.foldl (fun a b => if a < b then b else a) ty.lo
  | _ => 0

/-- The result of a bitwise RED (R105). -/
def redBits (op : RedOp) (ty : Ty) (l : List W64) : W64 :=
  match op with
  | .and => l.foldl (· &&& ·) (BitVec.ofNat 64 (2 ^ ty.width - 1))
  | .or => l.foldl (· ||| ·) 0
  | _ => l.foldl (· ^^^ ·) 0

/-- The value RED writes (R105, R132). -/
def redValue (op : RedOp) (ty : Ty) (f : W32) (l : List W64) : W64 :=
  match op with
  | .add | .min | .max => BitVec.ofInt 64 (redInt op ty (l.map ty.val))
  | .and | .or | .xor => redBits op ty l
  | .fadd => BitVec.ofNat 64 (redF (fRM f) (fFZ f) 0 (l.map (·.toNat)))
  | .fmin => BitVec.ofNat 64 (redF (fRM f) (fFZ f) 1 (l.map (·.toNat)))
  | .fmax => BitVec.ofNat 64 (redF (fRM f) (fFZ f) 2 (l.map (·.toNat)))

/-- The values of one source on the operating map, rising lanes. -/
def laneVals (ext : Nat) (v : List VOpd) (m : LaneMap) : List (Nat × W64) :=
  match v with
  | [a] => (lanesIn ext m).map (fun l => (l, a.at l))
  | _ => []

/-- RED (R105, R132). -/
def execRed (k : Marks) (op : RedOp) (ty : Ty) (x : SCode) (y : VCode) (m : MCode) (s : State) : Host.Outcome State Fault Refusal :=
  issue (.red k op ty x y m) ⟨k, 0x3A, 2, .plain⟩ s (fun s =>
    reads (operOf (.red k op ty x y m)) s (fun t v m => t.setS x (redValue op ty t.f ((laneVals t.ext v m).map (·.2)))))

/-- A place in the order REDIDX compares by; none for an F32 NaN (R106). -/
def idxKey (ty : Ty) (v : W64) : Option Int :=
  if ty = .f32 then (if fmtF32.isNan v.toNat then none else some (fmtF32.key v.toNat)) else some (ty.val v)

/-- The winning lane of REDIDX: ties to the lowest lane, a NaN never against a number (R106). -/
def idxBest (mx : Bool) (ty : Ty) : Option (Nat × W64) → List (Nat × W64) → Option (Nat × W64)
  | best, [] => best
  | none, e :: r => idxBest mx ty (some e) r
  | some b, e :: r =>
    let better := match idxKey ty b.2, idxKey ty e.2 with
      | some p, some q => if mx then decide (p < q) else decide (q < p)
      | none, some _ => true
      | _, none => false
    idxBest mx ty (some (if better then e else b)) r

/-- The value REDIDX writes (R106). -/
def redidxValue (mx : Bool) (ty : Ty) (l : List (Nat × W64)) : W64 :=
  match idxBest mx ty none l with
  | some (i, v) =>
    let bits := if ty = .f32 ∧ fmtF32.isNan v.toNat then fmtF32.nan else v.toNat % 2 ^ 32
    BitVec.ofNat 64 (bits * 2 ^ 32 + i)
  | none =>
    let id := match ty, mx with
      | .s32, false => 0x7FFFFFFF
      | .s32, true => 0x80000000
      | .f32, false => 0x7F800000
      | .f32, true => 0xFF800000
      | _, false => 0xFFFFFFFF
      | _, true => 0
    BitVec.ofNat 64 (id * 2 ^ 32 + 0xFFFFFFFF)

/-- REDIDX (R106). -/
def execRedidx (k : Marks) (mx : Bool) (ty : Ty) (x : SCode) (y : VCode) (m : MCode) (s : State) : Host.Outcome State Fault Refusal :=
  issue (.redidx k mx ty x y m) ⟨k, 0x3B, 2, .plain⟩ s (fun s =>
    reads (operOf (.redidx k mx ty x y m)) s (fun t v m => t.setS x (redidxValue mx ty (laneVals t.ext v m))))

/-- The results of SCAN, lane by lane (R107). -/
def scanFrom (op : ScanOp) (ty : Ty) : Int → List (Nat × W64) → VReg
  | _, [] => []
  | acc, (l, v) :: r =>
    let a := ty.val v
    let next := match op with
      | .addi | .addx => ty.val (ty.wrap (acc + a))
      | .min => if a < acc then a else acc
      | .max => if acc < a then a else acc
    let out := match op with
      | .addx => acc
      | _ => next
    (l, (ty.wrap out).extractLsb' 0 32) :: scanFrom op ty next r

/-- The identity of SCAN (R107). -/
def scanStart (op : ScanOp) (ty : Ty) : Int :=
  match op with
  | .addi | .addx => 0
  | .min => ty.hi
  | .max => ty.lo

/-- A whole-vector result from one source. -/
def laneAll (i : Instr) (x : VCode) (s : State) (f : List (Nat × W64) → VReg) : Res :=
  let o := operOf i
  let t := s.me
  let out := f (laneVals t.ext (o.srcs.map t.readV) (t.operMap o))
  writes o x false s (fun _ _ l => (VReg.lane out l).zeroExtend 64)

/-- SCAN (R107). -/
def execScan (k : Marks) (op : ScanOp) (ty : Ty) (x y : VCode) (m : MCode) (s : State) : Host.Outcome State Fault Refusal :=
  issue (.scan k op ty x y m) ⟨k, 0x3C, 2, .plain⟩ s (fun s => laneAll (.scan k op ty x y m) x s (scanFrom op ty (scanStart op ty)))

/-- The position of a lane in the stable ascending order of the values (R108). -/
def rankOf (ty : Ty) (l : List (Nat × W64)) (e : Nat × W64) : Nat :=
  (l.filter (fun j => decide (ty.val j.2 < ty.val e.2) || (decide (ty.val j.2 = ty.val e.2) && decide (j.1 < e.1)))).length

/-- RANK (R108). -/
def execRank (k : Marks) (ty : Ty) (x y : VCode) (m : MCode) (s : State) : Host.Outcome State Fault Refusal :=
  issue (.rank k ty x y m) ⟨k, 0x3D, 2, .plain⟩ s (fun s =>
    laneAll (.rank k ty x y m) x s (fun l => l.map (fun e => (e.1, BitVec.ofNat 32 (rankOf ty l e)))))

/-- VGET (R109). -/
def execVget (k : Marks) (ty : Ty) (x : SCode) (y : VCode) (z : SCode) (n : BitVec 10) (m : MCode) (s : State) : Host.Outcome State Fault Refusal :=
  issue (.vget k ty x y z n m) ⟨k, 0x3E, 2, .plain⟩ s (fun s =>
    let j := (s.me.s z).toNat + n.toNat
    reads (operOf (.vget k ty x y z n m)) s (fun t v m => t.setS x (match v with
      | [a] => if j < t.ext ∧ m.getLsbD j then BitVec.ofInt 64 (ty.val (a.at j)) else 0
      | _ => 0)))

/-- VPUT (R109). -/
def execVput (k : Marks) (ty : Ty) (x : VCode) (y z : SCode) (m : MCode) (imm : W32) (s : State) : Host.Outcome State Fault Refusal :=
  issue (.vput k ty x y z m imm) ⟨k, 0x3F, 3, .plain⟩ s (fun s =>
    writes (operOf (.vput k ty x y z m imm)) x ty.wide s (fun t _ _ => t.s y))

end Sys2Proof.Machine
end

