-- ==== Sys2Proof/Machine/FloatLane.lean ====
section
/-! DEFINITION. FloatLane.lean: the floating-point lane instructions (R125 to R129) and SETF (R121). -/

namespace Sys2Proof.Machine

/-- A rounded two-operand instruction (R126). -/
def farith (i : Instr) (ty : Ty) (op : FOp) (x : VCode) (s : State) : Res :=
  let f := s.me.f
  lane2 i x false s (fun a b => BitVec.ofNat 64 (ty.fmt.arith (fRM f) (fFZ f) op a.toNat b.toNat))

/-- A rounded one-operand instruction (R126). -/
def ffunc (i : Instr) (ty : Ty) (op : FFun) (x : VCode) (s : State) : Res :=
  let f := s.me.f
  lane1 i x false s (fun a => BitVec.ofNat 64 (ty.fmt.func (fRM f) (fFZ f) op a.toNat))

/-- FADD (R126). -/
def execFadd (k : Marks) (ty : Ty) (x y z : VCode) (m : MCode) (s : State) : Host.Outcome State Fault Refusal :=
  issue (.fadd k ty x y z m) ⟨k, 0x40, 2, .plain⟩ s (farith (.fadd k ty x y z m) ty .add x)

/-- FSUB (R126). -/
def execFsub (k : Marks) (ty : Ty) (x y z : VCode) (m : MCode) (s : State) : Host.Outcome State Fault Refusal :=
  issue (.fsub k ty x y z m) ⟨k, 0x41, 2, .plain⟩ s (farith (.fsub k ty x y z m) ty .sub x)

/-- FMUL (R126). -/
def execFmul (k : Marks) (ty : Ty) (x y z : VCode) (m : MCode) (s : State) : Host.Outcome State Fault Refusal :=
  issue (.fmul k ty x y z m) ⟨k, 0x42, 2, .plain⟩ s (farith (.fmul k ty x y z m) ty .mul x)

/-- FMA (R126). -/
def execFma (k : Marks) (ty : Ty) (x y z w : VCode) (m : MCode) (s : State) : Host.Outcome State Fault Refusal :=
  issue (.fma k ty x y z w m) ⟨k, 0x43, 3, .plain⟩ s (fun s =>
    let f := s.me.f
    lane3 (.fma k ty x y z w m) x false s (fun a b c => BitVec.ofNat 64 (ty.fmt.fma (fRM f) (fFZ f) a.toNat b.toNat c.toNat)))

/-- FMIN (R127). -/
def execFmin (k : Marks) (ty : Ty) (x y z : VCode) (m : MCode) (s : State) : Host.Outcome State Fault Refusal :=
  issue (.fmin k ty x y z m) ⟨k, 0x44, 2, .plain⟩ s (fun s =>
    let f := s.me.f
    lane2 (.fmin k ty x y z m) x false s (fun a b => BitVec.ofNat 64 (ty.fmt.minmax (fFZ f) false a.toNat b.toNat)))

/-- FMAX (R127). -/
def execFmax (k : Marks) (ty : Ty) (x y z : VCode) (m : MCode) (s : State) : Host.Outcome State Fault Refusal :=
  issue (.fmax k ty x y z m) ⟨k, 0x45, 2, .plain⟩ s (fun s =>
    let f := s.me.f
    lane2 (.fmax k ty x y z m) x false s (fun a b => BitVec.ofNat 64 (ty.fmt.minmax (fFZ f) true a.toNat b.toNat)))

/-- FNEG (R128). -/
def execFneg (k : Marks) (ty : Ty) (x y : VCode) (m : MCode) (s : State) : Host.Outcome State Fault Refusal :=
  issue (.fneg k ty x y m) ⟨k, 0x46, 2, .plain⟩ s (fun s =>
    lane1 (.fneg k ty x y m) x false s (fun a => BitVec.ofNat 64 (ty.fmt.withSign a.toNat (!ty.fmt.neg a.toNat))))

/-- FABS (R128). -/
def execFabs (k : Marks) (ty : Ty) (x y : VCode) (m : MCode) (s : State) : Host.Outcome State Fault Refusal :=
  issue (.fabs k ty x y m) ⟨k, 0x46, 2, .plain⟩ s (fun s =>
    lane1 (.fabs k ty x y m) x false s (fun a => BitVec.ofNat 64 (ty.fmt.withSign a.toNat false)))

/-- FCOPYSIGN (R128). -/
def execFcopysign (k : Marks) (ty : Ty) (x y z : VCode) (m : MCode) (s : State) : Host.Outcome State Fault Refusal :=
  issue (.fcopysign k ty x y z m) ⟨k, 0x46, 2, .plain⟩ s (fun s =>
    lane2 (.fcopysign k ty x y z m) x false s (fun a b => BitVec.ofNat 64 (ty.fmt.withSign a.toNat (ty.fmt.neg b.toNat))))

/-- FCMP (R129). -/
def execFcmp (k : Marks) (ty : Ty) (cc : FCond) (x pe : MCode) (y z : VCode) (m : MCode) (s : State) : Host.Outcome State Fault Refusal :=
  issue (.fcmp k ty cc x pe y z m) ⟨k, 0x47, 2, .plain⟩ s (fun s =>
    compare (.fcmp k ty cc x pe y z m) x pe s (fun t a b => ty.fmt.cmp (fFZ t.f) cc a.toNat b.toNat))

/-- FRCP (R126). -/
def execFrcp (k : Marks) (ty : Ty) (x y : VCode) (m : MCode) (s : State) : Host.Outcome State Fault Refusal :=
  issue (.frcp k ty x y m) ⟨k, 0x48, 2, .plain⟩ s (ffunc (.frcp k ty x y m) ty .rcp x)

/-- FRSQ (R126). -/
def execFrsq (k : Marks) (ty : Ty) (x y : VCode) (m : MCode) (s : State) : Host.Outcome State Fault Refusal :=
  issue (.frsq k ty x y m) ⟨k, 0x49, 2, .plain⟩ s (ffunc (.frsq k ty x y m) ty .rsq x)

/-- FSQRT (R126). -/
def execFsqrt (k : Marks) (ty : Ty) (x y : VCode) (m : MCode) (s : State) : Host.Outcome State Fault Refusal :=
  issue (.fsqrt k ty x y m) ⟨k, 0x4A, 2, .plain⟩ s (ffunc (.fsqrt k ty x y m) ty .sqrt x)

/-- FEXP2 (R126). -/
def execFexp2 (k : Marks) (ty : Ty) (x y : VCode) (m : MCode) (s : State) : Host.Outcome State Fault Refusal :=
  issue (.fexp2 k ty x y m) ⟨k, 0x4B, 2, .plain⟩ s (ffunc (.fexp2 k ty x y m) ty .exp2 x)

/-- FLOG2 (R126). -/
def execFlog2 (k : Marks) (ty : Ty) (x y : VCode) (m : MCode) (s : State) : Host.Outcome State Fault Refusal :=
  issue (.flog2 k ty x y m) ⟨k, 0x4C, 2, .plain⟩ s (ffunc (.flog2 k ty x y m) ty .log2 x)

/-- FDIV (R126). -/
def execFdiv (k : Marks) (ty : Ty) (x y z : VCode) (m : MCode) (s : State) : Host.Outcome State Fault Refusal :=
  issue (.fdiv k ty x y z m) ⟨k, 0x4D, 2, .plain⟩ s (farith (.fdiv k ty x y z m) ty .div x)

/-- SETF (R121). -/
def execSetf (k : Marks) (d a : SCode) (b : SOpB) (s : State) : Host.Outcome State Fault Refusal :=
  issue (.setf k d a b) ⟨k, 0x57, 2, .plain⟩ s (fun s =>
    let t := s.me
    let mask : W32 := (t.s a).extractLsb' 0 32
    let val : W32 := (b.get t).extractLsb' 0 32
    let new := (t.f &&& ~~~mask) ||| (val &&& mask)
    if fValid new then .done (s.setMe { t.setS d (t.f.zeroExtend 64) with f := new }) 1 else .trap .format 0)

end Sys2Proof.Machine
end

