-- ==== Sys2Proof/Machine/Scalar.lean ====
section
/-! DEFINITION. Scalar.lean: the scalar and base instructions (R110, R111) and the special registers (R65, R112, R113). -/

namespace Sys2Proof.Machine

/-- S[Sd] := f(S[Sa], B) (R111). -/
def salu (i : Instr) (h : Head) (d a : SCode) (b : SOpB) (s : State) (f : W64 → W64 → W64) : Host.Outcome State Fault Refusal :=
  issue i h s (fun s => putS s d (f (s.me.s a) (b.get s.me)) 1)

/-- SADD (R111). -/
def execSadd (k : Marks) (d a : SCode) (b : SOpB) (s : State) : Host.Outcome State Fault Refusal :=
  salu (.sadd k d a b) ⟨k, 0x50, 2, .plain⟩ d a b s (· + ·)

/-- SSUB (R111). -/
def execSsub (k : Marks) (d a : SCode) (b : SOpB) (s : State) : Host.Outcome State Fault Refusal :=
  salu (.ssub k d a b) ⟨k, 0x50, 2, .plain⟩ d a b s (· - ·)

/-- SAND (R111). -/
def execSand (k : Marks) (d a : SCode) (b : SOpB) (s : State) : Host.Outcome State Fault Refusal :=
  salu (.sand k d a b) ⟨k, 0x50, 2, .plain⟩ d a b s (· &&& ·)

/-- SOR (R111). -/
def execSor (k : Marks) (d a : SCode) (b : SOpB) (s : State) : Host.Outcome State Fault Refusal :=
  salu (.sor k d a b) ⟨k, 0x50, 2, .plain⟩ d a b s (· ||| ·)

/-- SXOR (R111). -/
def execSxor (k : Marks) (d a : SCode) (b : SOpB) (s : State) : Host.Outcome State Fault Refusal :=
  salu (.sxor k d a b) ⟨k, 0x50, 2, .plain⟩ d a b s (· ^^^ ·)

/-- SSHL (R111). -/
def execSshl (k : Marks) (d a : SCode) (b : SOpB) (s : State) : Host.Outcome State Fault Refusal :=
  salu (.sshl k d a b) ⟨k, 0x50, 2, .plain⟩ d a b s (fun x n => if 64 ≤ n.toNat then 0 else x <<< n.toNat)

/-- SSHR (R111). -/
def execSshr (k : Marks) (d a : SCode) (b : SOpB) (s : State) : Host.Outcome State Fault Refusal :=
  salu (.sshr k d a b) ⟨k, 0x50, 2, .plain⟩ d a b s (fun x n => if 64 ≤ n.toNat then 0 else x >>> n.toNat)

/-- SSAR (R111). -/
def execSsar (k : Marks) (d a : SCode) (b : SOpB) (s : State) : Host.Outcome State Fault Refusal :=
  salu (.ssar k d a b) ⟨k, 0x50, 2, .plain⟩ d a b s (fun x n => x.sshiftRight (Nat.min n.toNat 63))

/-- SMIN (R111). -/
def execSmin (k : Marks) (d a : SCode) (b : SOpB) (s : State) : Host.Outcome State Fault Refusal :=
  salu (.smin k d a b) ⟨k, 0x50, 2, .plain⟩ d a b s (fun x y => if y.toInt < x.toInt then y else x)

/-- SMAX (R111). -/
def execSmax (k : Marks) (d a : SCode) (b : SOpB) (s : State) : Host.Outcome State Fault Refusal :=
  salu (.smax k d a b) ⟨k, 0x50, 2, .plain⟩ d a b s (fun x y => if x.toInt < y.toInt then y else x)

/-- SMUL (R111). -/
def execSmul (k : Marks) (d a : SCode) (b : SOpB) (s : State) : Host.Outcome State Fault Refusal :=
  salu (.smul k d a b) ⟨k, 0x51, 2, .plain⟩ d a b s (· * ·)

/-- SCMP (R111). -/
def execScmp (k : Marks) (cc : SCond) (d a : SCode) (b : SOpB) (s : State) : Host.Outcome State Fault Refusal :=
  salu (.scmp k cc d a b) ⟨k, 0x52, 2, .plain⟩ d a b s (fun x y => if cc.holds x y then 1 else 0)

/-- SLI (R111). -/
def execSli (k : Marks) (d : SCode) (imm : W64) (s : State) : Host.Outcome State Fault Refusal :=
  issue (.sli k d imm) ⟨k, 0x53, 4, .plain⟩ s (fun s => putS s d imm 1)

/-- BSET (R111). -/
def execBset (k : Marks) (d : BCode) (a : SCode) (b : SOpB) (s : State) : Host.Outcome State Fault Refusal :=
  issue (.bset k d a b) ⟨k, 0x54, 2, .plain⟩ s (fun s =>
    let t := s.me
    let hi : BitVec 16 := (b.get t).extractLsb' 0 16
    .done (s.setMe (t.setBase d (hi ++ t.s a))) 1)

/-- BADD (R111). -/
def execBadd (k : Marks) (d a : BCode) (b : SOpB) (s : State) : Host.Outcome State Fault Refusal :=
  issue (.badd k d a b) ⟨k, 0x54, 2, .plain⟩ s (fun s =>
    let t := s.me
    .done (s.setMe (t.setBase d (t.base a + (b.get t).signExtend 80))) 1)

/-- BGET (R111). -/
def execBget (k : Marks) (d : SCode) (a : BCode) (h : Bool) (s : State) : Host.Outcome State Fault Refusal :=
  issue (.bget k d a h) ⟨k, 0x54, 2, .plain⟩ s (fun s =>
    let v := s.me.base a
    putS s d (if h then (v.extractLsb' 64 16).zeroExtend 64 else v.extractLsb' 0 64) 1)

/-- PARTCFG of a partition (R356). -/
def partcfg (p : Nat) (r : PartRecord) : W64 :=
  BitVec.ofNat 64 (r.cxlsh % 256 * 2 ^ 32 + r.tcmax % 4 * 2 ^ 30 + r.c3sh % 64 * 2 ^ 24 + (if r.brace then 2 ^ 16 else 0) + p % 64)

/-- VNEAR: the window vaults 0 to 63 directly above a core (R66). -/
def vnear (win : List Nat) (core : Nat) : W64 :=
  BitVec.ofNat 64 (((List.range 64).filter (fun i => match win[i]? with
    | some v => decide (vaultCore v = core)
    | none => false)).foldl (fun a i => a + 2 ^ i) 0)

/-- The value a special register reads as (R66, R112). -/
def sregRead (s : State) (t : Strand) (n : SReg) : W64 :=
  let p := s.part t.part
  match n with
  | .strandid => BitVec.ofNat 64 t.sidx
  | .frameid => t.frameId.zeroExtend 64
  | .framesize => BitVec.ofNat 64 t.fsize
  | .laneext => BitVec.ofNat 64 t.ext
  | .spanw => BitVec.ofNat 64 t.span
  | .coreid => BitVec.ofNat 64 t.core
  | .clusterid => BitVec.ofNat 64 (clusterOf t.core)
  | .dieid => BitVec.ofNat 64 (dieOf t.core)
  | .partid => BitVec.ofNat 64 t.part
  | .launchid => t.launchId.zeroExtend 64
  | .vnear => vnear p.rcd.win t.core
  | .arg i => Tbl.get 0 t.args i.toNat
  | .cycle => (s.die (dieOf t.core)).cycle
  | .energy => Tbl.get 0 (s.die (dieOf t.core)).energy t.part
  | .disc => BitVec.ofNat 64 t.disc
  | .mapdrop => t.mapdrop.zeroExtend 64
  | .stray => t.stray.zeroExtend 64
  | .runcut => t.runcut.zeroExtend 64
  | .cpbatch => t.copy.cpbatch.zeroExtend 64
  | .mxbatch => t.mx.mxbatch.zeroExtend 64
  | .batchstat => t.batchstat
  | .idem => t.idem.zeroExtend 64
  | .handler => t.handler.zeroExtend 64
  | .absvec => t.absvec.zeroExtend 64
  | .trapcode => t.trapcode
  | .trappc => t.trappc.zeroExtend 64
  | .status => t.status (s.paired t)
  | .partcfg => partcfg t.part p.rcd
  | .ebudget => (s.core t.core).ebudget
  | .prio => BitVec.ofNat 64 t.prio
  | .pegquota => BitVec.ofNat 64 t.pegquota
  | .shadowbase => BitVec.ofNat 64 p.rcd.shadowbase
  | .chweight i => p.rcd.chw.extractLsb' (64 * i.toNat) 64

/-- A register of which a U strand has no view (R65). -/
def SReg.hidden : SReg → Bool
  | .partcfg | .shadowbase => true
  | _ => false

/-- A register only a K strand writes (R65). -/
def SReg.privWrite : SReg → Bool
  | .ebudget | .prio | .pegquota | .chweight _ | .partcfg | .shadowbase => true
  | _ => false

/-- A register that both privileges write (R65). -/
def SReg.userWrite : SReg → Bool
  | .disc | .mapdrop | .stray | .runcut | .idem | .handler | .absvec => true
  | _ => false

/-- MFS (R112). -/
def execMfs (k : Marks) (d : SCode) (n : SReg) (s : State) : Host.Outcome State Fault Refusal :=
  issue (.mfs k d n) ⟨k, 0x55, 2, .plain⟩ s (fun s =>
    if SReg.hidden n && !s.me.priv then .trap .privilege 0 else putS s d (sregRead s s.me n) 1)

/-- The sum of the quotas of the other live strands of a strand's core (R275). -/
def otherQuotas (s : State) (u : Nat) : Nat :=
  sumOf (fun e => if e.1 ≠ u then e.2.pegquota else 0) (s.liveOn (s.strand u).core)

/-- A special register written; none for a value it cannot take (R65, R72, R275, R318, R334, R340, R356). -/
def sregWrite (s : State) (n : SReg) (v : W64) : Option State :=
  let t := s.me
  let p := s.part t.part
  let x := v.toNat
  let v38 : BitVec 38 := v.extractLsb' 0 38
  let v32 : W32 := v.extractLsb' 0 32
  match n with
  | .disc => if x ≤ 2 then some (s.setMe { t with disc := x }) else none
  | .mapdrop => if x < 2 ^ 32 then some (s.setMe { t with mapdrop := v32 }) else none
  | .stray => if x < 2 ^ 32 then some (s.setMe { t with stray := v32 }) else none
  | .runcut => if x < 2 ^ 32 then some (s.setMe { t with runcut := v32 }) else none
  | .idem => if x < 2 ^ 38 then some (s.setMe { t with idem := v38 }) else none
  | .handler => if x < 2 ^ 38 then some (s.setMe { t with handler := v38 }) else none
  | .absvec => if x < 2 ^ 38 then some (s.setMe { t with absvec := v38 }) else none
  | .ebudget => some (s.setCore t.core { s.core t.core with ebudget := v })
  | .prio => if x ≤ 3 then some (s.setMe { t with prio := x }) else none
  | .pegquota =>
    if 1 ≤ x ∧ x ≤ 32768 ∧ otherQuotas s s.cur + x ≤ Config.corePegs then some (s.setMe { t with pegquota := x }) else none
  | .shadowbase =>
    if x % 2 ^ 21 = 0 ∧ x ≤ 30 * 2 ^ 20 then some (s.setPart t.part { p with rcd := { p.rcd with shadowbase := x } }) else none
  | .partcfg =>
    let old := partcfg t.part p.rcd
    let b := v.getLsbD 16
    if (v ^^^ old) &&& ~~~(BitVec.ofNat 64 (2 ^ 16)) = 0 ∧ ¬(b = true ∧ (clustersOf p.rcd.clm).length = 1) then
      some (s.setPart t.part { p with rcd := { p.rcd with brace := b } })
    else none
  | .chweight i =>
    let hi : LaneMap := p.rcd.chw &&& ~~~(BitVec.ofNat 1024 ((2 ^ 64 - 1) * 2 ^ (64 * i.toNat)))
    some (s.setPart t.part { p with rcd := { p.rcd with chw := hi ||| BitVec.ofNat 1024 (x * 2 ^ (64 * i.toNat)) } })
  | _ => none

/-- MTS (R65, R112). -/
def execMts (k : Marks) (n : SReg) (a : SCode) (s : State) : Host.Outcome State Fault Refusal :=
  issue (.mts k n a) ⟨k, 0x56, 2, .plain⟩ s (fun s =>
    if SReg.privWrite n && !s.me.priv then .trap .privilege 0
    else if !SReg.privWrite n && !SReg.userWrite n then .trap .illegalOperand 0
    else match sregWrite s n (s.me.s a) with
      | some s' => .done s' 1
      | none => .trap .illegalOperand 0)

end Sys2Proof.Machine
end

