-- ==== Sys2Proof/Machine/Dispatch.lean ====
section
/-! DEFINITION. Dispatch.lean: one arm for each row of the operation table, each a direct call of its meaning. -/

namespace Sys2Proof.Machine

/-- The effect of an instruction issued by the running strand, or of an event of another agent. -/
def exec (i : Instr) (s : State) : Host.Outcome State Fault Refusal :=
  match i with
  | .nop k hint => Sys2Proof.Machine.execNop k hint s
  | .if_ k p off => Sys2Proof.Machine.execIf k p off s
  | .else_ k off => Sys2Proof.Machine.execElse k off s
  | .endif k => Sys2Proof.Machine.execEndif k s
  | .loop k off => Sys2Proof.Machine.execLoop k off s
  | .brk k y => Sys2Proof.Machine.execBrk k y s
  | .cont k y => Sys2Proof.Machine.execCont k y s
  | .endloop k off => Sys2Proof.Machine.execEndloop k off s
  | .bra k c off => Sys2Proof.Machine.execBra k c off s
  | .call k off => Sys2Proof.Machine.execCall k off s
  | .ocall k sk off => Sys2Proof.Machine.execOcall k sk off s
  | .ret k => Sys2Proof.Machine.execRet k s
  | .rett k => Sys2Proof.Machine.execRett k s
  | .exit k => Sys2Proof.Machine.execExit k s
  | .trap k n => Sys2Proof.Machine.execTrap k n s
  | .bkpt k n => Sys2Proof.Machine.execBkpt k n s
  | .spawn k sp y z q imm => Sys2Proof.Machine.execSpawn k sp y z q imm s
  | .opinPin k y j => Sys2Proof.Machine.execOpinPin k y j s
  | .opinUnpin k y j => Sys2Proof.Machine.execOpinUnpin k y j s
  | .opinQuery k x y j => Sys2Proof.Machine.execOpinQuery k x y j s
  | .pand k x y z m => Sys2Proof.Machine.execPand k x y z m s
  | .por k x y z m => Sys2Proof.Machine.execPor k x y z m s
  | .pxor k x y z m => Sys2Proof.Machine.execPxor k x y z m s
  | .pandn k x y z m => Sys2Proof.Machine.execPandn k x y z m s
  | .pnot k x y m => Sys2Proof.Machine.execPnot k x y m s
  | .pmov k x y m => Sys2Proof.Machine.execPmov k x y m s
  | .pfirst k x y z n m => Sys2Proof.Machine.execPfirst k x y z n m s
  | .prange k x y z n m => Sys2Proof.Machine.execPrange k x y z n m s
  | .pmap k x y m => Sys2Proof.Machine.execPmap k x y m s
  | .pcnt k x y m => Sys2Proof.Machine.execPcnt k x y m s
  | .pfind k x y z n m => Sys2Proof.Machine.execPfind k x y z n m s
  | .elect k x y m => Sys2Proof.Machine.execElect k x y m s
  | .thin k ty x y z m => Sys2Proof.Machine.execThin k ty x y z m s
  | .merge k ty x y z m => Sys2Proof.Machine.execMerge k ty x y z m s
  | .pget k x y z n => Sys2Proof.Machine.execPget k x y z n s
  | .pput k x y z n => Sys2Proof.Machine.execPput k x y z n s
  | .pspan k x y m => Sys2Proof.Machine.execPspan k x y m s
  | .add k ty sat x y z m => Sys2Proof.Machine.execAdd k ty sat x y z m s
  | .sub k ty sat x y z m => Sys2Proof.Machine.execSub k ty sat x y z m s
  | .mul k ty sat x y z m => Sys2Proof.Machine.execMul k ty sat x y z m s
  | .mulh k ty x y z m => Sys2Proof.Machine.execMulh k ty x y z m s
  | .mad k ty sat x y z w m => Sys2Proof.Machine.execMad k ty sat x y z w m s
  | .min k ty x y z m => Sys2Proof.Machine.execMin k ty x y z m s
  | .max k ty x y z m => Sys2Proof.Machine.execMax k ty x y z m s
  | .neg k ty sat x y m => Sys2Proof.Machine.execNeg k ty sat x y m s
  | .and_ k ty x y z m => Sys2Proof.Machine.execAnd k ty x y z m s
  | .or_ k ty x y z m => Sys2Proof.Machine.execOr k ty x y z m s
  | .xor_ k ty x y z m => Sys2Proof.Machine.execXor k ty x y z m s
  | .not_ k ty x y m => Sys2Proof.Machine.execNot k ty x y m s
  | .shl k ty x y z m => Sys2Proof.Machine.execShl k ty x y z m s
  | .shr k ty x y z m => Sys2Proof.Machine.execShr k ty x y z m s
  | .popc k x y m => Sys2Proof.Machine.execPopc k x y m s
  | .clz k x y m => Sys2Proof.Machine.execClz k x y m s
  | .bfx k ty x y z m => Sys2Proof.Machine.execBfx k ty x y z m s
  | .bfi k x y z w m => Sys2Proof.Machine.execBfi k x y z w m s
  | .cmp k ty cc x pe y z m => Sys2Proof.Machine.execCmp k ty cc x pe y z m s
  | .sel k ty x y z pc m => Sys2Proof.Machine.execSel k ty x y z pc m s
  | .movi k ty x m imm => Sys2Proof.Machine.execMovi k ty x m imm s
  | .mov k ty x y m => Sys2Proof.Machine.execMov k ty x y m s
  | .laneid k x m => Sys2Proof.Machine.execLaneid k x m s
  | .bcast k ty x y m => Sys2Proof.Machine.execBcast k ty x y m s
  | .cvt k src ty x y m => Sys2Proof.Machine.execCvt k src ty x y m s
  | .shfl k v x y m => Sys2Proof.Machine.execShfl k v x y m s
  | .red k op ty x y m => Sys2Proof.Machine.execRed k op ty x y m s
  | .redidx k mx ty x y m => Sys2Proof.Machine.execRedidx k mx ty x y m s
  | .scan k op ty x y m => Sys2Proof.Machine.execScan k op ty x y m s
  | .rank k ty x y m => Sys2Proof.Machine.execRank k ty x y m s
  | .vget k ty x y z n m => Sys2Proof.Machine.execVget k ty x y z n m s
  | .vput k ty x y z m imm => Sys2Proof.Machine.execVput k ty x y z m imm s
  | .fadd k ty x y z m => Sys2Proof.Machine.execFadd k ty x y z m s
  | .fsub k ty x y z m => Sys2Proof.Machine.execFsub k ty x y z m s
  | .fmul k ty x y z m => Sys2Proof.Machine.execFmul k ty x y z m s
  | .fma k ty x y z w m => Sys2Proof.Machine.execFma k ty x y z w m s
  | .fmin k ty x y z m => Sys2Proof.Machine.execFmin k ty x y z m s
  | .fmax k ty x y z m => Sys2Proof.Machine.execFmax k ty x y z m s
  | .fneg k ty x y m => Sys2Proof.Machine.execFneg k ty x y m s
  | .fabs k ty x y m => Sys2Proof.Machine.execFabs k ty x y m s
  | .fcopysign k ty x y z m => Sys2Proof.Machine.execFcopysign k ty x y z m s
  | .fcmp k ty cc x pe y z m => Sys2Proof.Machine.execFcmp k ty cc x pe y z m s
  | .frcp k ty x y m => Sys2Proof.Machine.execFrcp k ty x y m s
  | .frsq k ty x y m => Sys2Proof.Machine.execFrsq k ty x y m s
  | .fsqrt k ty x y m => Sys2Proof.Machine.execFsqrt k ty x y m s
  | .fexp2 k ty x y m => Sys2Proof.Machine.execFexp2 k ty x y m s
  | .flog2 k ty x y m => Sys2Proof.Machine.execFlog2 k ty x y m s
  | .fdiv k ty x y z m => Sys2Proof.Machine.execFdiv k ty x y z m s
  | .sadd k d a b => Sys2Proof.Machine.execSadd k d a b s
  | .ssub k d a b => Sys2Proof.Machine.execSsub k d a b s
  | .sand k d a b => Sys2Proof.Machine.execSand k d a b s
  | .sor k d a b => Sys2Proof.Machine.execSor k d a b s
  | .sxor k d a b => Sys2Proof.Machine.execSxor k d a b s
  | .sshl k d a b => Sys2Proof.Machine.execSshl k d a b s
  | .sshr k d a b => Sys2Proof.Machine.execSshr k d a b s
  | .ssar k d a b => Sys2Proof.Machine.execSsar k d a b s
  | .smin k d a b => Sys2Proof.Machine.execSmin k d a b s
  | .smax k d a b => Sys2Proof.Machine.execSmax k d a b s
  | .smul k d a b => Sys2Proof.Machine.execSmul k d a b s
  | .scmp k cc d a b => Sys2Proof.Machine.execScmp k cc d a b s
  | .sli k d imm => Sys2Proof.Machine.execSli k d imm s
  | .bset k d a b => Sys2Proof.Machine.execBset k d a b s
  | .badd k d a b => Sys2Proof.Machine.execBadd k d a b s
  | .bget k d a h => Sys2Proof.Machine.execBget k d a h s
  | .mfs k d n => Sys2Proof.Machine.execMfs k d n s
  | .mts k n a => Sys2Proof.Machine.execMts k n a s
  | .setf k d a b => Sys2Proof.Machine.execSetf k d a b s
  | .setg k d b => Sys2Proof.Machine.execSetg k d b s
  | .ld k ty o sc sp x y z m imm => Sys2Proof.Machine.execLd k ty o sc sp x y z m imm s
  | .lds k ty o sc sp x y imm => Sys2Proof.Machine.execLds k ty o sc sp x y imm s
  | .st k ty o sc sp x y z m imm => Sys2Proof.Machine.execSt k ty o sc sp x y z m imm s
  | .sts k ty o sc sp x y imm => Sys2Proof.Machine.execSts k ty o sc sp x y imm s
  | .atom k op ty o sc sp res x y z vs m imm => Sys2Proof.Machine.execAtom k op ty o sc sp res x y z vs m imm s
  | .atoms k op ty o sc sp x y z e imm => Sys2Proof.Machine.execAtoms k op ty o sc sp x y z e imm s
  | .fence k o sc => Sys2Proof.Machine.execFence k o sc s
  | .meet k form x j n => Sys2Proof.Machine.execMeet k form x j n s
  | .ldb k sp x y imm => Sys2Proof.Machine.execLdb k sp x y imm s
  | .stb k sp x y imm => Sys2Proof.Machine.execStb k sp x y imm s
  | .pldm k sp x y imm => Sys2Proof.Machine.execPldm k sp x y imm s
  | .pstm k sp x y imm => Sys2Proof.Machine.execPstm k sp x y imm s
  | .cpy k size o sc dst src y m ctr => Sys2Proof.Machine.execCpy k size o sc dst src y m ctr s
  | .cpgather k src o sc sp x y z str ro wl m ctr => Sys2Proof.Machine.execCpgather k src o sc sp x y z str ro wl m ctr s
  | .sort k o sc sp x y z tb km1 => Sys2Proof.Machine.execSort k o sc sp x y z tb km1 s
  | .bclose k mx x => Sys2Proof.Machine.execBclose k mx x s
  | .wait k vis mx trp x y => Sys2Proof.Machine.execWait k vis mx trp x y s
  | .ovld k src o sc y z ss slot idi cnt => Sys2Proof.Machine.execOvld k src o sc y z ss slot idi cnt s
  | .depDec k y n => Sys2Proof.Machine.execDepDec k y n s
  | .depAdd k y n z => Sys2Proof.Machine.execDepAdd k y n z s
  | .depRead k x y n => Sys2Proof.Machine.execDepRead k x y n s
  | .tinv k x y z => Sys2Proof.Machine.execTinv k x y z s
  | .malloc k x y n => Sys2Proof.Machine.execMalloc k x y n s
  | .mfree k y => Sys2Proof.Machine.execMfree k y s
  | .mma k ty maj gng o sc sp x y z m kb sk spl sm rs => Sys2Proof.Machine.execMma k ty maj gng o sc sp x y z m kb sk spl sm rs s
  | .mzero k y kb => Sys2Proof.Machine.execMzero k y kb s
  | .mrd k ty x y z kb r m => Sys2Proof.Machine.execMrd k ty x y z kb r m s
  | .mst k ty o sc sp x y z sa kb rs => Sys2Proof.Machine.execMst k ty o sc sp x y z sa kb rs s
  | .xdisp k o sc x y z c => Sys2Proof.Machine.execXdisp k o sc x y z c s
  | .xpull k x y z a => Sys2Proof.Machine.execXpull k x y z a s
  | .xctlSetbias k x y z => Sys2Proof.Machine.execXctlSetbias k x y z s
  | .xctlFlip k x => Sys2Proof.Machine.execXctlFlip k x s
  | .xctlSnap k sp y z n => Sys2Proof.Machine.execXctlSnap k sp y z n s
  | .xctlRepl k x y z => Sys2Proof.Machine.execXctlRepl k x y z s
  | .xctlPin k x y p => Sys2Proof.Machine.execXctlPin k x y p s
  | .xctlEvict k x y => Sys2Proof.Machine.execXctlEvict k x y s
  | .xctlDone k x y => Sys2Proof.Machine.execXctlDone k x y s
  | .xctlClose k c => Sys2Proof.Machine.execXctlClose k c s
  | .xbias k x y m => Sys2Proof.Machine.execXbias k x y m s
  | .returnArrival sid ord lane => Sys2Proof.Machine.execReturnArrival sid ord lane s
  | .scalarReturn sid ord which => Sys2Proof.Machine.execScalarReturn sid ord which s
  | .storeQueueLeave sid => Sys2Proof.Machine.execStoreQueueLeave sid s
  | .spawnAppend sid => Sys2Proof.Machine.execSpawnAppend sid s
  | .writeArrival core idx => Sys2Proof.Machine.execWriteArrival core idx s
  | .atomicStep core idx => Sys2Proof.Machine.execAtomicStep core idx s
  | .qEntryReady sid q => Sys2Proof.Machine.execQEntryReady sid q s
  | .registerRestored sid reg => Sys2Proof.Machine.execRegisterRestored sid reg s
  | .copyTransfer sid ord units poison peer => Sys2Proof.Machine.execCopyTransfer sid ord units poison peer s
  | .sortComplete sid x => Sys2Proof.Machine.execSortComplete sid x s
  | .tinvStart sid ord => Sys2Proof.Machine.execTinvStart sid ord s
  | .tinvComplete sid ord => Sys2Proof.Machine.execTinvComplete sid ord s
  | .walkComplete die idx poison victimDie victimCopy => Sys2Proof.Machine.execWalkComplete die idx poison victimDie victimCopy s
  | .ovldComplete sid ord x => Sys2Proof.Machine.execOvldComplete sid ord x s
  | .admissionLoadComplete core ovid => Sys2Proof.Machine.execAdmissionLoadComplete core ovid s
  | .matrixCommit x => Sys2Proof.Machine.execMatrixCommit x s
  | .mrdExecute sid => Sys2Proof.Machine.execMrdExecute sid s
  | .mstWrite x => Sys2Proof.Machine.execMstWrite x s
  | .mallocGrant core => Sys2Proof.Machine.execMallocGrant core s
  | .engineHang core => Sys2Proof.Machine.execEngineHang core s
  | .runArbitration core => Sys2Proof.Machine.execRunArbitration core s
  | .recordHeadCheck part q => Sys2Proof.Machine.execRecordHeadCheck part q s
  | .counterTrigger part q => Sys2Proof.Machine.execCounterTrigger part q s
  | .frameCountRead part q old => Sys2Proof.Machine.execFrameCountRead part q old s
  | .frameAdmit part launch core shadow image => Sys2Proof.Machine.execFrameAdmit part launch core shadow image s
  | .successorBirth frame => Sys2Proof.Machine.execSuccessorBirth frame s
  | .deferredFillGrant part => Sys2Proof.Machine.execDeferredFillGrant part s
  | .fillComplete part x => Sys2Proof.Machine.execFillComplete part x s
  | .fillFail part e code => Sys2Proof.Machine.execFillFail part e code s
  | .evictionEnd part e => Sys2Proof.Machine.execEvictionEnd part e s
  | .replicaComplete part e => Sys2Proof.Machine.execReplicaComplete part e s
  | .xpullPop part => Sys2Proof.Machine.execXpullPop part s
  | .remoteSignal part x => Sys2Proof.Machine.execRemoteSignal part x s
  | .peerAccess part off n x => Sys2Proof.Machine.execPeerAccess part off n x s
  | .hostWindowAccess part off n x => Sys2Proof.Machine.execHostWindowAccess part off n x s
  | .tailDoorbell part q v => Sys2Proof.Machine.execTailDoorbell part q v s
  | .headWrite part q v => Sys2Proof.Machine.execHeadWrite part q v s
  | .haltClear part q => Sys2Proof.Machine.execHaltClear part q s
  | .ertConfigWrite part e c => Sys2Proof.Machine.execErtConfigWrite part e c s
  | .retry part vpn => Sys2Proof.Machine.execRetry part vpn s
  | .consWrite part event v => Sys2Proof.Machine.execConsWrite part event v s
  | .registerWrite part r v => Sys2Proof.Machine.execRegisterWrite part r v s
  | .create fn part r => Sys2Proof.Machine.execCreate fn part r s
  | .destroy fn part => Sys2Proof.Machine.execDestroy fn part s
  | .preempt fn part => Sys2Proof.Machine.execPreempt fn part s
  | .freezeComplete part => Sys2Proof.Machine.execFreezeComplete part s
  | .resume fn part clm => Sys2Proof.Machine.execResume fn part clm s
  | .readSign fn part => Sys2Proof.Machine.execReadSign fn part s
  | .quote fn part nonce => Sys2Proof.Machine.execQuote fn part nonce s
  | .engineReset fn core => Sys2Proof.Machine.execEngineReset fn core s
  | .warmReset fn => Sys2Proof.Machine.execWarmReset fn s
  | .status fn => Sys2Proof.Machine.execStatus fn s
  | .cert fn => Sys2Proof.Machine.execCert fn s
  | .powerGood => Sys2Proof.Machine.execPowerGood s
  | .stage1 r => Sys2Proof.Machine.execStage1 r s
  | .energyEpochEnd m => Sys2Proof.Machine.execEnergyEpochEnd m s
  | .energyRefresh die => Sys2Proof.Machine.execEnergyRefresh die s
  | .class3Window => Sys2Proof.Machine.execClass3Window s
  | .droopDetect die => Sys2Proof.Machine.execDroopDetect die s
  | .droopEnd die => Sys2Proof.Machine.execDroopEnd die s
  | .clockHop die ph => Sys2Proof.Machine.execClockHop die ph s
  | .clockPatternChange cluster km1 => Sys2Proof.Machine.execClockPatternChange cluster km1 s
  | .errorDetected u corrected owner victim => Sys2Proof.Machine.execErrorDetected u corrected owner victim s
  | .selfTestDone u pass owner => Sys2Proof.Machine.execSelfTestDone u pass owner s
  | .braceCompare sid => Sys2Proof.Machine.execBraceCompare sid s
  | .fetchFault c => Sys2Proof.Machine.execFetchFault c s
  | .masterCycle die => Sys2Proof.Machine.execMasterCycle die s
  | .coldReset => Sys2Proof.Machine.execColdReset s
  | .powerLoss => Sys2Proof.Machine.execPowerLoss s
  | .creditReturn port => Sys2Proof.Machine.execCreditReturn port s

end Sys2Proof.Machine
end

