-- ==== Sys2Proof/Machine/Step.lean ====
section
/-! DEFINITION. Step.lean: one step of the device: the next choice of the agenda, or the core whose turn it is. -/

namespace Sys2Proof.Machine

/-- An event constructor: a row of the table that no strand issues. -/
def isEvent (i : Instr) : Bool := (toFields i).isNone

/-- Nothing issues: what falls on the present master cycle of die 0 takes place, or the next cycle passes. The end of an energy epoch carries what the device measured, so it comes by the agenda alone. -/
def idle (s : State) : Host.Outcome State Fault Refusal :=
  if windowOver s then exec .class3Window s
  else if (s.die 0).refreshDue then exec (.energyRefresh 0) s
  else exec (.masterCycle 0) s

/-- A core issues: its running strand fetches and executes; without one a run is arbitrated, or the core is idle. -/
def coreStep (c : Nat) (s : State) : Host.Outcome State Fault Refusal :=
  match (s.core c).running with
  | some u =>
    let s := { s with cur := u }
    match fetch s s.me with
    | .loading => .next (parkMe s .fetch false)
    | .err pc e => exec (.fetchFault e) (s.setMe { s.me with pc := pc })
    | .insn pc i _ => exec i (s.setMe { s.me with pc := pc })
  | none => if (winner s c).isSome then exec (.runArbitration c) s else idle s

/-- The head of the agenda acts, or the core of `turn` when the agenda is empty. -/
def choose (s : State) : Host.Outcome State Fault Refusal :=
  match s.agenda with
  | .event i :: r => if isEvent i then exec i { s with agenda := r } else .next { s with agenda := r }
  | .core c :: r => coreStep c { s with agenda := r }
  | [] => coreStep s.turn s

/-- One step: a choice acts, and the values that the watched frame counts have in memory after it are noted (R269). -/
def step (s : State) : Host.Outcome State Fault Refusal :=
  match choose s with
  | .next t => .next (noteCounts t)
  | .fault f => .fault f
  | .refused r => .refused r

/-- The place where the running strand of the core of `turn` can fetch any instruction: its slot is loaded and its block holds four more words. -/
def fetchPlace (s : State) (t : Strand) : Option Nat :=
  let c := s.core t.core
  match t.slotEnd, c.slotAt t.pc with
  | none, some j =>
    let w := t.pc.word.toNat % 1024
    if ((c.slot j).st = .loaded ∨ (c.slot j).st = .firmware) ∧ w % 8 ≤ 4 then some (codeKey t.core j (4 * w)) else none
  | _, _ => none

/-- The state with one running strand on core 0, in slot 1, of a frame on the pair of cores 0 and 1: what a program loaded from outside would have made. -/
def bootFrame (s : State) : State :=
  let u := s.next
  let all := lanesBelow 16
  let p : Part := { Part.free with st := .live, frames := [u], rcd := { freeRecord with clm := 1, win := List.range 16 } }
  let f : Frame := { Frame.blank with part := 0, cores := [0, 1], bases := [0, 0], spb := 524288, strands := [u], gone := false }
  let t : Strand := { Strand.blank with
    life := .running, part := 0, frame := u, core := 0, slot := 0, fsize := 2, pegquota := 32768,
    pc := { gen := 0, ovid := 1, word := 0 }, stack := [{ map := all, link := PC.zero, fcopy := 0, kind := .base }] }
  let s := (({ s with turn := 0, next := u + 1 }.setPart 0 p).setFrame u f).setStrand u t
  let c := s.core 0
  s.setCore 0 ({ c with running := some u }.setSlot 1 { ovid := 1, idx := 0, cnt := 0, gen := 0, pin := 0, st := .loaded })

/-- The state with an instruction stored where the next step fetches: at the PC of the running strand of the core of `turn`; where there is none, in a strand put there as a loaded program would be. -/
def State.withFetchWord (s : State) (_nbits w : Nat) : State :=
  let put (s : State) (u k : Nat) : State := { s with agenda := [], cur := u, mem := s.mem.writeL k (toBytes 16 (w % 2 ^ 128)) }
  let boot := put (bootFrame s) s.next (codeKey 0 1 0)
  match (s.core s.turn).running with
  | some u => match fetchPlace s (s.strand u) with
    | some k => put s u k
    | none => boot
  | none => boot

end Sys2Proof.Machine
end

