-- ==== Sys2Proof/Safety.lean ====
section
/-! DEFINITION. Safety.lean: what counts as a safe state and a safe run, and the terms in which statements about one issue are made. -/

namespace Sys2Proof.Machine

/-- The invariant of every run: the memory keeps its canonical form. -/
def State.Inv (s : State) : Prop := s.mem.wf = true

/-- A run of `k` steps from a state that keeps the invariant in its last state. -/
def SafeRun (k : Nat) (s : State) : Prop :=
  match Host.Core.run Sys2Proof.core k s with
  | .next s' => State.Inv s'
  | .fault _ => True
  | .refused _ => True

/-- A strand without its place in the schedule: its life, the moment it became Ready, the mark S it still has to obey, and RUNCUT, which counts the runs cut (R159). -/
def Strand.still (t : Strand) : Strand := { t with life := .ready, readyAt := 0, sMark := false, runcut := 0 }

/-- A core without its run (R158). -/
def Core.still (k : Core) : Core := { k with running := none, runLen := 0, runCharge := 0 }

/-- From `s` to `t` nothing has changed but strand `u`, the run of core `c`, ACT and the order of readiness: every byte of memory, every other strand, every frame, partition, counter and register of the device is as before. -/
structure Quiet (u c : Nat) (s t : State) : Prop where
  memory : ∀ k, t.mem.read k = s.mem.read k
  rest : t = { s with strands := t.strands, cores := t.cores, act := t.act, clock := t.clock }
  strands : ∀ v, v ≠ u → t.strand v = s.strand v
  cores : ∀ d, d ≠ c → t.core d = s.core d
  own : (t.core c).still = (s.core c).still

/-- The strand is no copy of a braced pair (R370). -/
def Strand.Single (t : Strand) : Prop := t.twin = none ∧ t.shadow = false ∧ t.ckDue = false

/-- No value of an LDB or PLDM is still to be read that instruction `i` of the running strand waits for (R156). -/
def Unlocked (i : Instr) (s : State) : Prop := ∀ r ∈ s.me.locks, s.me.waitsFor i r = false

/-- Instruction `i` of the running strand takes no park before issue: its queue registers hold an entry, no register of it waits in the backing area for room that there is or will be, its gang arrival is open, and it waits for no LDB or PLDM (R78, R156, R157). -/
def Issues (i : Instr) (s : State) : Prop :=
  s.me.life = .running ∧ operandPark s s.me i = none ∧ s.me.Single ∧ Unlocked i s

/-- The registers every issue changes: the count of issues; IDEM, which class C clears (R339); a comparison point spent (R370). -/
def Strand.counted (r : Strand) (c : ICls) : Strand := r.issued ⟨⟨false, false⟩, 0, 0, c⟩

/-- The state after the registers that the issue has evicted, of which its strand `r` has more than before, have gone to the backing area: only what the links have carried and the requests to the vaults are counted (R78, R364). -/
def State.spilled (w s : State) (r : Strand) : State := w.carryBacking r (r.leftSince s.me)

/-- The instruction of class `c` and `n` words has issued and gone on: its strand is `r` but for its place in the schedule, with its issue counted and its PC behind the instruction. -/
def Completes (c : ICls) (n : Nat) (s t : State) (r : Strand) : Prop :=
  Quiet s.cur s.me.core (s.spilled s r) t ∧ (t.strand s.cur).still = ((r.counted c).advance n).still

/-- The instruction of class `c` and `n` words has issued and gone on from `w`, which its effect has made of `s`: only the schedule, the charge and the passage of evicted registers are added. -/
def Goes (c : ICls) (n : Nat) (s w t : State) : Prop :=
  Quiet s.cur s.me.core (w.spilled s (w.strand s.cur)) t ∧ (t.strand s.cur).still = (((w.strand s.cur).counted c).advance n).still

/-- The instruction has issued and gone on from `w`, and its strand waits for `p` (R157). -/
def Parks (c : ICls) (n : Nat) (p : Park) (s w t : State) : Prop := Goes c n s w t ∧ (t.strand s.cur).life = .parked p

/-- The instruction has issued and transferred control to `pc`. -/
def Transfers (s t : State) (r : Strand) (pc : PC) : Prop :=
  Quiet s.cur s.me.core (s.spilled s r) t ∧ (t.strand s.cur).still = ((r.counted .plain).goto pc).still

/-- The instruction has raised fault `c` with its detail (R321): nothing of it happened, and its strand stands Ready at its handler `dest` with TRAPCODE, TRAPPC and the TRAP entry, whose LINK is `resume`; registers are evicted where its maps exceed their share (R79; that a trap delivery does so is the model's choice, log 66). -/
def Raises (s t : State) (c : Code) (detail : Nat) (resume dest : PC) : Prop :=
  Quiet s.cur s.me.core (s.spilled s (s.me.take c detail s.me.pc resume dest).fitMaps) t ∧
    (t.strand s.cur).still = (s.me.take c detail s.me.pc resume dest).fitMaps.still

end Sys2Proof.Machine
end

