-- ==== Sys2Proof/Certificates/Slice0/Obligations.lean ====
section
/-! DEFINITION. Obligations.lean: the statements for the provers, with the tables of results that they speak of. -/

namespace Sys2Proof.Claim

open Sys2Proof.Machine

/-! Numbers. -/

/-- The number a lane holds under a 32-bit or 64-bit integer type (R92). -/
def num (ty : Ty) (x : W64) : Int :=
  match ty with
  | .s32 => (x.extractLsb' 0 32).toInt
  | .s64 => x.toInt
  | .n64 | .b32 => x.toNat
  | _ => (x.extractLsb' 0 32).toNat

/-- The least and the greatest number of a type (R92). -/
def least : Ty → Int
  | .s32 => -2147483648
  | .s64 => -9223372036854775808
  | _ => 0
/-- The greatest number of a type (R92). -/
def greatest : Ty → Int
  | .s32 => 2147483647
  | .s64 => 9223372036854775807
  | .n64 => 18446744073709551615
  | _ => 4294967295

/-- The pattern of an exact result: wrapped, or with `sat` first forced into the range of the type (R92). -/
def fit (ty : Ty) (sat : Bool) (v : Int) : W64 := BitVec.ofInt 64 (if sat then max (least ty) (min (greatest ty) v) else v)

/-! Scalar results. -/

/-- The scalar instructions that always complete: the scalar they write, their words, the value (R86, R89, R90, R111). -/
def scalarResult : Instr → Option (SCode × Nat × (Strand → W64))
  | .sadd _ d a b => some (d, 2, fun t => t.s a + b.get t)
  | .ssub _ d a b => some (d, 2, fun t => t.s a - b.get t)
  | .sand _ d a b => some (d, 2, fun t => t.s a &&& b.get t)
  | .sor _ d a b => some (d, 2, fun t => t.s a ||| b.get t)
  | .sxor _ d a b => some (d, 2, fun t => t.s a ^^^ b.get t)
  | .sshl _ d a b => some (d, 2, fun t => t.s a <<< (b.get t).toNat)
  | .sshr _ d a b => some (d, 2, fun t => t.s a >>> (b.get t).toNat)
  | .ssar _ d a b => some (d, 2, fun t => (t.s a).sshiftRight (b.get t).toNat)
  | .smin _ d a b => some (d, 2, fun t => BitVec.ofInt 64 (min (t.s a).toInt (b.get t).toInt))
  | .smax _ d a b => some (d, 2, fun t => BitVec.ofInt 64 (max (t.s a).toInt (b.get t).toInt))
  | .smul _ d a b => some (d, 2, fun t => t.s a * b.get t)
  | .scmp _ cc d a b => some (d, 2, fun t => if (match cc with
      | .eq => t.s a == b.get t
      | .ne => t.s a != b.get t
      | .lt => (t.s a).slt (b.get t)
      | .le => (t.s a).sle (b.get t)
      | .gt => (b.get t).slt (t.s a)
      | .ge => (b.get t).sle (t.s a)
      | .ltu => (t.s a).ult (b.get t)
      | .leu => (t.s a).ule (b.get t)
      | .gtu => (b.get t).ult (t.s a)
      | .geu => (b.get t).ule (t.s a)) then 1 else 0)
  | .sli _ d imm => some (d, 4, fun _ => imm)
  | .bget _ d a h => some (d, 2, fun t => if h then (t.base a >>> 64).setWidth 64 else (t.base a).setWidth 64)
  | .pcnt _ x y m => some (x, 2, fun t => BitVec.ofNat 64 ((List.range t.ext).countP (fun l => (t.mapReg y &&& t.qual m).getLsbD l)))
  | .pfind _ x y z n m => some (x, 2, fun t =>
      match (List.range t.ext).find? (fun l => (t.mapReg y &&& t.qual m).getLsbD l && decide ((t.s z).toNat + n.toNat ≤ l)) with
      | some l => BitVec.ofNat 64 l
      | none => 0xFFFFFFFF)
  | .pspan _ x y m => some (x, 2, fun t => BitVec.ofNat 64 (((List.range (t.ext / t.span)).map (fun i =>
      if (List.range t.span).any (fun j => (t.mapReg y &&& t.qual m).getLsbD (i * t.span + j)) then 2 ^ i else 0)).sum))
  | .pget _ x y z n => some (x, 2, fun t =>
      ((t.mapReg y &&& t.all) >>> (64 * ((t.s z).toNat + n.toNat))).setWidth 64)
  | _ => none

/-! Map results. -/

/-- The map instructions that always complete: the map register they write and its new lanes below L (R83, R84, R86, R89). -/
def mapResult : Instr → Option (MCode × (Strand → Nat → Bool))
  | .pand _ x y z m => some (x, fun t l => (t.mapReg y).getLsbD l && (t.mapReg z).getLsbD l && (t.qual m).getLsbD l)
  | .por _ x y z m => some (x, fun t l => ((t.mapReg y).getLsbD l || (t.mapReg z).getLsbD l) && (t.qual m).getLsbD l)
  | .pxor _ x y z m => some (x, fun t l => ((t.mapReg y).getLsbD l != (t.mapReg z).getLsbD l) && (t.qual m).getLsbD l)
  | .pandn _ x y z m => some (x, fun t l => (t.mapReg y).getLsbD l && !(t.mapReg z).getLsbD l && (t.qual m).getLsbD l)
  | .pnot _ x y m => some (x, fun t l => !(t.mapReg y).getLsbD l && (t.qual m).getLsbD l)
  | .pmov _ x y m => some (x, fun t l => (t.mapReg y).getLsbD l && (t.qual m).getLsbD l)
  | .pfirst _ x y z n m => some (x, fun t l =>
      let p := t.mapReg y &&& t.qual m
      p.getLsbD l && decide ((List.range l).countP (fun j => p.getLsbD j) < (t.s z).toNat + n.toNat))
  | .prange _ x y z n m => some (x, fun t l =>
      decide ((t.s y).toNat ≤ l) && decide (l < (t.s y).toNat + ((t.s z).toNat + n.toNat)) && (t.qual m).getLsbD l)
  | .elect _ x y m => some (x, fun t l =>
      let p := t.mapReg y &&& t.qual m
      p.getLsbD l && (List.range l).all (fun j => !p.getLsbD j))
  | .pmap _ x y m => some (x, fun t l => (t.vec y.toNat).map.getLsbD l && (t.qual m).getLsbD l)
  | .pput _ x y z n => some (x, fun t l =>
      let j := (t.s z).toNat + n.toNat
      if l / 64 = j then (t.s y).getLsbD (l % 64) else (t.mapReg x).getLsbD l)
  | _ => none

/-! Lane results. -/

/-- What a lane instruction with a vector destination does: the destination, whether it is a pair, the words of the instruction, the pattern of a lane from the strand, the operands and the lane. -/
structure LaneRes where
  x : VCode
  wide : Bool
  n : Nat
  val : Strand → List VOpd → Nat → W64

/-- A lane result from one operand. -/
def one (x : VCode) (wide : Bool) (f : W64 → W64) : LaneRes := ⟨x, wide, 2, fun _ v l => f ((v.getD 0 ⟨[], [], []⟩).at l)⟩
/-- A lane result from two operands. -/
def two (x : VCode) (wide : Bool) (f : W64 → W64 → W64) : LaneRes :=
  ⟨x, wide, 2, fun _ v l => f ((v.getD 0 ⟨[], [], []⟩).at l) ((v.getD 1 ⟨[], [], []⟩).at l)⟩
/-- A lane result from three operands. -/
def three (x : VCode) (wide : Bool) (f : W64 → W64 → W64 → W64) : LaneRes :=
  ⟨x, wide, 3, fun _ v l => f ((v.getD 0 ⟨[], [], []⟩).at l) ((v.getD 1 ⟨[], [], []⟩).at l) ((v.getD 2 ⟨[], [], []⟩).at l)⟩

/-- The width of a lane value in bits. -/
def bits (ty : Ty) : Nat := if ty.wide then 64 else 32

/-- The place and the length of a bit field: p := bits [4:0] of the control lane, n := min(bits [9:5] + 1, 32 − p) (R97). -/
def fieldAt (c : W64) : Nat × Nat := (c.toNat % 32, min (c.toNat / 32 % 32 + 1) (32 - c.toNat % 32))

/-- The integer lane instructions: exact results wrapped or saturated (R95 to R97), births and moves (R69, R87, R88, R99, R100, R109). -/
def integerLane : Instr → Option LaneRes
  | .add _ ty sat x _ _ _ => some (two x ty.wide fun a b => fit ty sat (num ty a + num ty b))
  | .sub _ ty sat x _ _ _ => some (two x ty.wide fun a b => fit ty sat (num ty a - num ty b))
  | .mul _ ty sat x _ _ _ => some (two x ty.wide fun a b => fit ty sat (num ty a * num ty b))
  | .mulh _ ty x _ _ _ => some (two x ty.wide fun a b => BitVec.ofInt 64 (num ty a * num ty b / 4294967296))
  | .mad _ ty sat x _ _ _ _ => some (three x ty.wide fun a b c => fit ty sat (num ty a * num ty b + num ty c))
  | .min _ ty x _ _ _ => some (two x ty.wide fun a b => BitVec.ofInt 64 (min (num ty a) (num ty b)))
  | .max _ ty x _ _ _ => some (two x ty.wide fun a b => BitVec.ofInt 64 (max (num ty a) (num ty b)))
  | .neg _ ty sat x _ _ => some (one x ty.wide fun a => fit ty sat (-num ty a))
  | .and_ _ ty x _ _ _ => some (two x ty.wide (· &&& ·))
  | .or_ _ ty x _ _ _ => some (two x ty.wide (· ||| ·))
  | .xor_ _ ty x _ _ _ => some (two x ty.wide (· ^^^ ·))
  | .not_ _ ty x _ _ => some (one x ty.wide (~~~ ·))
  | .shl _ ty x _ _ _ => some (two x ty.wide fun a b => if b.toNat < bits ty then a <<< b.toNat else 0)
  | .shr _ ty x _ _ _ => some (two x ty.wide fun a b => BitVec.ofInt 64 (num ty a / 2 ^ (min b.toNat (bits ty))))
  | .popc _ x _ _ => some (one x false fun a => BitVec.ofNat 64 ((List.range 32).countP (fun i => a.getLsbD i)))
  | .clz _ x _ _ => some (one x false fun a => BitVec.ofNat 64 (((List.range 32).reverse.takeWhile (fun i => !a.getLsbD i)).length))
  | .bfx _ ty x _ _ _ => some (two x false fun a c =>
      let (p, n) := fieldAt c
      if ty = .s32 then BitVec.ofInt 64 ((a >>> p).setWidth n).toInt else ((a >>> p).setWidth n).setWidth 64)
  | .bfi _ x _ _ _ _ => some (three x false fun a b c =>
      let (p, n) := fieldAt c
      let mask : W64 := ((BitVec.allOnes n).setWidth 64) <<< p
      (a &&& ~~~mask) ||| ((b <<< p) &&& mask))
  | .sel _ ty x _ _ pc _ => some ⟨x, ty.wide, 2, fun t v l =>
      if (t.mapReg pc).getLsbD l then (v.getD 0 ⟨[], [], []⟩).at l else (v.getD 1 ⟨[], [], []⟩).at l⟩
  | .movi _ ty x _ imm => some ⟨x, ty.wide, 3, fun _ _ _ =>
      if ty = .bf16 ∨ ty = .f16 then (imm.setWidth 16).setWidth 64 else if ty = .s64 then imm.signExtend 64 else imm.setWidth 64⟩
  | .mov _ ty x _ _ => some (one x ty.wide id)
  | .thin _ ty x _ _ _ => some (one x ty.wide id)
  | .merge _ ty x _ _ _ => some ⟨x, ty.wide, 2, fun _ v l =>
      if (v.getD 0 ⟨[], [], []⟩).map.getLsbD l then (v.getD 0 ⟨[], [], []⟩).at l else (v.getD 1 ⟨[], [], []⟩).at l⟩
  | .laneid _ x _ => some ⟨x, false, 2, fun _ _ l => BitVec.ofNat 64 l⟩
  | .bcast _ ty x y _ => some ⟨x, ty.wide, 2, fun t _ _ => t.s y⟩
  | .vput _ ty x y _ _ _ => some ⟨x, ty.wide, 3, fun t _ _ => t.s y⟩
  | .shfl _ v x _ _ => some ⟨x, false, 2, fun t ops l =>
      let a := ops.getD 0 ⟨[], [], []⟩
      let j : Int := match v with
        | .idx _ => (((ops.getD 1 ⟨[], [], []⟩).at l).toNat : Int)
        | .up n => (l : Int) - n.toNat
        | .down n => (l : Int) + n.toNat
        | .xor n => ((l ^^^ n.toNat : Nat) : Int)
      if 0 ≤ j ∧ j < t.ext ∧ a.map.getLsbD j.toNat then a.at j.toNat else a.at l⟩
  | _ => none

/-- The operand values on the operating map, rising lanes. -/
def column (t : Strand) (i : Instr) : List (Nat × W64) :=
  (lanesIn t.ext (t.operMap (operOf i))).map (fun l => (l, (((operOf i).srcs.map t.readV).getD 0 ⟨[], [], []⟩).at l))

/-- SCAN and RANK (R107, R108): the values of the lanes up to a lane, and the lanes that come before it in the stable order. -/
def orderedLane (i : Instr) : Option LaneRes :=
  match i with
  | .scan _ op ty x _ _ => some ⟨x, false, 2, fun t _ l =>
      let c := column t i
      let upto := ((c.filter (fun e => decide (e.1 ≤ l))).map (fun e => num ty e.2))
      let below := ((c.filter (fun e => decide (e.1 < l))).map (fun e => num ty e.2))
      BitVec.ofInt 64 (match op with
        | .addi => upto.sum
        | .addx => below.sum
        | .min => upto.foldl min (greatest ty)
        | .max => upto.foldl max (least ty))⟩
  | .rank _ ty x _ _ => some ⟨x, false, 2, fun t v l =>
      let own := num ty ((v.getD 0 ⟨[], [], []⟩).at l)
      BitVec.ofNat 64 ((column t i).countP (fun e => decide (num ty e.2 < own) || (decide (num ty e.2 = own) && decide (e.1 < l))))⟩
  | _ => none

/-- The floating-point lane instructions and CVT, by the arithmetic of R122 to R131 (Float.lean): rounding and flushing are those of F. -/
def floatLane : Instr → Option LaneRes
  | .fadd _ ty x _ _ _ => some ⟨x, false, 2, fun t v l => arith t v l ty .add⟩
  | .fsub _ ty x _ _ _ => some ⟨x, false, 2, fun t v l => arith t v l ty .sub⟩
  | .fmul _ ty x _ _ _ => some ⟨x, false, 2, fun t v l => arith t v l ty .mul⟩
  | .fdiv _ ty x _ _ _ => some ⟨x, false, 2, fun t v l => arith t v l ty .div⟩
  | .fma _ ty x _ _ _ _ => some ⟨x, false, 3, fun t v l =>
      BitVec.ofNat 64 (ty.fmt.fma (fRM t.f) (fFZ t.f) (at_ v 0 l) (at_ v 1 l) (at_ v 2 l))⟩
  | .fmin _ ty x _ _ _ => some ⟨x, false, 2, fun t v l => BitVec.ofNat 64 (ty.fmt.minmax (fFZ t.f) false (at_ v 0 l) (at_ v 1 l))⟩
  | .fmax _ ty x _ _ _ => some ⟨x, false, 2, fun t v l => BitVec.ofNat 64 (ty.fmt.minmax (fFZ t.f) true (at_ v 0 l) (at_ v 1 l))⟩
  | .fneg _ ty x _ _ => some ⟨x, false, 2, fun _ v l => signed ty (at_ v 0 l) (!ty.fmt.neg (at_ v 0 l))⟩
  | .fabs _ ty x _ _ => some ⟨x, false, 2, fun _ v l => signed ty (at_ v 0 l) false⟩
  | .fcopysign _ ty x _ _ _ => some ⟨x, false, 2, fun _ v l => signed ty (at_ v 0 l) (ty.fmt.neg (at_ v 1 l))⟩
  | .frcp _ ty x _ _ => some ⟨x, false, 2, fun t v l => func t v l ty .rcp⟩
  | .frsq _ ty x _ _ => some ⟨x, false, 2, fun t v l => func t v l ty .rsq⟩
  | .fsqrt _ ty x _ _ => some ⟨x, false, 2, fun t v l => func t v l ty .sqrt⟩
  | .fexp2 _ ty x _ _ => some ⟨x, false, 2, fun t v l => func t v l ty .exp2⟩
  | .flog2 _ ty x _ _ => some ⟨x, false, 2, fun t v l => func t v l ty .log2⟩
  | .cvt _ src ty x _ _ => some ⟨x, ty.wide, 2, fun t v l =>
      match CvtSrc.ty src with
      | some st => convert st ty (fRM t.f) (fFZ t.f) ((v.getD 0 ⟨[], [], []⟩).at l)
      | none => BitVec.ofNat 64 (orderKey (decide (src = .f32ord)) (at_ v 0 l))⟩
  | _ => none
where
  /-- the pattern of an operand's lane -/
  at_ (v : List VOpd) (k l : Nat) : Nat := ((v.getD k ⟨[], [], []⟩).at l).toNat
  /-- a two-operand result under F -/
  arith (t : Strand) (v : List VOpd) (l : Nat) (ty : Ty) (op : FOp) : W64 :=
    BitVec.ofNat 64 (ty.fmt.arith (fRM t.f) (fFZ t.f) op (at_ v 0 l) (at_ v 1 l))
  /-- a one-operand result under F -/
  func (t : Strand) (v : List VOpd) (l : Nat) (ty : Ty) (op : FFun) : W64 :=
    BitVec.ofNat 64 (ty.fmt.func (fRM t.f) (fFZ t.f) op (at_ v 0 l))
  /-- the pattern with a sign; a NaN becomes the canonical one (R128) -/
  signed (ty : Ty) (a : Nat) (neg : Bool) : W64 := BitVec.ofNat 64 (ty.fmt.withSign a neg)

/-- A vector register on a map: every lane of the map with its value, rising, and no other lane (R58, R70). -/
def onMap (ext : Nat) (m : LaneMap) (f : Nat → W32) : VReg := ((List.range ext).filter (fun l => m.getLsbD l)).map (fun l => (l, f l))

/-- The vector registers of a strand are those of `a` but for the destination, which holds the low halves, and for a pair in the next register the high halves (R59, R70). -/
def Placed (a b : Strand) (x : VCode) (wide : Bool) (m : LaneMap) (f : Nat → W64) : Prop :=
  b.vec x.toNat = onMap a.ext m (fun l => (f l).setWidth 32) ∧
  (wide = true → b.vec (x.toNat + 1) = onMap a.ext m (fun l => (f l >>> 32).setWidth 32)) ∧
  ∀ r, r < 120 → r ≠ x.toNat → (wide = true → r ≠ x.toNat + 1) → b.vec r = a.vec r

/-- A strand with the vector registers, the backing area and the order of writes of another. -/
def withVectors (b a : Strand) : Strand := { b with v := a.v, evicted := a.evicted, written := a.written }

/-- An instruction with a vector destination has completed: the destination is placed on its operating map, one entry of each queue register it reads is popped (R60), MAPDROP has counted under DISC 1 (R72), and nothing else of the strand and the machine has changed. -/
def LaneDone (i : Instr) (r : LaneRes) (s t : State) : Prop :=
  let a := s.me
  ∃ b, Completes .plain r.n s t b ∧
    Placed a b r.x r.wide (a.operMap (operOf i)) (r.val a ((operOf i).srcs.map a.readV)) ∧
    withVectors b a = (a.countDrop (operOf i)).popQ (operOf i)

/-- The map discipline lets the instruction pass (R72), and the strand's quota and map share have room for the result (R77 to R80). -/
def Fits (i : Instr) (x : VCode) (wide : Bool) (s : State) : Prop :=
  (s.me.disc = 2 → s.me.dropCount (operOf i) = 0) ∧ ∃ a, s.me.roomFor (operOf i) x wide (s.me.operMap (operOf i)) = .ok a

/-! What one issue does. -/

/-- What an instruction does when it issues: it goes on from a state, transfers control, raises a fault with its detail, or waits at issue with nothing changed. -/
inductive Flow
  | go (w : State)
  | jump (r : Strand) (pc : PC)
  | fault (c : Code) (detail : Nat)
  | stay

/-- Instruction `i` of `n` words does this in `s`; a fault is taken where its handler is there, and kills otherwise (R321, R322). -/
def Does (i : Instr) (n : Nat) (s : State) : Flow → Prop
  | .go w => ∃ t, exec i s = .next t ∧ Goes .plain n s w t
  | .jump r pc => ∃ t, exec i s = .next t ∧ Transfers s t r pc
  | .fault c d => match trapTarget s s.me c with
    | some dest => ∃ t, exec i s = .next t ∧ Raises s t c d s.me.pc dest
    | none => exec i s = .next (s.kill s.cur (trapWord c d) s.me.pc.bits)
  | .stay => exec i s = .next s

/-- What a map-writing instruction does with room made for its maps (R78, R79): the oldest written registers leave until the maps fit the share, and it waits while a return stands in the way. Where the backing area does not hold what must leave, CMP raises PEG-EXHAUSTED (R102), and any other instruction, for which no rule lists that fault, goes on with its maps over the share: the model's choice (logs 21, 81). -/
def roomed (i : Instr) : Flow → Flow
  | .go w => match w.me.mapRoom i with
    | .ok r => .go (w.setMe r)
    | .wait => .stay
    | .full => if faultsOnRoom i = true then .fault .pegExhausted 0 else .go w
  | .jump r pc => match r.mapRoom i with
    | .ok r => .jump r pc
    | .wait => .stay
    | .full => .jump r pc
  | f => f

end Sys2Proof.Claim

open Sys2Proof Sys2Proof.Machine

/-- R111, R86, R89: a scalar instruction writes its result to its destination, and changes nothing else; to S0 it writes nothing. -/
def Obligations.ScalarResults : Prop :=
  ∀ i d n f, Claim.scalarResult i = some (d, n, f) → ∀ s, Issues i s →
    ∃ t, exec i s = .next t ∧ Completes .plain n s t (s.me.setS d (f s.me))

/-- R83, R84, R86, R89: a map instruction leaves its destination with the lanes its rule gives, and changes nothing else, but for registers that leave for the maps' share (R79). That it waits while a return stands in the way (R79, R80), and goes on over the share where the backing area is full, as R91 lists no fault for it, is the model's choice (logs 21, 81). -/
def Obligations.MapResults : Prop :=
  ∀ i x f, Claim.mapResult i = some (x, f) → WellFormed true i = true → ∀ s, Issues i s → s.me.ext ≤ 1024 →
    ∃ r, ((r.mapsFit = true → ∃ t, exec i s = .next t ∧ Completes .plain 2 s t r) ∧ Claim.Does i 2 s (Claim.roomed i (.go (s.setMe r)))) ∧
      (∀ l, l < s.me.ext → (r.mapReg x).getLsbD l = f s.me l) ∧ r = s.me.setMapReg x (r.mapReg x)

/-- R95 to R100, R87, R88, R104, R107 to R109: the integer lane instructions, births, moves, SHFL, SCAN and RANK. -/
def Obligations.IntegerLaneResults : Prop :=
  ∀ i r, (Claim.integerLane i = some r ∨ Claim.orderedLane i = some r) → WellFormed true i = true → ∀ s, Issues i s → Claim.Fits i r.x r.wide s →
    ∃ t, exec i s = .next t ∧ Claim.LaneDone i r s t

/-- R126 to R128, R130, R131: the floating-point lane instructions and CVT. -/
def Obligations.FloatLaneResults : Prop :=
  ∀ i r, Claim.floatLane i = some r → WellFormed true i = true → ∀ s, Issues i s → Claim.Fits i r.x r.wide s →
    ∃ t, exec i s = .next t ∧ Claim.LaneDone i r s t

namespace Sys2Proof.Claim

open Sys2Proof.Machine

/-! Results from lanes that are no vectors. -/

/-- The instructions that write one scalar from the lanes of an operand (R105, R106, R109, R132): the scalar and its value. -/
def laneScalar (i : Instr) : Option (SCode × (Strand → W64)) :=
  match i with
  | .red _ op ty x _ _ => some (x, fun t =>
      let v := (column t i).map (·.2)
      match op with
      | .add => BitVec.ofInt 64 (v.map (num ty)).sum
      | .min => BitVec.ofInt 64 ((v.map (num ty)).foldl min (greatest ty))
      | .max => BitVec.ofInt 64 ((v.map (num ty)).foldl max (least ty))
      | .and => v.foldl (· &&& ·) (BitVec.ofInt 64 (greatest ty))
      | .or => v.foldl (· ||| ·) 0
      | .xor => v.foldl (· ^^^ ·) 0
      | .fadd => BitVec.ofNat 64 (redF (fRM t.f) (fFZ t.f) 0 (v.map (·.toNat)))
      | .fmin => BitVec.ofNat 64 (redF (fRM t.f) (fFZ t.f) 1 (v.map (·.toNat)))
      | .fmax => BitVec.ofNat 64 (redF (fRM t.f) (fFZ t.f) 2 (v.map (·.toNat))))
  | .redidx _ mx ty x _ _ => some (x, fun t =>
      let c := column t i
      let nan (v : W64) : Bool := decide (ty = .f32) && fmtF32.isNan v.toNat
      let pool := if c.any (fun e => !nan e.2) then c.filter (fun e => !nan e.2) else c
      let key (v : W64) : Int := if ty = .f32 then (if nan v then 0 else fmtF32.key v.toNat) else num ty v
      let beats (a b : W64) : Bool := if mx then decide (key b < key a) else decide (key a < key b)
      match pool.find? (fun e => pool.all (fun g => !beats g.2 e.2)) with
      | some e => BitVec.ofNat 64 ((if nan e.2 then 0x7FC00000 else e.2.toNat % 2 ^ 32) * 2 ^ 32 + e.1)
      | none => BitVec.ofNat 64 ((match ty, mx with
          | .s32, false => 0x7FFFFFFF
          | .s32, true => 0x80000000
          | .n32, false => 0xFFFFFFFF
          | .n32, true => 0
          | _, false => 0x7F800000
          | _, true => 0xFF800000) * 2 ^ 32 + 0xFFFFFFFF))
  | .vget _ ty x _ z n _ => some (x, fun t =>
      let j := (t.s z).toNat + n.toNat
      if j < t.ext ∧ (t.operMap (operOf i)).getLsbD j then
        let v := (((operOf i).srcs.map t.readV).getD 0 ⟨[], [], []⟩).at j
        if ty = .s32 then (v.setWidth 32).signExtend 64 else v
      else 0)
  | _ => none

/-- The comparisons: Pd, Pe, and the condition on two lane values (R98, R129). -/
def comparison : Instr → Option (MCode × MCode × (Strand → W64 → W64 → Bool))
  | .cmp _ ty cc x pe _ _ _ => some (x, pe, fun _ a b =>
      match cc with
      | .eq => decide (num ty a = num ty b)
      | .ne => decide (num ty a ≠ num ty b)
      | .lt => decide (num ty a < num ty b)
      | .le => decide (num ty a ≤ num ty b)
      | .gt => decide (num ty b < num ty a)
      | .ge => decide (num ty b ≤ num ty a))
  | .fcmp _ ty cc x pe _ _ _ => some (x, pe, fun t a b =>
      let p := ty.fmt.flush (fFZ t.f) a.toNat
      let q := ty.fmt.flush (fFZ t.f) b.toNat
      let un := ty.fmt.isNan p || ty.fmt.isNan q
      let k := ty.fmt.key p
      let l := ty.fmt.key q
      match cc with
      | .eq => !un && decide (k = l)
      | .ne => un || decide (k ≠ l)
      | .lt => !un && decide (k < l)
      | .le => !un && decide (k ≤ l)
      | .gt => !un && decide (l < k)
      | .ge => !un && decide (l ≤ k)
      | .un => un
      | .ord => !un)
  | _ => none

/-! F and G. -/

/-- SETF (R121), SETG (R210). -/
def registerFlow : Instr → Option (State → Flow)
  | .setf _ d a b => some fun s =>
      let t := s.me
      let mask : W32 := (t.s a).setWidth 32
      let new := (t.f &&& ~~~mask) ||| ((b.get t).setWidth 32 &&& mask)
      if new.toNat / 2 ^ 13 = 0 ∧ new.toNat % 8 < 3 ∧ new.toNat / 2 ^ 9 % 4 ≠ 3 ∧ new.toNat / 2 ^ 11 % 4 ≠ 3 then
        .go (s.setMe { t.setS d (t.f.setWidth 64) with f := new })
      else .fault .format 0
  | .setg _ d b => some fun s =>
      let t := s.me
      let new : BitVec 16 := (b.get t).setWidth 16
      let members := (List.range 16).filter (fun i => new.getLsbD i)
      if new = 0 ∨ (2 ≤ members.length ∧ members.length ≤ 6 ∧ t.sidx ∈ members
          ∧ ∀ i ∈ members, i < t.fsize ∧ (s.paired t = true → i % 2 = t.sidx % 2)) then
        .go (s.setMe { t.setS d (t.g.setWidth 64) with g := new })
      else .fault .gang 0
  | _ => none

/-! Special registers (R65, R66, R112). -/

/-- The value of a special register (R66, R67). -/
def special (s : State) (n : SReg) : W64 :=
  let t := s.me
  let r := (s.part t.part).rcd
  match n with
  | .strandid => BitVec.ofNat 64 t.sidx
  | .frameid => t.frameId.setWidth 64
  | .framesize => BitVec.ofNat 64 t.fsize
  | .laneext => BitVec.ofNat 64 t.ext
  | .spanw => BitVec.ofNat 64 t.span
  | .coreid => BitVec.ofNat 64 t.core
  | .clusterid => BitVec.ofNat 64 (t.core / 8)
  | .dieid => BitVec.ofNat 64 (t.core / 128)
  | .partid => BitVec.ofNat 64 t.part
  | .launchid => t.launchId.setWidth 64
  | .vnear => BitVec.ofNat 64 (((List.range 64).map (fun i => if (r.win[i]?).any (fun v => v / 2 = t.core) then 2 ^ i else 0)).sum)
  | .arg i => Tbl.get 0 t.args i.toNat
  | .cycle => (s.die (t.core / 128)).cycle
  | .energy => Tbl.get 0 (s.die (t.core / 128)).energy t.part
  | .disc => BitVec.ofNat 64 t.disc
  | .mapdrop => t.mapdrop.setWidth 64
  | .stray => t.stray.setWidth 64
  | .runcut => t.runcut.setWidth 64
  | .cpbatch => t.copy.cpbatch.setWidth 64
  | .mxbatch => t.mx.mxbatch.setWidth 64
  | .batchstat => t.batchstat
  | .idem => t.idem.setWidth 64
  | .handler => t.handler.setWidth 64
  | .absvec => t.absvec.setWidth 64
  | .trapcode => t.trapcode
  | .trappc => t.trappc.setWidth 64
  | .status => BitVec.ofNat 64 ((if t.priv then 1 else 0) + (if s.paired t then 2 else 0) + (if t.idem ≠ 0 then 4 else 0)
      + (if t.stack.any (fun e => e.kind = .trap) then 8 else 0))
  | .partcfg => BitVec.ofNat 64 (t.part % 64 + (if r.brace then 2 ^ 16 else 0) + r.c3sh % 64 * 2 ^ 24 + r.tcmax % 4 * 2 ^ 30 + r.cxlsh % 256 * 2 ^ 32)
  | .ebudget => (s.core t.core).ebudget
  | .prio => BitVec.ofNat 64 t.prio
  | .pegquota => BitVec.ofNat 64 t.pegquota
  | .shadowbase => BitVec.ofNat 64 r.shadowbase
  | .chweight i => BitVec.ofNat 64 (r.chw.toNat / 2 ^ (64 * i.toNat))

/-- A special register with a new value; none for a value that it does not take (R65, R72, R275, R318, R334, R356). -/
def specialSet (s : State) (n : SReg) (v : W64) : Option State :=
  let t := s.me
  let p := s.part t.part
  let small (k : Nat) (w : State) : Option State := if v.toNat < 2 ^ k then some w else none
  match n with
  | .disc => if v.toNat ≤ 2 then some (s.setMe { t with disc := v.toNat }) else none
  | .mapdrop => small 32 (s.setMe { t with mapdrop := v.setWidth 32 })
  | .stray => small 32 (s.setMe { t with stray := v.setWidth 32 })
  | .runcut => small 32 (s.setMe { t with runcut := v.setWidth 32 })
  | .idem => small 38 (s.setMe { t with idem := v.setWidth 38 })
  | .handler => small 38 (s.setMe { t with handler := v.setWidth 38 })
  | .absvec => small 38 (s.setMe { t with absvec := v.setWidth 38 })
  | .ebudget => some (s.setCore t.core { s.core t.core with ebudget := v })
  | .prio => if v.toNat ≤ 3 then some (s.setMe { t with prio := v.toNat }) else none
  | .pegquota =>
    let others := (s.liveOn t.core).filter (fun e => e.1 ≠ s.cur)
    if 1 ≤ v.toNat ∧ (others.map (fun e => e.2.pegquota)).sum + v.toNat ≤ 32768 then some (s.setMe { t with pegquota := v.toNat }) else none
  | .shadowbase =>
    if v.toNat % 2 ^ 21 = 0 ∧ v.toNat ≤ 15 * 2 ^ 21 then some (s.setPart t.part { p with rcd := { p.rcd with shadowbase := v.toNat } }) else none
  | .partcfg =>
    if (List.range 64).all (fun i => i = 16 ∨ v.getLsbD i = (special s .partcfg).getLsbD i) = true ∧ ¬(v.getLsbD 16 = true ∧ (clustersOf p.rcd.clm).length = 1) then
      some (s.setPart t.part { p with rcd := { p.rcd with brace := v.getLsbD 16 } })
    else none
  | .chweight i =>
    let below := p.rcd.chw.toNat % 2 ^ (64 * i.toNat)
    let above := p.rcd.chw.toNat / 2 ^ (64 * i.toNat + 64)
    some (s.setPart t.part { p with rcd := { p.rcd with
      chw := BitVec.ofNat 1024 (above * 2 ^ (64 * i.toNat + 64) + v.toNat * 2 ^ (64 * i.toNat) + below) } })
  | _ => none

/-- The registers that only a privileged strand writes, and those that every strand writes (R65). -/
def writable : SReg → Option Bool
  | .ebudget | .prio | .pegquota | .chweight _ | .partcfg | .shadowbase => some true
  | .disc | .mapdrop | .stray | .runcut | .idem | .handler | .absvec => some false
  | _ => none

/-- MFS and MTS (R65, R112), BSET and BADD (R111). -/
def specialFlow : Instr → Option (State → Flow)
  | .bset _ d a b => some fun s => .go (s.setMe (s.me.setBase d (BitVec.ofNat 80 ((b.get s.me).toNat % 2 ^ 16 * 2 ^ 64 + (s.me.s a).toNat))))
  | .badd _ d a b => some fun s => .go (s.setMe (s.me.setBase d (BitVec.ofInt 80 ((s.me.base a).toNat + (b.get s.me).toInt))))
  | .mfs _ d n => some fun s =>
      if (n = .partcfg ∨ n = .shadowbase) ∧ s.me.priv = false then .fault .privilege 0 else .go (s.setMe (s.me.setS d (special s n)))
  | .mts _ n a => some fun s =>
      match writable n with
      | none => .fault .illegalOperand 0
      | some k => if k = true ∧ s.me.priv = false then .fault .privilege 0
        else match specialSet s n (s.me.s a) with
          | some w => .go w
          | none => .fault .illegalOperand 0
  | _ => none

/-! The control stack (R139 to R153, R230, R232). -/

/-- A taken transfer by an offset within the overlay (R43). -/
def toOffset (s : State) (off : W32) (r : Strand) : Flow :=
  match targetPC s s.me off with
  | some pc => .jump r pc
  | none => .fault .illegalEncoding 0

/-- A strand with one entry more on its stack, its FCOPY from F (R143). -/
def pushed (t : Strand) (kind : CKind) (map : LaneMap) (link : PC) : Strand := { t with stack := ⟨map, link, t.f, kind⟩ :: t.stack }

/-- The lanes of a map within the extent that another does not hold. -/
def without (t : Strand) (m x : LaneMap) : LaneMap := m &&& (t.all ^^^ (x &&& t.all))

/-- BRK and CONT (R148): the lanes leave the entries above the loop's head, BRK's the head too; the lowest entry left empty above the head is where the strand goes on, with the F of the entry that stood above it. -/
def leaveLoop (s : State) (brk : Bool) (y : MCode) : Flow :=
  let t := s.me
  let above := t.stack.takeWhile (fun e => decide (e.kind ≠ .lhead))
  let x := t.scope &&& t.mapReg y
  let cut (e : CEntry) : CEntry := { e with map := without t e.map x }
  match t.stack.drop above.length with
  | [] => .fault .stackDepth 0
  | h :: below =>
    if above.any (fun e => decide (e.kind = .call ∨ e.kind = .trap)) then .fault .stackDepth 0
    else if x = 0 then .go s
    else
      let edited := above.map cut
      let rest := (if brk then cut h else h) :: below
      match (List.range edited.length).reverse.find? (fun i => (edited[i]?).any (fun e => decide (e.map = 0))) with
      | none => .go (s.setMe { t with stack := edited ++ rest })
      | some i => match edited[i]? with
        | none => .go s
        | some e =>
          let f := if i = 0 then t.f else ((edited[i - 1]?).map (·.fcopy)).getD t.f
          match linkPC s t (if e.kind = .lbody then h.link else e.link) with
          | some pc => .jump { t with stack := edited.drop i ++ rest, f := f } pc
          | none => .fault .illegalEncoding 0

/-- The return through the highest entry of a kind (R152). -/
def backThrough (s : State) (kind : CKind) (stops : List CKind) : Flow :=
  let above := s.me.stack.takeWhile (fun e => decide (e.kind ≠ kind))
  match s.me.stack.drop above.length with
  | [] => .fault .stackDepth 0
  | e :: r =>
    if above.any (fun e => decide (e.kind = .base ∨ e.kind ∈ stops)) then .fault .stackDepth 0
    else if (s.core s.me.core).slotAt e.link = none then .fault .codeReplaced 0
    else .jump { s.me with f := e.fcopy, stack := r } e.link

/-- What each instruction of the control family does. -/
def controlFlow : Instr → Option (State → Flow)
  | .nop _ _ => some .go
  | .if_ _ p off => some fun s =>
      let t := s.me
      let n := t.scope &&& t.mapReg p
      let r := pushed t .if_ n (linkOf s t off)
      if 31 ≤ t.stack.length then .fault .stackDepth 0 else if n = 0 then toOffset s off r else .go (s.setMe r)
  | .else_ _ off => some fun s =>
      let t := s.me
      match t.stack with
      | e :: b :: r =>
        let n := without t b.map e.map
        let t' := { t with f := e.fcopy, stack := ⟨n, linkOf s t off, e.fcopy, .else_⟩ :: b :: r }
        if e.kind ≠ .if_ then .fault .stackDepth 0 else if n = 0 then toOffset s off t' else .go (s.setMe t')
      | _ => .fault .stackDepth 0
  | .endif _ => some fun s =>
      match s.me.stack with
      | e :: r => if e.kind = .if_ ∨ e.kind = .else_ then .go (s.setMe { s.me with f := e.fcopy, stack := r }) else .fault .stackDepth 0
      | [] => .fault .stackDepth 0
  | .loop _ off => some fun s =>
      let t := s.me
      let r := pushed (pushed t .lhead t.scope (linkOf s t off)) .lbody t.scope PC.zero
      if 30 ≤ t.stack.length then .fault .stackDepth 0 else if t.scope = 0 then toOffset s off r else .go (s.setMe r)
  | .brk _ y => some fun s => leaveLoop s true y
  | .cont _ y => some fun s => leaveLoop s false y
  | .endloop _ off => some fun s =>
      match s.me.stack with
      | e :: h :: r =>
        if e.kind ≠ .lbody ∨ h.kind ≠ .lhead then .fault .stackDepth 0
        else if h.map = 0 then .go (s.setMe { s.me with f := h.fcopy, stack := r })
        else toOffset s off { s.me with stack := { e with map := h.map } :: h :: r }
      | _ => .fault .stackDepth 0
  | .bra _ c off => some fun s =>
      if (match c with
        | .always => true
        | .z r => decide (s.me.s r = 0)
        | .nz r => decide (s.me.s r ≠ 0)
        | .none p => decide (s.me.mapReg p = 0)
        | .any p => decide (s.me.mapReg p ≠ 0)) then toOffset s off s.me
      else .go s
  | .call _ off => some fun s =>
      if 31 ≤ s.me.stack.length then .fault .stackDepth 0 else toOffset s off (pushed s.me .call s.me.scope (nextPC s s.me 2))
  | .ocall _ sk off => some fun s =>
      let t := s.me
      let id : BitVec 24 := (t.s sk).setWidth 24
      if 2 ^ 24 ≤ (t.s sk).toNat then .fault .illegalOperand 0
      else if 16384 ≤ off.toNat then .fault .illegalEncoding 0
      else if t.s sk = 0 ∧ t.priv = false then .fault .privilege 0
      else if (s.core t.core).resident id = none then .fault .overlayAbsent id.toNat
      else match (s.core t.core).pcAt id off.toNat with
        | none => .fault .illegalEncoding 0
        | some pc => if 31 ≤ t.stack.length then .fault .stackDepth 0 else .jump (pushed t .call t.scope (nextPC s t 2)) pc
  | .ret _ => some fun s => backThrough s .call [.trap]
  | .rett _ => some fun s => backThrough s .trap []
  | .opinPin _ y j => some fun s => pinned s y j (fun p => if p.toNat = 255 then p else p + 1)
  | .opinUnpin _ y j => some fun s => pinned s y j (fun p => if p.toNat = 0 then p else p - 1)
  | .opinQuery _ x y j => some fun s =>
      let n := (s.me.s y).toNat + j.toNat
      let r := (s.core s.me.core).slot n
      if 64 ≤ n then .fault .illegalOperand 0
      else .go (s.setMe (s.me.setS x (BitVec.ofNat 64 (r.ovid.toNat + r.st.code * 2 ^ 24 + r.cnt.toNat * 2 ^ 32 + r.idx.toNat * 2 ^ 36
        + r.pin.toNat * 2 ^ 40 + r.gen.toNat * 2 ^ 48))))
  | _ => none
where
  /-- the PIN count of a slot changed (R232) -/
  pinned (s : State) (y : SCode) (j : BitVec 6) (f : BitVec 8 → BitVec 8) : Flow :=
    let n := (s.me.s y).toNat + j.toNat
    let c := s.core s.me.core
    if 64 ≤ n ∨ n = 0 then .fault .illegalOperand 0
    else .go (s.setCore s.me.core (c.setSlot n { c.slot n with pin := f (c.slot n).pin }))

end Sys2Proof.Claim

/-- R105, R106, R109, R132: RED, REDIDX and VGET write their scalar; one entry of each queue register read is popped, MAPDROP counts under DISC 1, and nothing else changes. -/
def Obligations.LaneScalarResults : Prop :=
  ∀ i x f, Claim.laneScalar i = some (x, f) → WellFormed true i = true → ∀ s, Issues i s → (s.me.disc = 2 → s.me.dropCount (operOf i) = 0) →
    ∃ t, exec i s = .next t ∧ Completes .plain 2 s t (((s.me.countDrop (operOf i)).popQ (operOf i)).setS x (f s.me))

/-- R98, R129, R79, R80, R102: CMP and FCMP: Pd holds the lanes of the operating map where the condition holds, Pe the others; no other map and no vector register changes but those that leave for the maps' share. CMP raises PEG-EXHAUSTED where its sources and the queue entries exceed the quota, where one that is evicted cannot come back, or where its maps have no room; FCMP never does (logs 21, 81). -/
def Obligations.ComparisonMaps : Prop :=
  ∀ i x pe f, Claim.comparison i = some (x, pe, f) → WellFormed true i = true → ∀ s, Issues i s →
    (s.me.disc = 2 → s.me.dropCount (operOf i) = 0) →
    let a := s.me
    let v := (operOf i).srcs.map a.readV
    let m := a.operMap (operOf i)
    let lacks := faultsOnRoom i = true ∧ (a.pegquota < ((operOf i).vregs.dedup.map a.regPegs).sum + a.queuePegs ∨ ∃ r ∈ (operOf i).vregs, r ∈ a.evicted)
    (lacks → Claim.Does i 2 s (.fault .pegExhausted 0)) ∧ (¬lacks → ∃ r, ((r.mapsFit = true → ∃ t, exec i s = .next t ∧ Completes .plain 2 s t r) ∧ Claim.Does i 2 s (Claim.roomed i (.go (s.setMe r)))) ∧
      (∀ l, (r.mapReg x).getLsbD l = (decide (l < a.ext) && m.getLsbD l && f a ((v.getD 0 ⟨[], [], []⟩).at l) ((v.getD 1 ⟨[], [], []⟩).at l))) ∧
      (pe ≠ 0 → ∀ l, l < a.ext → (r.mapReg pe).getLsbD l = (m.getLsbD l && !(r.mapReg x).getLsbD l)) ∧
      r = (let b := ((a.countDrop (operOf i)).popQ (operOf i)).setMapReg x (r.mapReg x)
           if pe = 0 then b else b.setMapReg pe (r.mapReg pe)))

/-- R121, R210: SETF writes F under its mask and SETG writes G, each giving its scalar the old value, or raises FORMAT or GANG and writes nothing; nothing else changes. -/
def Obligations.FormatAndGangRegisters : Prop :=
  ∀ i f, Claim.registerFlow i = some f → ∀ s, Issues i s → Claim.Does i 2 s (f s)

/-- R65, R66, R111, R112: MFS reads every special register, MTS writes those that can be written, with the faults PRIVILEGE and ILLEGAL-OPERAND; BSET and BADD write a base register; nothing else changes. -/
def Obligations.BaseAndSpecialRegisters : Prop :=
  ∀ i f, Claim.specialFlow i = some f → ∀ s, Issues i s → Claim.Does i 2 s (f s)

/-- R144 to R152, R230, R232: the instructions of the control stack, branches, calls and returns, and OPIN; maps that exceed their share make registers leave (R79). The order of STACK-DEPTH before ILLEGAL-ENCODING (log 12), how LINK and the returns read the stack (log 13), and that a push waits for returns in the way and else goes on over the share, as R150 and R154 list no PEG-EXHAUSTED (logs 21, 81), are the model's choice. -/
def Obligations.ControlFlow : Prop :=
  ∀ i f, Claim.controlFlow i = some f → ∀ s, Issues i s → Claim.Does i 2 s (if writesMap i then Claim.roomed i (f s) else f s)

namespace Sys2Proof.Claim

open Sys2Proof.Machine

/-! Floating-point numbers as real numbers (R115, R122). -/

/-- The number of a magnitude pattern of a format (R115); that of infinity stands for the number it would be, one step past the largest finite one. -/
noncomputable def magValue (f : Fmt) (b : Nat) : ℝ :=
  let e := b / 2 ^ f.mb
  let m := b % 2 ^ f.mb
  let low : ℤ := 2 - 2 ^ (f.eb - 1) - f.mb
  if e = 0 then (m : ℝ) * 2 ^ low else ((2 ^ f.mb + m : ℕ) : ℝ) * 2 ^ (low + e - 1)

/-- The magnitude of a pattern. -/
def magOf (f : Fmt) (x : Nat) : Nat := x % 2 ^ (f.eb + f.mb)

/-- The magnitude pattern of infinity: every exponent bit, no fraction bit (R115). -/
def infinity (f : Fmt) : Nat := (2 ^ f.eb - 1) * 2 ^ f.mb

/-- The sign bit of a pattern. -/
def minus (f : Fmt) (x : Nat) : Bool := decide (x / 2 ^ (f.eb + f.mb) % 2 = 1)

/-- The pattern of a sign and a magnitude. -/
def patternOf (f : Fmt) (neg : Bool) (b : Nat) : Nat := (if neg then 2 ^ (f.eb + f.mb) else 0) + b

/-- A finite pattern. -/
def Finite (f : Fmt) (x : Nat) : Prop := magOf f x < infinity f

/-- The number of a finite pattern. -/
noncomputable def realOf (f : Fmt) (x : Nat) : ℝ := if minus f x then -magValue f (magOf f x) else magValue f (magOf f x)

/-- `r` is the real number `v`, which is not 0, rounded once to the format in mode `rm` (R122): to the nearest pattern, that of infinity taken for the number past the largest finite one and an even fraction on a tie; or to the neighbour on the side that mode and sign tell, where no finite pattern is left beyond, infinity. -/
def Rounds (f : Fmt) (rm : Nat) (v : ℝ) (r : Nat) : Prop :=
  let k := magOf f r
  let top := infinity f
  let val := magValue f
  k ≤ top ∧ (minus f r = true ↔ v < 0) ∧ r = patternOf f (minus f r) k ∧
  (rm = 0 → ∀ j, j ≤ top → abs (val k - abs v) ≤ abs (val j - abs v) ∧ (abs (val k - abs v) = abs (val j - abs v) → j = k ∨ k % 2 = 0)) ∧
  ((rm = 1 ∨ rm = 2 ∧ v < 0 ∨ rm = 3 ∧ 0 < v) → k < top ∧ val k ≤ abs v ∧ ∀ j, j < top → val j ≤ abs v → j ≤ k) ∧
  ((rm = 2 ∧ 0 < v ∨ rm = 3 ∧ v < 0) → (k = top ∨ abs v ≤ val k) ∧ ∀ j, j < top → abs v ≤ val j → k ≤ j)

/-- `n` is a real number rounded to an integer in mode `rm` (R122, R130). -/
def RoundsInt (rm : Nat) (v : ℝ) (n : ℤ) : Prop :=
  (rm = 0 → abs ((n : ℝ) - v) ≤ 1 / 2 ∧ (abs ((n : ℝ) - v) = 1 / 2 → n % 2 = 0)) ∧
  (rm = 1 → abs (n : ℝ) ≤ abs v ∧ abs v < abs (n : ℝ) + 1 ∧ 0 ≤ (n : ℝ) * v) ∧ (rm = 2 → v ≤ n ∧ (n : ℝ) < v + 1) ∧ (rm = 3 → (n : ℝ) ≤ v ∧ v < n + 1)

/-- `x` is a result of sum or product `v` of patterns: `v` rounded, or where it is 0 the zero of sign `neg`. -/
def Gives (f : Fmt) (rm : Nat) (v : ℝ) (neg : Bool) (x : Nat) : Prop := (v ≠ 0 → Rounds f rm v x) ∧ (v = 0 → x = patternOf f neg 0)

/-- The three formats (R115). -/
def IsFmt (f : Fmt) : Prop := f = ⟨8, 23⟩ ∨ f = ⟨5, 10⟩ ∨ f = ⟨8, 7⟩

/-- The canonical NaN of a format (R117). -/
def canonical (f : Fmt) : Nat := infinity f + 2 ^ (f.mb - 1)

/-- A NaN pattern. -/
abbrev Nan (f : Fmt) (x : Nat) : Prop := infinity f < magOf f x

/-- The width of an integer type of CVT and whether it is signed; B32 is taken as N32 (R92, R102). -/
def integerType : Ty → Option (Nat × Bool)
  | .s8 => some (8, true)
  | .n8 => some (8, false)
  | .s16 => some (16, true)
  | .n16 => some (16, false)
  | .s32 => some (32, true)
  | .n32 | .b32 => some (32, false)
  | .s64 => some (64, true)
  | .n64 => some (64, false)
  | _ => none

/-- The format of a floating-point type (R115). -/
def floatType : Ty → Option Fmt
  | .f32 => some ⟨8, 23⟩
  | .f16 => some ⟨5, 10⟩
  | .bf16 => some ⟨8, 7⟩
  | _ => none

/-- An integer forced into the range of `w` bits (R102). -/
def saturated (w : Nat) (signed : Bool) (v : Int) : Int :=
  if signed then max (-(2 : Int) ^ (w - 1)) (min ((2 : Int) ^ (w - 1) - 1) v) else max 0 (min ((2 : Int) ^ w - 1) v)

/-- The integer that the low `w` bits of a pattern denote (R92). -/
def denotes (w : Nat) (signed : Bool) (x : W64) : Int :=
  let n := x.toNat % 2 ^ w
  if signed = true ∧ 2 ^ (w - 1) ≤ n then (n : Int) - 2 ^ w else n

/-- The pattern of an integer in `w` bits, zero above them (R102). -/
def inBits (w : Nat) (v : Int) : W64 := BitVec.ofInt 64 (v % 2 ^ w)

/-- A result of FMA whose product is infinite, with the sign `neg`, and whose addend is `z` (R124, R126). -/
def withInfinite (f : Fmt) (neg : Bool) (z : Nat) : Nat :=
  if Nan f z ∨ (magOf f z = infinity f ∧ minus f z ≠ neg) then canonical f else patternOf f neg (infinity f)

end Sys2Proof.Claim

/-- R115, R122, R123, R126, R130: sums, products, quotients, FMA, reciprocals, square roots and conversions of finite operands are the exact real result rounded once in the mode of F.RM, a zero result with the sign that R122 gives (a difference of two zeros of one sign has that sign: the reading of log 85), as are FEXP2 and FLOG2 where their result is exact (elsewhere they are computed to the work precision of log 9, which this does not pin). With FZ all of these act on the flushed operands and flush the result. -/
def Obligations.RoundingIsExact : Prop :=
  ∀ f, Claim.IsFmt f → ∀ rm, rm < 4 →
  (∀ x y, Claim.Finite f x → Claim.Finite f y →
    let a := Claim.realOf f x
    let b := Claim.realOf f y
    let sum (p q : Bool) : Bool := if p = q then p else decide (rm = 3)
    let diff (x y : Nat) : Bool := if Claim.magOf f x = 0 ∧ Claim.minus f x = Claim.minus f y then Claim.minus f x else decide (rm = 3)
    Claim.Gives f rm (a + b) (sum (Claim.minus f x) (Claim.minus f y)) (f.arith rm false .add x y) ∧
    Claim.Gives f rm (a - b) (diff x y) (f.arith rm false .sub x y) ∧
    Claim.Gives f rm (a * b) (Claim.minus f x != Claim.minus f y) (f.arith rm false .mul x y) ∧
    (b ≠ 0 → Claim.Gives f rm (a / b) (Claim.minus f x != Claim.minus f y) (f.arith rm false .div x y)) ∧
    ∀ z, Claim.Finite f z → Claim.Gives f rm (a * b + Claim.realOf f z) (sum (Claim.minus f x != Claim.minus f y) (Claim.minus f z)) (f.fma rm false x y z)) ∧
  (∀ x, Claim.Finite f x → let a := Claim.realOf f x
    (a ≠ 0 → Claim.Rounds f rm (1 / a) (f.func rm false .rcp x)) ∧
    (0 < a → Claim.Rounds f rm (Real.sqrt a) (f.func rm false .sqrt x) ∧ Claim.Rounds f rm (1 / Real.sqrt a) (f.func rm false .rsq x)) ∧
    (∀ n : ℤ, a = n → Claim.Rounds f rm ((2 : ℝ) ^ n) (f.func rm false .exp2 x) ∧ ((2 : ℝ) ^ n = 1 → f.func rm false .exp2 x = Claim.patternOf f false ((2 ^ (f.eb - 1) - 1) * 2 ^ f.mb))) ∧
    (∀ n : ℤ, n ≠ 0 → a = (2 : ℝ) ^ n → Claim.Rounds f rm (n : ℝ) (f.func rm false .log2 x)) ∧
    (∀ g, Claim.IsFmt g → Claim.Gives g rm a (Claim.minus f x) (cvtFF f g rm false x)) ∧
    ∀ lo hi : ℤ, lo ≤ hi → ∃ n, Claim.RoundsInt rm a n ∧ cvtFI f rm false lo hi x = max lo (min hi n)) ∧
  (∀ v : ℤ, Claim.Gives f rm v false (cvtIF f rm false v)) ∧
  (∀ x y z op g, f.arith rm true op x y = f.flush true (f.arith rm false op (f.flush true x) (f.flush true y)) ∧
    f.fma rm true x y z = f.flush true (f.fma rm false (f.flush true x) (f.flush true y) (f.flush true z)) ∧
    f.func rm true g x = f.flush true (f.func rm false g (f.flush true x))) ∧
  (∀ x v g lo hi, Claim.IsFmt g → cvtFF f g rm true x = g.flush true (cvtFF f g rm false (f.flush true x)) ∧ cvtFI f rm true lo hi x = cvtFI f rm false lo hi (f.flush true x) ∧
    cvtIF f rm true v = f.flush true (cvtIF f rm false v)) ∧
  ∀ x, (Claim.magOf f x < 2 ^ f.mb → f.flush true x = Claim.patternOf f (Claim.minus f x) 0) ∧
    (2 ^ f.mb ≤ Claim.magOf f x → f.flush true x = Claim.patternOf f (Claim.minus f x) (Claim.magOf f x))

/-- R102, R117, R124, R126 to R128, R130, R132: NaNs, infinities and zeros, FMA with an infinite product, conversions of NaNs and infinities and every pair of types of CVT, minimum and maximum, signs, and the tree of RED, on every operand; and results worked by hand for each mode, among them the differences of zeros (the reading of log 85). -/
def Obligations.FloatPins : Prop :=
  (∀ f, Claim.IsFmt f → ∀ rm, rm < 4 → ∀ fz,
    let inf := Claim.infinity f
    let nan := Claim.canonical f
    let sgn := Claim.minus f
    let pat := Claim.patternOf f
    (∀ x y z op, Claim.Nan f x ∨ Claim.Nan f y → f.arith rm fz op x y = nan ∧ f.fma rm fz x y z = nan ∧ f.fma rm fz z x y = nan) ∧
    (∀ x g, Claim.Nan f x → f.func rm fz g x = nan) ∧
    (∀ p q, f.arith rm fz .add (pat p inf) (pat q inf) = (if p = q then pat p inf else nan) ∧ f.arith rm fz .sub (pat p inf) (pat q inf) = (if p = q then nan else pat p inf) ∧
      f.arith rm fz .mul (pat p inf) (pat q inf) = pat (p != q) inf ∧ f.arith rm fz .div (pat p inf) (pat q inf) = nan ∧
      f.arith rm fz .mul (pat p inf) (pat q 0) = nan ∧ f.arith rm fz .mul (pat q 0) (pat p inf) = nan ∧ f.arith rm fz .div (pat p 0) (pat q 0) = nan) ∧
    (∀ p x, Claim.Finite f x →
      f.arith rm fz .add (pat p inf) x = pat p inf ∧ f.arith rm fz .add x (pat p inf) = pat p inf ∧
      f.arith rm fz .sub (pat p inf) x = pat p inf ∧ f.arith rm fz .sub x (pat p inf) = pat (!p) inf ∧
      f.arith rm fz .div (pat p inf) x = pat (p != sgn x) inf ∧ f.arith rm fz .div x (pat p inf) = pat (p != sgn x) 0 ∧
      (Claim.magOf f (f.flush fz x) ≠ 0 → f.arith rm fz .mul (pat p inf) x = pat (p != sgn x) inf ∧ f.arith rm fz .mul x (pat p inf) = pat (p != sgn x) inf ∧
        f.arith rm fz .div x (pat p 0) = pat (p != sgn x) inf) ∧
      (Claim.magOf f (f.flush fz x) ≠ 0 → ∀ z, f.fma rm fz (pat p inf) x z = Claim.withInfinite f (p != sgn x) z ∧ f.fma rm fz x (pat p inf) z = Claim.withInfinite f (p != sgn x) z) ∧
      ∀ y, Claim.Finite f y → f.fma rm fz x y (pat p inf) = pat p inf) ∧
    (∀ p q y, f.fma rm fz (pat p inf) (pat q 0) y = nan ∧ f.fma rm fz (pat q 0) (pat p inf) y = nan ∧
      f.fma rm fz (pat p inf) (pat q inf) y = Claim.withInfinite f (p != q) y) ∧
    (∀ g, Claim.IsFmt g → ∀ x, (Claim.Nan f x → cvtFF f g rm fz x = Claim.canonical g) ∧
      ∀ p, cvtFF f g rm fz (pat p inf) = Claim.patternOf g p (Claim.infinity g)) ∧
    (∀ lo hi : ℤ, (∀ x, Claim.Nan f x → cvtFI f rm fz lo hi x = 0) ∧ cvtFI f rm fz lo hi (pat false inf) = hi ∧ cvtFI f rm fz lo hi (pat true inf) = lo) ∧
    (∀ p, f.func rm fz .rcp (pat p 0) = pat p inf ∧ f.func rm fz .rcp (pat p inf) = pat p 0 ∧ f.func rm fz .rsq (pat p 0) = pat p inf ∧
      f.func rm fz .sqrt (pat p 0) = pat p 0 ∧ f.func rm fz .log2 (pat p 0) = pat true inf) ∧
    (f.func rm fz .rsq (pat false inf) = pat false 0 ∧ f.func rm fz .sqrt (pat false inf) = pat false inf ∧ f.func rm fz .exp2 (pat false inf) = pat false inf ∧
      f.func rm fz .exp2 (pat true inf) = pat false 0 ∧ f.func rm fz .log2 (pat false inf) = pat false inf ∧
      f.func rm fz .log2 (pat false ((2 ^ (f.eb - 1) - 1) * 2 ^ f.mb)) = pat false 0) ∧
    (∀ x, sgn x = true → 0 < Claim.magOf f (f.flush fz x) → f.func rm fz .rsq x = nan ∧ f.func rm fz .sqrt x = nan ∧ f.func rm fz .log2 x = nan) ∧
    (∀ x y mx, let a := f.flush fz x
      let b := f.flush fz y
      let r := f.minmax fz mx x y
      (Claim.Nan f x → Claim.Nan f y → r = nan) ∧ (Claim.Nan f x → ¬Claim.Nan f y → r = b) ∧ (¬Claim.Nan f x → Claim.Nan f y → r = a) ∧
      (¬Claim.Nan f x → ¬Claim.Nan f y → (r = a ∨ r = b) ∧
        ∀ c, c = a ∨ c = b → if mx then Claim.realOf f c ≤ Claim.realOf f r else Claim.realOf f r ≤ Claim.realOf f c) ∧
      f.minmax fz false (pat true 0) (pat false 0) = pat true 0 ∧ f.minmax fz false (pat false 0) (pat true 0) = pat true 0 ∧
      f.minmax fz true (pat true 0) (pat false 0) = pat false 0 ∧ f.minmax fz true (pat false 0) (pat true 0) = pat false 0) ∧
    (∀ x neg, (Claim.Nan f x → f.withSign x neg = nan) ∧ (¬Claim.Nan f x → f.withSign x neg = pat neg (Claim.magOf f x)))) ∧
  (∀ rm fz op (l : List Nat), rm < 4 → op < 3 → l.length ≤ 1024 → ∃ levels : List (List Nat), levels.head? = some (l.map (fmtF32.flush fz)) ∧
    (∀ i a b, levels[i]? = some a → levels[i + 1]? = some b → b.length = (a.length + 1) / 2 ∧
      ∀ j, (∀ u v, a[2 * j]? = some u → a[2 * j + 1]? = some v →
          b[j]? = some (if op = 0 then fmtF32.arith rm fz .add u v else fmtF32.minmax fz (decide (op = 2)) u v)) ∧
        (∀ u, a[2 * j]? = some u → a[2 * j + 1]? = none → b[j]? = some u)) ∧
    ∃ last, levels.getLast? = some last ∧ last.length ≤ 1 ∧
      redF rm fz op l = (match last with
        | [] => if op = 0 then 0 else if op = 1 then 0x7F800000 else 0xFF800000
        | r :: _ => if 0x7F800000 < r % 2 ^ 31 then 0x7FC00000 else r)) ∧
  -- CVT between any two types: by the conversions above, saturated and placed in the low bits of the destination
  (∀ src dst rm fz (x : W64), rm < 4 →
    (∀ f g, Claim.floatType src = some f → Claim.floatType dst = some g → convert src dst rm fz x = BitVec.ofNat 64 (cvtFF f g rm fz x.toNat)) ∧
    (∀ f w sg, Claim.floatType src = some f → Claim.integerType dst = some (w, sg) →
      convert src dst rm fz x = Claim.inBits w (if Claim.Nan f x.toNat then 0
        else cvtFI f rm fz (Claim.saturated w sg (-2 ^ 64)) (Claim.saturated w sg (2 ^ 64)) x.toNat)) ∧
    (∀ g w sg, Claim.integerType src = some (w, sg) → Claim.floatType dst = some g → convert src dst rm fz x = BitVec.ofNat 64 (cvtIF g rm fz (Claim.denotes w sg x))) ∧
    ∀ v sv w sg, Claim.integerType src = some (v, sv) → Claim.integerType dst = some (w, sg) →
      convert src dst rm fz x = Claim.inBits w (Claim.saturated w sg (Claim.denotes v sv x))) ∧
  -- an infinity and a NaN to signed bytes and to unsigned words; 1 − 1 and −0 − −0, +0 − −0 in the four modes
  (convert .f32 .s8 0 false 0x7F800000 = 0x7F ∧ convert .f32 .s8 0 false 0xFF800000 = 0x80 ∧ convert .bf16 .n32 1 true 0x7F80 = 0xFFFFFFFF ∧
    convert .f16 .n64 2 false 0xFC00 = 0 ∧ convert .f16 .s64 2 false 0x7E01 = 0 ∧ convert .f32 .bf16 3 true 0x7F800001 = 0x7FC0 ∧
    convert .bf16 .f16 0 false 0xFF80 = 0xFC00 ∧ convert .f32 .f16 1 false 0x7F7FFFFF = 0x7BFF) ∧
  ((List.range 4).map (fun rm => fmtF32.arith rm false .sub 0x80000000 0x80000000) = [0x80000000, 0x80000000, 0x80000000, 0x80000000] ∧
    (List.range 4).map (fun rm => fmtF32.arith rm false .sub 0 0) = [0, 0, 0, 0] ∧
    (List.range 4).map (fun rm => fmtF32.arith rm false .sub 0 0x80000000) = [0, 0, 0, 0x80000000]) ∧
  -- 1 + 2⁻²⁴ and −1 − 2⁻²⁴ in the four modes; a tie to the odd side; the largest number doubled; the smallest halved
  ((List.range 4).map (fun rm => fmtF32.arith rm false .add 0x3F800000 0x33800000) = [0x3F800000, 0x3F800000, 0x3F800001, 0x3F800000] ∧
    (List.range 4).map (fun rm => fmtF32.arith rm false .sub 0xBF800000 0x33800000) = [0xBF800000, 0xBF800000, 0xBF800000, 0xBF800001] ∧
    fmtF32.arith 0 false .add 0x3F800001 0x33800000 = 0x3F800002 ∧
    (List.range 4).map (fun rm => fmtF32.arith rm false .mul 0x7F7FFFFF 0x40000000) = [0x7F800000, 0x7F7FFFFF, 0x7F800000, 0x7F7FFFFF] ∧
    (List.range 4).map (fun rm => fmtF16.arith rm false .mul 0xFBFF 0x4000) = [0xFC00, 0xFBFF, 0xFBFF, 0xFC00] ∧
    (List.range 4).map (fun rm => fmtF32.arith rm false .mul 0x00000001 0x3F000000) = [0, 0, 1, 0] ∧
    (List.range 4).map (fun rm => fmtBF16.arith rm false .div 0x3F80 0x4040) = [0x3EAB, 0x3EAA, 0x3EAB, 0x3EAA] ∧
    (List.range 4).map (fun rm => fmtF32.func rm false .sqrt 0x40000000) = [0x3FB504F3, 0x3FB504F3, 0x3FB504F4, 0x3FB504F3] ∧
    fmtF32.arith 3 false .sub 0x3F800000 0x3F800000 = 0x80000000 ∧ fmtF32.arith 0 false .sub 0x3F800000 0x3F800000 = 0 ∧
    fmtF32.arith 0 true .add 0x00000001 0x80000000 = 0 ∧ fmtF32.arith 0 true .mul 0x00800000 0xBF000000 = 0x80000000 ∧
    fmtF32.fma 0 false 0x3F800001 0x3F7FFFFF 0xBF800000 = 0x337FFFFE)


namespace Sys2Proof.Claim

open Sys2Proof.Machine

/-- Instruction `i` does not issue: nothing of it happens, and its strand waits for `p` with its PC at it. -/
def ParksAt (i : Instr) (s : State) (p : Park) : Prop :=
  ∃ t, exec i s = .next t ∧ Quiet s.cur s.me.core s t ∧ (t.strand s.cur).still = s.me.still ∧ (t.strand s.cur).life = .parked p

/-- A queue register that the instruction reads holds no entry (R60). -/
def NoEntry (i : Instr) (t : Strand) (q : Nat) : Prop := (∃ v ∈ (operOf i).srcs, v.code.toNat = 120 + q) ∧ Tbl.get [] t.q q = []

/-- A vector register that the instruction reads is in the backing area (R78). -/
def Evicted (i : Instr) (t : Strand) (r : Nat) : Prop := r ∈ (operOf i).vregs ∧ r ∈ t.evicted

/-- The strand already has its arrival, with the same B descriptor, in the open latch of its gang (R212). -/
def ArrivalMade (s : State) (d : BDesc) : Prop :=
  let l := (s.frame s.me.frame).latchOn s.me.core
  s.me.g ≠ 0 ∧ l.isOpen = true ∧ l.gm = s.me.g ∧ l.bd = d ∧ l.arr.getLsbD s.me.sidx = true

end Sys2Proof.Claim

/-- R157, R156, R176, R60, R78, R212: an instruction whose operands are not there parks before it issues, and nothing of it happens: on an empty queue register; on a register in the backing area for which there is or will be room; an MMA of a gang in which its strand has already arrived. One that needs the register of an earlier LDB or PLDM waits at issue until its values can be read, which they then are (log 18). -/
def Obligations.ParksBeforeIssue : Prop :=
  (∀ i s, isEvent i = false → s.me.life = .running → (unlock s i = none → exec i s = .next s) ∧ ∀ w, unlock s i = some w → exec i s = exec i w) ∧
  (∀ i s p, isEvent i = false → s.me.life = .running → Unlocked i s → operandPark s s.me i = some p → Claim.ParksAt i s p) ∧
  (∀ i s q, isEvent i = false → s.me.life = .running → Unlocked i s → Claim.NoEntry i s.me q → ∃ r, Claim.NoEntry i s.me r ∧ Claim.ParksAt i s (.qEmpty r)) ∧
  (∀ i s r, isEvent i = false → s.me.life = .running → Unlocked i s → (∀ q, ¬Claim.NoEntry i s.me q) → Claim.Evicted i s.me r →
    s.me.restoreRoom ((operOf i).vregs ++ destOf i) (s.me.lost (operOf i)) ≠ .full → Claim.ParksAt i s (.restore (operOf i).vregs ((operOf i).vregs ++ destOf i))) ∧
  (∀ k ty maj o sc sp x y z m kb sk spl sm rs s b rows d, let i := Instr.mma k ty maj true o sc sp x y z m kb sk spl sm rs
    s.me.life = .running → Unlocked i s → (∀ q, ¬Claim.NoEntry i s.me q) → (∀ r, ¬Claim.Evicted i s.me r) →
    mmaUse s s.me ty maj sp x y z m kb sk spl sm rs = .ok (b, rows, d) → Claim.ArrivalMade s d → Claim.ParksAt i s .gang) ∧
  (∀ i s, (∀ q, ¬Claim.NoEntry i s.me q) → (∀ r, ¬Claim.Evicted i s.me r) → (∀ k ty maj o sc sp x y z m kb sk spl sm rs, i ≠ .mma k ty maj true o sc sp x y z m kb sk spl sm rs) →
    operandPark s s.me i = none)

namespace Sys2Proof.Claim

open Sys2Proof.Machine

/-- The running strand has been killed (R322): it is released, FAB of its frame is set, and KILL counts it. -/
def Killed (s t : State) : Prop :=
  let a := s.me
  let b := t.strand s.cur
  (b.life = .gone ∨ b.life = .killed) ∧ b.v = [] ∧ b.q = [] ∧ b.p = [] ∧ b.stack = [] ∧ b.rets = [] ∧ b.bkLen = 0 ∧ b.sr = a.sr ∧
    (t.frame a.frame).fab = true ∧ s.cur ∉ (t.frame a.frame).strands ∧ (t.part a.part).errs.kill = satAdd (s.part a.part).errs.kill 1

end Sys2Proof.Claim

/-- R153, R321, R322: TRAP and BKPT raise their faults with their number as DETAIL: TRAPPC names the instruction, the TRAP entry returns behind it. Where no handler takes them the strand is killed with that word in its record, its instruction issued and charged. -/
def Obligations.TrapAndBreakpoint : Prop :=
  ∀ i c d, (∃ k n, (i = .trap k n ∧ c = Code.trap ∨ i = .bkpt k n ∧ c = Code.bkpt) ∧ d = n.toNat) →
    ∀ s, Issues i s → match trapTarget s s.me c with
    | none => ∃ w, Quiet s.cur s.me.core s w ∧ w.strand s.cur = s.me.counted .plain ∧
        let t := w.kill s.cur (BitVec.ofNat 64 (d * 2 ^ 32 + (if c = .trap then 21 else 22))) s.me.pc.bits
        exec i s = .next t ∧ Claim.Killed s t
    | some dest => ∃ t, exec i s = .next t ∧ Quiet s.cur s.me.core (s.spilled s (t.strand s.cur)) t ∧
      let a := s.me
      let b := t.strand s.cur
      b.pc = dest ∧ b.trapcode = BitVec.ofNat 64 (d * 2 ^ 32 + (if c = .trap then 21 else 22)) ∧ b.trappc = a.pc.bits ∧
      b.stack = ⟨a.scope, nextPC s a 2, a.f, .trap⟩ :: a.stack ∧
      (({ a with stack := b.stack } : Strand).mapsFit = true → b.evicted = a.evicted) ∧
      ({ b with pc := a.pc, slotEnd := a.slotEnd, trapcode := a.trapcode, trappc := a.trappc, stack := a.stack, evicted := a.evicted }).still = (a.counted .plain).still

/-- R53, R321, R322: the fault of a fetched word is delivered: to the handler, with TRAPCODE, TRAPPC and the TRAP entry, or where there is none the strand is killed: it is released, FAB of its frame is set, and KILL counts it. -/
def Obligations.FetchFaultTaken : Prop :=
  ∀ e s, s.me.life = .running →
    let c := fetchCode e
    let a := s.me
    match trapTarget s a c with
    | some dest => ∃ t, exec (.fetchFault e) s = .next t ∧ Raises s t c 0 a.pc dest
    | none => ∃ t, exec (.fetchFault e) s = .next t ∧ Claim.Killed s t

namespace Sys2Proof.Claim

open Sys2Proof.Machine

/-- The running strand is the last live one of a frame whose launch names a successor, and the frame's scratchpad bytes, cores or banks are not what the successor's record asks for (R155, R278). -/
def Mismatch (s : State) : Prop :=
  let f := s.frame s.me.frame
  ∃ r, ((s.part f.part).launch f.launch).succ = some r ∧ (∀ u ∈ f.strands, u = s.cur) ∧
    (recSpb r ≠ f.spb ∨ recPair r ≠ decide (f.cores.length = 2) ∨ ∃ c ∈ f.cores, popcount (f.heldOn c) ≠ recAccb r)

end Sys2Proof.Claim

/-- R155, R278: EXIT waits for the strand's returns; the last strand of a frame that does not fit its successor raises LAUNCH-MISMATCH; otherwise the strand ends: its registers, entries, stack and backing range are released and it leaves its frame, and what it has in its queues and channels stays. -/
def Obligations.ExitEndsStrand : Prop :=
  ∀ k s, Issues (.exit k) s →
    (s.me.rets ≠ [] → ∃ t, exec (.exit k) s = .next t ∧ Quiet s.cur s.me.core s t ∧ (t.strand s.cur) = { s.me with life := .exiting }) ∧
    (s.me.rets = [] → Claim.Mismatch s → Claim.Does (.exit k) 2 s (.fault .launchMismatch 0)) ∧
    (s.me.rets = [] → ¬Claim.Mismatch s → ∃ w, exec (.exit k) s = .next (wakeAll w) ∧
      let b := w.strand s.cur
      b.life = .gone ∧ b.v = [] ∧ b.q = [] ∧ b.p = [] ∧ b.stack = [] ∧ b.bkLen = 0 ∧ b.sq = s.me.sq ∧ b.copy = s.me.copy ∧
        s.cur ∉ (w.frame s.me.frame).strands ∧ ∀ k, w.mem.read k = s.mem.read k)

namespace Sys2Proof.Claim

open Sys2Proof.Machine

/-! Near accesses (R164 to R178). -/

/-- The address of a lane: S[Y] + the lane's offset + IMM32 (R167). -/
def laneAddr (t : Strand) (y : SCode) (z : VCode) (imm : W32) (l : Nat) : Int := ((t.s y).toNat : Int) + ((t.vec z.toNat).lane l).toNat + imm.toInt

/-- The memory key of a near address. -/
def keyAt (s : State) (sp : Space) (a : Int) : Nat := nearKey s s.me sp a.toNat

/-- The lanes of an instruction's operating map, rising. -/
def lanesOf (i : Instr) (t : Strand) : List Nat := (List.range t.ext).filter (fun l => (t.operMap (operOf i)).getLsbD l)

/-- The little-endian value of bytes (R3). -/
def little (b : List Byte) : Nat := ((List.range b.length).map (fun i => (b.getD i 0).toNat * 256 ^ i)).sum

/-- The strand after map discipline and the pops of its queue registers. -/
def popped (i : Instr) (t : Strand) : Strand := (t.countDrop (operOf i)).popQ (operOf i)

/-- The plain stores: their words, ordering, scope and space, and their accesses: unit, address, bytes (R174 to R176). -/
def storing (i : Instr) : Option (Nat × Ordn × Scope × Space × (Strand → List (Nat × Int × List Byte))) :=
  match i with
  | .st _ ty o sc sp x y z _ imm => some (3, o, sc, sp, fun t =>
      (lanesOf i t).map (fun l => (l, laneAddr t y z imm l, toBytes ty.bytes ((t.readV ⟨x, ty.wide⟩).at l).toNat)))
  | .sts _ ty o sc sp x y imm => some (3, o, sc, sp, fun t => [(0, (t.s y).toNat + imm.toInt, toBytes ty.bytes (t.s x).toNat)])
  | .stb _ sp x y n => some (2, .rlx, .strand, sp, fun t => [(0, (t.s y).toNat + 16 * n.toNat, toBytes 16 (t.base x).toNat)])
  | .pstm _ sp x y n => some (2, .rlx, .strand, sp, fun t =>
      (List.range ((t.ext + 63) / 64)).map (fun w =>
        (w, (t.s y).toNat + 8 * n.toNat + 8 * w, toBytes 8 (((t.mapReg x &&& t.all) >>> (64 * w)).setWidth 64).toNat)))
  | _ => none

/-- The value that a load gives (R173). -/
def extended (ty : Ty) (scalar : Bool) (v : Nat) : W64 :=
  match ty, scalar with
  | .s8, _ => (BitVec.ofNat 8 v).signExtend 64
  | .s16, _ => (BitVec.ofNat 16 v).signExtend 64
  | .s32, true => (BitVec.ofNat 32 v).signExtend 64
  | _, _ => BitVec.ofNat 64 v

/-- A returning instruction that a strand has gained, none of its values performed yet: its lanes with the memory keys they read (R173, R323). -/
structure Awaits (a b : Strand) (kind : RKind) (ty : Ty) (dest : Nat) (dests : List SCode) (acq : Bool) (units : List (Nat × Nat)) : Prop where
  ex : if units = [] then b.rets = a.rets else ∃ r, b.rets = a.rets ++ [r] ∧ r.ord = a.ord ∧ r.kind = kind ∧ r.ty = ty ∧ r.dest = dest ∧
    r.dests = dests ∧ r.wide = (decide (kind = .ld) && ty.wide) ∧ r.acq = acq ∧ r.pc = a.pc.bits ∧
    r.units.map (fun x => (x.lane, x.key)) = units ∧ ∀ x ∈ r.units, x.val = none

/-- The store queue takes one more entry: it holds fewer than 32 (R183, R259, R324). -/
def QueueOpen (s : State) : Prop := s.me.sq.length < 32

/-- The entry of its instruction that a strand puts at the end of its store queue, with its traffic class (R183, R364). -/
def Entered (s : State) (e : SEntry) (kind : SKind) (o : Ordn) (sc : Scope) (units : List (Nat × Nat × UnitOp)) : Prop :=
  e.ord = s.me.ord ∧ e.kind = kind ∧ e.o = o ∧ e.sc = sc ∧ e.replayed = false ∧ e.tag = nextTag s s.me ∧ e.pc = s.me.pc.bits ∧
    e.cls = min s.me.prio (s.part s.me.part).rcd.tcmax ∧ e.units.map (fun x => (x.unit, x.key, x.op)) = units

/-- The accesses of a near-access instruction as R168 judges them: its words, its space, the bytes of an access, the unit of alignment, and the accesses in order with the lane that a fault names. -/
def nearUse : Instr → Option (Nat × Space × (Strand → Nat) × Nat × (Strand → List (Nat × Int)))
  | .ld k ty o sc sp x y z m imm => some (3, sp, fun _ => ty.bytes, ty.bytes, fun t => (lanesOf (.ld k ty o sc sp x y z m imm) t).map (fun l => (l, laneAddr t y z imm l)))
  | .st k ty o sc sp x y z m imm => some (3, sp, fun _ => ty.bytes, ty.bytes, fun t => (lanesOf (.st k ty o sc sp x y z m imm) t).map (fun l => (l, laneAddr t y z imm l)))
  | .atom k op ty o sc sp res x y z vs m imm => some (3, sp, fun _ => 4, 4, fun t =>
      (lanesOf (.atom k op ty o sc sp res x y z vs m imm) t).map (fun l => (l, laneAddr t y z imm l)))
  | .lds _ ty _ _ sp _ y imm | .sts _ ty _ _ sp _ y imm => some (3, sp, fun _ => ty.bytes, ty.bytes, fun t => [(0, (t.s y).toNat + imm.toInt)])
  | .atoms _ _ _ _ _ sp _ y _ _ imm => some (3, sp, fun _ => 4, 4, fun t => [(0, (t.s y).toNat + imm.toInt)])
  | .ldb _ sp _ y n | .stb _ sp _ y n => some (2, sp, fun _ => 16, 16, fun t => [(0, (t.s y).toNat + 16 * n.toNat)])
  | .pldm _ sp _ y n | .pstm _ sp _ y n => some (2, sp, fun t => 8 * ((t.ext + 63) / 64), 8, fun t => [(0, (t.s y).toNat + 8 * n.toNat)])
  | _ => none

/-- Every access of a near-access instruction lies in its space and is aligned (R168). -/
def NearOk (i : Instr) (s : State) : Prop :=
  ∀ n sp len unit f, nearUse i = some (n, sp, len, unit, f) → ∀ a ∈ f s.me, 0 ≤ a.2 ∧ a.2 + len s.me ≤ nearSize s s.me sp false ∧ a.2 % (unit : Int) = 0

/-! When an access is performed (R183 to R190). -/

/-- `n` bytes at `a` and `m` bytes at `b` share one. -/
def Touch (a n b m : Nat) : Prop := a < b + m ∧ b < a + n

/-- R184: no atomic or snapshot overlaps these bytes that is in the strand's queue before issue number `n`, or has been sent by its core and is not performed. -/
def Unblocked (s : State) (t : Strand) (n k len : Nat) : Prop :=
  (∀ e ∈ t.sq, e.ord < n → (∀ x ∈ e.units, ∀ a, x.op = .atom a → ¬Touch k len x.key 4) ∧ ∀ ws k0, e.kind = .snap ws k0 → ∀ a ∈ ws, ¬Touch k len a 4) ∧
  ∀ e ∈ (s.core t.core).sent, (∀ a, e.u.op = .atom a → ¬Touch k len e.u.key 4) ∧ (e.snap = true → ¬Touch k len e.u.key e.u.len)

/-- R189: every acquire of the strand before issue number `n` is performed: its loads have their values, its atomics have made their steps. -/
def Acquired (s : State) (u n : Nat) : Prop :=
  (∀ r ∈ (s.strand u).rets, r.ord < n → r.acq = true → r.open = []) ∧
  (∀ e ∈ (s.strand u).sq, e.ord < n → e.o ≠ .acq ∧ e.o ≠ .ar) ∧
  ∀ e ∈ (s.core (s.strand u).core).sent, e.sid = u → e.entry.ord < n → e.entry.o ≠ .acq ∧ e.entry.o ≠ .ar

/-- Every atomic of the strand before issue number `n` has made its steps. -/
def Stepped (s : State) (u n : Nat) : Prop :=
  (∀ e ∈ (s.strand u).sq, e.ord < n → ∀ x ∈ e.units, ∀ a, x.op ≠ .atom a) ∧
  ∀ e ∈ (s.core (s.strand u).core).sent, e.sid = u → e.entry.ord < n → ∀ a, e.u.op ≠ .atom a

/-- Every atomic of a strand before issue number `n` has left its queue, which gives it its place in the order of R186, and every snapshot that an unperformed load in between waits for (log 18). -/
def Left (t : Strand) (n : Nat) : Prop :=
  ∀ e ∈ t.sq, e.ord < n → (∀ x ∈ e.units, ∀ a, x.op ≠ .atom a) ∧
    ∀ ws k0, e.kind = .snap ws k0 → ∀ a ∈ ws, ∀ r ∈ t.loads, e.ord ≤ r.ord → r.ord < n → ∀ x ∈ r.open, ¬Touch a 4 x.key r.size

/-- R186: a load of these bytes may come before the atomics of strand `u` before issue number `n`: they have left its queue, or no other strand of the core has a write of these bytes in its queue (log 18). -/
def BeforeAtomics (s : State) (u n k len : Nat) : Prop :=
  Left (s.strand u) n ∨ ∀ w ∈ s.strands, w.1 ≠ u → w.2.core = (s.strand u).core → ∀ e ∈ w.2.sq, ∀ a ∈ ranges s e, ¬Touch k len a.1 a.2

/-- R185, R186: an access to these bytes may pass the strand's loads before issue number `n` that are not performed: they are of other bytes, and each may come before the atomics before it, also one that R184 still holds. -/
def Passes (s : State) (u n k len : Nat) : Prop :=
  ∀ r ∈ (s.strand u).loads, r.ord < n → ∀ x ∈ r.open,
    ¬Touch k len x.key r.size ∧ BeforeAtomics s u (r.ord + 1) x.key r.size

/-- A load of strand `u` with issue number `n` may be performed (R184 to R186, R189; log 18). -/
def MayRead (s : State) (u n k len : Nat) : Prop :=
  Unblocked s (s.strand u) n k len ∧ Acquired s u n ∧ BeforeAtomics s u n k len ∧ Passes s u n k len

/-- What happens-before issue number `n` of strand `u` among what its core has sent: its own writes and steps, and all that its core sent before the strand's last acquire (R189; the model's choice, log 82). -/
def Precedes (t : Strand) (u n : Nat) (e : Sent) : Prop := e.sid = u ∧ e.engine = false ∧ e.entry.ord < n ∨ e.num < t.seen

/-- What a FENCE waits for with `.ar`: every store, atomic and snapshot of strand `u` before issue number `n`, and every write of its core that happens-before it, is performed at a scope: none is in its queue, and none that its core has sent is on its way, but plain writes where every party of the scope sees them when they are sent (R183, R187, R189). -/
def Stored (s : State) (u n : Nat) (sc : Scope) : Prop :=
  (∀ e ∈ (s.strand u).sq, e.ord < n → (∃ c d, e.kind = .dep c d) ∨ ∃ k q, e.kind = .spawn k q) ∧
  ∀ e ∈ (s.core (s.strand u).core).sent, Precedes (s.strand u) u n e →
    ((sc = .strand ∨ (sc = .frame ∧ (s.frame (s.strand u).frame).cores.length ≠ 2)) ∧ e.snap = false ∧ ∃ d, e.u.op = .write d)

/-- Every load of the strand before issue number `n` is performed. -/
def Loaded (t : Strand) (n : Nat) : Prop := ∀ r ∈ t.loads, r.ord < n → r.kind ≠ .mrd → r.kind ≠ .xpull → ∀ x ∈ r.units, x.val ≠ none

/-- Every access of strand `u` before issue number `n` is performed at a scope: its loads, its stores and atomics, and its SPAWN and DEP, which are performed when they leave its queue (R183, R187, R272, R273). -/
def Before (s : State) (u n : Nat) (sc : Scope) : Prop := Loaded (s.strand u) n ∧ (∀ e ∈ (s.strand u).sq, n ≤ e.ord) ∧ Stored s u n sc

/-- The head entry of a store queue may leave (R183): the release fences before it are met; as a release it waits for every access before it; the acquires before it are performed (R189), and the order of R185 and R186 is kept. -/
def MayLeave (s : State) (u : Nat) (e : SEntry) : Prop :=
  s.works u = true ∧
  (∀ f ∈ (s.strand u).fences, f.1 < e.ord → Before s u f.1 f.2) ∧
  (e.o = .rel ∨ e.o = .ar → Before s u e.ord e.sc) ∧
  Acquired s u e.ord ∧ (∀ a ∈ ranges s e, Passes s u e.ord a.1 a.2) ∧
  ∀ w ∈ s.strands, w.1 ≠ u → w.2.core = (s.strand u).core →
    (∀ r ∈ w.2.loads, r.passed = true → ∀ a ∈ ranges s e, ∀ x ∈ r.open, ¬Touch a.1 a.2 x.key r.size) ∧
    ∀ y ∈ w.2.ahead, Left w.2 y.1 ∨ ∀ a ∈ ranges s e, ¬Touch a.1 a.2 y.2.1 y.2.2

/-- What a FENCE with an acquire waits for (R180): the returns of earlier LD, LDS, ATOM and ATOMS, and under `.ar` every earlier store and atomic at its scope. -/
def FenceMet (s : State) (u : Nat) (o : Ordn) (sc : Scope) (n : Nat) : Prop :=
  (∀ r ∈ (s.strand u).rets, r.ord < n → r.kind = .mrd ∨ r.kind = .xpull) ∧ Stepped s u n ∧ (o = .ar → Stored s u n sc)

/-- An LDB or PLDM that a strand has gained, none of its values read yet: its destination and the memory keys of its values (R156, R175, R176). -/
def Locks (a b : Strand) (kind : RKind) (dest : Nat) (keys : List Nat) : Prop :=
  ∃ r, b = { a with locks := a.locks ++ [r] } ∧ r.ord = a.ord ∧ r.kind = kind ∧ r.dest = dest ∧ r.pc = a.pc.bits ∧
    r.units.map (fun x => (x.lane, x.key)) = (List.range keys.length).zip keys ∧ ∀ x ∈ r.units, x.val = none

end Sys2Proof.Claim

/-- R173, R175, R176, R167, R168, R74: LD and LDS take their destination at issue, reading 0, and await one value for each access, none of which is performed yet. LDB and PLDM read one value of 16 bytes, or one of 8 for each word of the map, between their issue and the first later instruction that needs their register, each on its own: that moment is the model's choice (log 18). -/
def Obligations.Loads : Prop :=
  (∀ k ty o sc sp x y z m imm s, let i := Instr.ld k ty o sc sp x y z m imm
    WellFormed true i = true → Issues i s → Claim.Fits i x ty.wide s → s.me.rets.length < 32 → Claim.NearOk i s →
    ∃ t b, exec i s = .next t ∧ Completes .plain 3 s t b ∧ Claim.Placed s.me b x ty.wide (s.me.operMap (operOf i)) (fun _ => 0) ∧
      Claim.Awaits s.me b .ld ty x.toNat [] (decide (o = .acq)) ((Claim.lanesOf i s.me).map (fun l => (l, Claim.keyAt s sp (Claim.laneAddr s.me y z imm l)))) ∧
      Claim.withVectors { b with rets := s.me.rets } s.me = Claim.popped i s.me) ∧
  (∀ k ty o sc sp x y imm s, let i := Instr.lds k ty o sc sp x y imm
    Issues i s → s.me.rets.length < 32 → Claim.NearOk i s →
    ∃ t b, exec i s = .next t ∧ Completes .plain 3 s t b ∧
      Claim.Awaits s.me b .lds ty 0 [x] (decide (o = .acq)) [(0, Claim.keyAt s sp ((s.me.s y).toNat + imm.toInt))] ∧
      { b with rets := s.me.rets } = s.me.setS x 0) ∧
  (∀ k sp x y n s, let i := Instr.ldb k sp x y n
    Issues i s → Claim.NearOk i s →
    ∃ t b, exec i s = .next t ∧ Completes .plain 2 s t b ∧ Claim.Locks s.me b .ldb x.toNat [Claim.keyAt s sp ((s.me.s y).toNat + 16 * n.toNat)]) ∧
  (∀ k sp x y n s, let i := Instr.pldm k sp x y n
    Issues i s → Claim.NearOk i s →
    ∃ t b, exec i s = .next t ∧ Completes .plain 2 s t b ∧ Claim.Locks s.me b .pldm x.toNat
      ((List.range ((s.me.ext + 63) / 64)).map (fun w => Claim.keyAt s sp ((s.me.s y).toNat + 8 * n.toNat + 8 * w))))

/-- R168, R173 to R178, R183, R184: a near access outside its space raises NEAR-BOUNDS, one inside it that is not aligned MISALIGNED, with the first such lane as DETAIL, and nothing of the instruction happens. With every access right it waits at issue while 32 returns are outstanding or while the store queue is full. That MAP-DROP is judged before, and PEG-EXHAUSTED after these faults, is the model's choice (log 6). -/
def Obligations.NearFaultsAndWaits : Prop :=
  (∀ i n sp len unit f, Claim.nearUse i = some (n, sp, len, unit, f) → ∀ s, Issues i s → (s.me.disc = 2 → s.me.dropCount (operOf i) = 0) →
    match (f s.me).find? (fun a => decide (a.2 < 0 ∨ (nearSize s s.me sp false : Int) < a.2 + len s.me)) with
    | some a => Claim.Does i n s (.fault .nearBounds a.1)
    | none => match (f s.me).find? (fun a => decide (a.2 % (unit : Int) ≠ 0)) with
      | some a => Claim.Does i n s (.fault .misaligned a.1)
      | none => True) ∧
  (∀ i s, Issues i s → (s.me.disc = 2 → s.me.dropCount (operOf i) = 0) → Claim.NearOk i s → ¬Claim.QueueOpen s →
    ((∃ f, Claim.storing i = some f) ∨ (∃ k op ty o sc sp x y z e imm, i = .atoms k op ty o sc sp x y z e imm) ∨
      (∃ k op ty o sc sp x y z vs m imm, i = .atom k op ty o sc sp false x y z vs m imm) ∨
      (∃ k op ty o sc sp x y z vs m imm, i = .atom k op ty o sc sp true x y z vs m imm ∧ Claim.Fits i x false s)) →
    exec i s = .next s) ∧
  (∀ i s, Issues i s → Claim.NearOk i s → 32 ≤ s.me.rets.length →
    ((∃ k ty o sc sp x y imm, i = .lds k ty o sc sp x y imm) ∨ (∃ k op ty o sc sp x y z e imm, i = .atoms k op ty o sc sp x y z e imm) ∨
      (∃ k ty o sc sp x y z m imm, i = .ld k ty o sc sp x y z m imm ∧ Claim.Fits i x ty.wide s) ∨
      (∃ k op ty o sc sp x y z vs m imm, i = .atom k op ty o sc sp true x y z vs m imm ∧ Claim.Fits i x false s)) →
    exec i s = .next s)

/-- R174 to R176, R167, R168, R239: ST, STS, STB and PSTM enter one entry of writes at the end of the store queue, at the addresses and with the bytes their rules give; no byte of memory changes yet. -/
def Obligations.StoresEnterQueue : Prop :=
  ∀ i n o sc sp f, Claim.storing i = some (n, o, sc, sp, f) → ∀ s, Issues i s → Claim.QueueOpen s →
    (s.me.disc = 2 → s.me.dropCount (operOf i) = 0) → Claim.NearOk i s →
    let b := Claim.popped i s.me
    ∃ t e, exec i s = .next t ∧ Goes .plain n s (useTag (s.setMe (b.enqueue e)) b) t ∧
      Claim.Entered s e .units o sc ((f s.me).map (fun x => (x.1, Claim.keyAt s sp x.2.1, .write x.2.2)))

/-- R178, R339: ATOM and ATOMS enter one entry of atomic steps and, where they have a result, await it; IDEM becomes 0. -/
def Obligations.AtomicsEnterQueue : Prop :=
  (∀ k op ty o sc sp res x y z vs m imm s, let i := Instr.atom k op ty o sc sp res x y z vs m imm
    let lanes := Claim.lanesOf i s.me
    let key (l : Nat) := Claim.keyAt s sp (Claim.laneAddr s.me y z imm l)
    let data (l : Nat) := (s.me.readV ⟨vs, decide (op = .cas)⟩).at l
    WellFormed true i = true → Issues i s → (s.me.disc = 2 → s.me.dropCount (operOf i) = 0) → Claim.QueueOpen s → Claim.NearOk i s → (res = true → Claim.Fits i x false s ∧ s.me.rets.length < 32) →
    ∃ t b e, exec i s = .next t ∧ Goes .classC 3 s (useTag (s.setMe (b.enqueue e)) b) t ∧ (((t.strand s.cur).idem : BitVec 38) = 0) ∧
      Claim.Entered s e .units o sc (lanes.map (fun l => (l, key l, .atom ⟨op, ty, (data l).setWidth 32, (data l >>> 32).setWidth 32, res⟩))) ∧
      (res = false → b = Claim.popped i s.me) ∧
      (res = true → Claim.Placed s.me b x false (s.me.operMap (operOf i)) (fun _ => 0) ∧
        Claim.Awaits s.me b .atom ty x.toNat [] false (lanes.map (fun l => (l, key l))) ∧
        Claim.withVectors { b with rets := s.me.rets } s.me = Claim.popped i s.me)) ∧
  (∀ k op ty o sc sp x y z e' imm s, let i := Instr.atoms k op ty o sc sp x y z e' imm
    let a : Int := (s.me.s y).toNat + imm.toInt
    Issues i s → Claim.QueueOpen s → s.me.rets.length < 32 → Claim.NearOk i s →
    ∃ t b e, exec i s = .next t ∧ Goes .classC 3 s (useTag (s.setMe (b.enqueue e)) b) t ∧ (((t.strand s.cur).idem : BitVec 38) = 0) ∧
      Claim.Entered s e .units o sc [(0, Claim.keyAt s sp a, .atom ⟨op, ty, (s.me.s z).setWidth 32, (s.me.s e').setWidth 32, true⟩)] ∧
      Claim.Awaits s.me b .atoms ty 0 [x] false [(0, Claim.keyAt s sp a)] ∧ { b with rets := s.me.rets } = s.me.setS x 0)

namespace Sys2Proof.Claim

open Sys2Proof.Machine

/-- A WAIT of R181 on point `j` from `w`: it completes with OK, which is an acquire, when the phase has changed and with ABANDONED when it never can, and parks otherwise. -/
def MeetWaits (s w t : State) (x : SCode) (j : Nat) (op : Option MeetOp) : Prop :=
  let a := w.me
  let f := w.frame a.frame
  let p := f.point j
  let from_ := if (a.meetRec j).pend then (a.meetRec j).ph else p.phase
  if p.phase ≠ from_ ∨ f.fab = true ∨ p.ab = true ∨ (p.arr = 0 ∧ f.strands.filter (· ≠ s.cur) = []) then
    let b := (a.setMeetRec j { a.meetRec j with pend := false }).setS x (if p.phase ≠ from_ then 0 else 1)
    Goes .classC 2 s (w.setMe (if p.phase ≠ from_ then b.acquires w else b)) t
  else Parks .classC 2 (.meetWait x j from_ op) s w t

/-- An ARRIVE of R181 on point `j` from `s`: the point counts the strand and, with the last one, begins its next phase; AB is set when the strands still to arrive cannot make up the count; then parked strands of the frame are taken up. -/
def MeetArrives (s w : State) (j n : Nat) : Prop :=
  let a := s.me
  let p := (s.frame a.frame).point j
  let arr := p.arr ||| BitVec.ofNat 16 (2 ^ a.sidx)
  let cnt := if p.arr = 0 then (if n = 0 then a.fsize else n) else p.cnt
  ∃ w1, w = meetWakeAll a.frame 64 w1 ∧ w1.me = a.setMeetRec j ⟨true, p.phase⟩ ∧ (∀ v, v ≠ s.cur → w1.strand v = s.strand v) ∧ w1.mem = s.mem ∧ w1.cores = (useTag s a).cores ∧
    (∀ g, g ≠ a.frame → w1.frame g = s.frame g) ∧ ((w1.frame a.frame).point j).cnt = cnt ∧
    ((w1.frame a.frame).point j).phase = (if popcount arr = cnt then p.phase + 1 else p.phase) ∧
    ((w1.frame a.frame).point j).arr = (if popcount arr = cnt then 0 else arr) ∧
    (((w1.frame a.frame).point j).ab = true ↔ p.ab = true ∨ (popcount arr ≠ cnt ∧ arr ≠ 0 ∧
      popcount arr + ((s.frame a.frame).strands.filter (fun u => !arr.getLsbD (s.strand u).sidx)).length < cnt))

end Sys2Proof.Claim

/-- R180, R183 to R187, R189: FENCE parks, with an acquire, until the returns of the LD, LDS, ATOM and ATOMS before it have arrived, and under `.ar` until the stores and atomics before it are performed at its scope; otherwise it goes on. With a release it is kept, and no entry of the store queue behind it leaves before every access before it is performed at its scope. An entry of the queue leaves exactly when what its ordering, the fences and the acquires before it ask for is done. That a fence parks only after it is issued, what a park for atomics waits for, that `.ar` passes a queued SPAWN or DEP and waits for a SNAP, and what happens-before through an acquire, are the model's choice (logs 14, 17, 18, 76, 82). -/
def Obligations.FenceOrders : Prop :=
  (∀ k o sc s, Issues (.fence k o sc) s →
    let w := if o = .rel ∨ o = .ar then s.setMe { s.me with fences := s.me.fences ++ [(s.me.ord, sc)] } else s
    (((o = .acq ∨ o = .ar) → Claim.FenceMet s s.cur o sc s.me.ord) → ∃ t, exec (.fence k o sc) s = .next t ∧
      Goes .plain 2 s (if o = .acq ∨ o = .ar then w.setMe (w.me.acquires w) else w) t) ∧
    ((o = .acq ∨ o = .ar) → ¬Claim.FenceMet s s.cur o sc s.me.ord → ∃ t, exec (.fence k o sc) s = .next t ∧ Parks .plain 2 (.fence o sc s.me.ord) s w t)) ∧
  (∀ s u o sc n, (s.strand u).life = .parked (.fence o sc n) →
    (Claim.FenceMet s u o sc n → wakeOne s u = (s.setStrand u ((s.strand u).acquires s)).makeReady u) ∧ (¬Claim.FenceMet s u o sc n → wakeOne s u = s)) ∧
  (∀ s u e, mayLeave s u e = true ↔ Claim.MayLeave s u e) ∧
  (∀ s u e r, (s.strand u).sq = e :: r → ¬Claim.MayLeave s u e → exec (.storeQueueLeave u) s = .next s ∧ ∀ l, exec (.spawnAppend ⟨u, l⟩) s = .next s)

/-- R181, R172, R183, R328: MEET: arrival, a release at frame scope, which takes a tag at an abandoned point too (the model's choice, log 16), and wait at a meeting point of the frame, abandoned points, and ILLEGAL-OPERAND for a count above FRAMESIZE. -/
def Obligations.MeetArrivesAndWaits : Prop :=
  ∀ k form x j n s, Issues (.meet k form x j n) s →
    let i := Instr.meet k form x j n
    let f := s.frame s.me.frame
    let p := f.point j.toNat
    let tagged := useTag s s.me
    let op : MeetOp := ⟨s.me.ord, nextTag s s.me, firstWord i⟩
    if s.me.fsize < n.toNat then Claim.Does i 2 s (.fault .illegalOperand 0)
    else if form = .wait then ∃ t, exec i s = .next t ∧ Claim.MeetWaits s s t x j.toNat none
    else if f.fab = true ∨ p.ab = true then
      ∃ t, exec i s = .next t ∧ if form = .arr then Goes .classC 2 s (tagged.setMe (s.me.setS x 1)) t else Claim.MeetWaits s tagged t x j.toNat (some op)
    else
      let met := (∀ g, g = (s.me.ord, Scope.frame) ∨ (g ∈ s.me.fences ∧ g.1 < s.me.ord) → Claim.Before s s.cur g.1 g.2)
      (¬met → exec i s = .next s) ∧ (met →
      if p.arr.getLsbD s.me.sidx then ∃ t, exec i s = .next t ∧ Parks .classC 2 (.meetArrive form x j.toNat n.toNat p.phase op) s tagged t
      else ∃ t w, exec i s = .next t ∧ Claim.MeetArrives s w j.toNat n.toNat ∧
        if form = .arr then Goes .classC 2 s (w.setMe (w.me.setS x 0)) t else Claim.MeetWaits s w t x j.toNat (some op))

/-- R74, R76, R173, R183 to R190: a value of a near load is performed when it may be, and reads its bytes as the strand then sees them: from its own latest earlier store, from the latest write that its core has sent, or from memory; it waits otherwise; a pass makes one request for each line of 128 bytes, counted with its last value; a value of an LDB or PLDM goes to its base or map register at once. When a load may pass others is the model's choice (log 18). A value that has come back goes to its lane, or is counted in STRAY where the destination no longer has that lane (of a pair, in both its registers: log 10), or to its scalar; its kept result is freed; and the strand is taken up if it waited for it. -/
def Obligations.ReturnedValueArrives : Prop :=
  (∀ sid ord lane s r x, let a := s.strand sid
    let e : Instr := if r.kind = .ld then .returnArrival sid ord lane else .scalarReturn sid ord lane
    s.works sid = true → a.life.live = true → a.twin = none → (r.kind = .ld ∨ r.kind = .lds) → a.mirror = [] →
    a.rets.find? (fun y => decide (y.ord = ord) && decide (y.kind.scalar = r.kind.scalar)) = some r → r.units.find? (fun y => decide (y.lane = lane)) = some x → x.val = none →
    (Claim.MayRead s sid ord x.key r.ty.bytes →
      let w := s.setStrand sid ((a.perform ord lane (Claim.extended r.ty (decide (r.kind = .lds)) (Claim.little (seen s a ord x.key r.ty.bytes)))).loaded s r x.key)
      exec e s = .next (if ∃ y ∈ r.open, y.lane ≠ x.lane ∧ y.pass = x.pass ∧ y.key / 128 = x.key / 128 then w
        else w.carryNear a.part a.core x.key r.ty.bytes r.cls)) ∧
    (¬Claim.MayRead s sid ord x.key r.ty.bytes → exec e s = .next s)) ∧
  (∀ sid ord lane s r x, let a := s.strand sid
    s.works sid = true → a.life.live = true → a.rets.find? (fun y => decide (y.ord = ord) && !y.kind.scalar) = none →
    a.locks.find? (fun y => decide (y.ord = ord)) = some r → r.units.find? (fun y => decide (y.lane = lane)) = some x → (r.kind = .ldb ∨ r.kind = .pldm ∧ r.dest ≠ 0) →
    (¬Claim.MayRead s sid ord x.key r.size → exec (.returnArrival sid ord lane) s = .next s) ∧
    (Claim.MayRead s sid ord x.key r.size → ∃ w, exec (.returnArrival sid ord lane) s = .next w ∧ w.mem = s.mem ∧ w.cores = s.cores ∧
      (∀ u, u ≠ sid → w.strand u = s.strand u) ∧
      let b := w.strand sid
      b.v = a.v ∧ b.sr = a.sr ∧ (∀ y ∈ b.locks, y.ord = ord → ∀ z ∈ y.units, z.lane ≠ lane) ∧
      (r.kind = .ldb → b.p = a.p ∧ Tbl.get 0 b.b r.dest = BitVec.ofNat 80 (Claim.little (seen s a ord x.key 16)) ∧ ∀ n, n ≠ r.dest → Tbl.get 0 b.b n = Tbl.get 0 a.b n) ∧
      (r.kind = .pldm → a.ext ≤ 1024 → b.b = a.b ∧ (∀ n, n ≠ r.dest → Tbl.get 0 b.p n = Tbl.get 0 a.p n) ∧ ∀ l, l < a.ext →
        (Tbl.get 0 b.p r.dest).getLsbD l = if l / 64 = lane then (seenByte s a ord (x.key + l % 64 / 8)).getLsbD (l % 8) else (Tbl.get 0 a.p r.dest).getLsbD l))) ∧
  ((∀ s t n k len, (∀ e ∈ t.sq, n ≤ e.ord) → t.held = [] → (s.core t.core).sent = [] → seen s t n k len = s.mem.readN k len) ∧
   (∀ s t n k before e x d, t.sq = before ++ [e] → e.ord < n → e.replayed = false → e.units = [x] → x.key = k → x.op = .write d → seen s t n k d.length = d) ∧
   (∀ s t n k before e d, (∀ y ∈ t.sq, n ≤ y.ord) → t.held = [] → (s.core t.core).sent = before ++ [e] → e.snap = false → e.entry.replayed = false → e.u.key = k → e.u.op = .write d →
     seen s t n k d.length = d)) ∧
  (∀ sid ord lane s r x v, let a := s.strand sid
    s.works sid = true → a.life.live = true → r.units.find? (fun y => decide (y.lane = lane)) = some x → x.val = some v →
    let given (w : State) : Prop := w.mem = s.mem ∧ (∀ u, u ≠ sid → w.strand u = s.strand u) ∧ w.cores = s.cores ∧ (w.strand sid).rets = (a.dropUnit ord lane).rets ∧
      w.part a.part = { s.part a.part with results := (s.part a.part).results.filter (fun e => decide (e.1 ≠ (r.tag, lane))) }
    (a.rets.find? (fun y => decide (y.ord = ord) && !y.kind.scalar) = some r → lane < 1024 → r.dest < 120 → (r.wide = true → r.dest + 1 < 120) →
      ∃ w, exec (.returnArrival sid ord lane) s = .next (wakeOne w sid) ∧ given w ∧
        let b := w.strand sid
        let has (n : Nat) : Prop := (a.vec n).map.getLsbD lane = true
        b.sr = a.sr ∧
        if has r.dest ∧ (r.wide = true → has (r.dest + 1)) then
          (b.vec r.dest).lane lane = v.setWidth 32 ∧ (∀ l, l ≠ lane → (b.vec r.dest).lane l = (a.vec r.dest).lane l) ∧
          (r.wide = true → (b.vec (r.dest + 1)).lane lane = (v >>> 32).setWidth 32) ∧ b.stray = a.stray
        else b.v = a.v ∧ b.stray = satAdd a.stray 1) ∧
    (a.rets.find? (fun y => decide (y.ord = ord) && y.kind.scalar) = some r →
      ∃ w, exec (.scalarReturn sid ord lane) s = .next (wakeOne w sid) ∧ given w ∧
        (w.strand sid).v = a.v ∧ (w.strand sid).sr = (a.setS (r.dests.getD lane 0) v).sr))

/-- R183, R272, R273, R298: the head of a store queue leaves when nothing holds it: its writes and steps follow those its core has sent before, a DEP adds to its counter, an XCTL.SNAP reads and clears its entries and sends their counts, a SPAWN reads the pieces named of its record, 16 bytes each, and with the last of the eight appends the record at the tail of the launch queue, whose TAIL moves on. -/
def Obligations.QueueHeadLeaves : Prop :=
  (∀ sid s e rest, let a := s.strand sid
    a.sq = e :: rest → mayLeave s sid e = true → a.twin = none →
    let left := a.leave e
    match e.kind with
    | .spawn _ _ => True
    | .units => ∃ w, exec (.storeQueueLeave sid) s = .next (wakeOne w sid) ∧ w.strand sid = left ∧ (∀ k, w.mem.read k = s.mem.read k) ∧
        (w.core a.core).sent = (s.core a.core).sent ++ e.units.zipIdx.map (fun x => { sid := sid, entry := { e with units := [] }, u := x.1, snap := false, num := (s.core a.core).leaves + x.2 }) ∧
        (w.core a.core).leaves = (s.core a.core).leaves + e.units.length
    | .dep c add => ∃ w, exec (.storeQueueLeave sid) s = .next (wakeOne w sid) ∧ w.strand sid = left ∧ (∀ k, w.mem.read k = s.mem.read k) ∧
        w.counter c = s.counter c + add ∧ ∀ d, d ≠ c → w.counter d = s.counter d
    | .snap words k0 => ∃ w, exec (.storeQueueLeave sid) s = .next (wakeOne w sid) ∧ w.strand sid = left ∧ (∀ k, w.mem.read k = s.mem.read k) ∧
        let p := s.part a.part
        let x := p.snap k0 0 words.length
        w.part a.part = x.1 ∧ (w.core a.core).sent = (s.core a.core).sent ++ (words.zip x.2).zipIdx.map (fun v =>
          { sid := sid, entry := { e with units := [] }, u := ⟨v.2, v.1.1, .write (toBytes 4 v.1.2.toNat), 0, 0⟩, snap := true, num := (s.core a.core).leaves + v.2 })) ∧
  (∀ sid s e rest pieces pick q, let a := s.strand sid
    let p := s.part a.part
    let x := p.queue q
    a.sq = e :: rest → e.kind = .spawn pieces q → mayLeave s sid e = true → (x.tail - x.head).toNat < 2 ^ x.sz →
    let l : Pieces := pieces.zipIdx.map (fun y => if y.2 ∈ pick ∧ y.1.2 = none then (y.1.1, some ((List.range 16).map (fun i => coreByte s a.core (y.1.1 + i)))) else y.1)
    let record := l.flatMap (fun y => y.2.getD [])
    let at_ := windowKey p (x.base + 128 * (x.tail.toNat % 2 ^ x.sz))
    ((∃ y ∈ l, y.2 = none) → ∃ w, exec (.spawnAppend ⟨sid, pick⟩) s = .next w ∧ w.strand sid = { a with sq := { e with kind := .spawn l q } :: rest } ∧
      (∀ u, u ≠ sid → w.strand u = s.strand u) ∧ w.parts = s.parts ∧ w.mem = s.mem ∧ w.cores = s.cores) ∧
    ((∀ y ∈ l, y.2 ≠ none) → ∃ w, exec (.spawnAppend ⟨sid, pick⟩) s = .next (wakeOne w sid) ∧ w.strand sid = a.leave e ∧
      (∃ c, ((w.part a.part).queue q) = { x with tail := x.tail + 1, counts := c }) ∧
      (∀ k, w.mem.read k = if at_ ≤ k ∧ k < at_ + record.length then record.getD (k - at_) 0 else s.mem.read k)))

namespace Sys2Proof.Claim

/-- A byte at key `k` where `d` has been written at key `at_` too, if there is one, over byte `b`. -/
def written (at_ : Option Nat) (d : List Byte) (k : Nat) (b : Byte) : Byte :=
  match at_ with
  | some a => if a ≤ k ∧ k < a + d.length then d.getD (k - a) 0 else b
  | none => b

end Sys2Proof.Claim

/-- R183, R216, R330, R331, R177, R178, R256: what a core has sent to one ordering point acts in the order it was sent, and so do the elements of one MST wherever they go. A write that comes first to its ordering point stores its bytes there and nowhere else, and the engine command it belongs to is looked at again; one whose replay finds its tag stores nothing and takes the tag away; that a first performance leaves no tag is the model's choice (log 19). An atomic step reads its word and writes what the variant makes of it in one (min, max, CAS and the packed forms write only a new value), and its result is kept while it is awaited; a replay that finds its result takes it, frees it, and leaves memory alone. What a braced primary's step or snapshot writes in its own allocation reaches its shadow's too (R370). -/
def Obligations.SentUnitsAct : Prop :=
  (∀ s core idx e, arrivable s core idx = some e ↔ (s.core core).sent[idx]? = some e ∧ ∀ x ∈ (s.core core).sent.take idx,
    pointOf x.u.key ≠ pointOf e.u.key ∧ ¬(x.entry.ikind = 22 ∧ e.entry.ikind = 22 ∧ x.sid = e.sid ∧ x.entry.ord = e.entry.ord)) ∧
  (∀ core idx s e d, arrivable s core idx = some e → e.u.op = .write d →
    ∃ w, exec (.writeArrival core idx) s = .next (if e.engine then wakeAll (mstSettle (settle w e.sid e.entry.ord) e.sid e.entry.ord) else wakeOne w e.sid) ∧
      w.strands = s.strands ∧ (w.core core).sent = (s.core core).sent.eraseIdx idx ∧
      let p := s.part e.tag.part
      if e.entry.replayed = true ∧ (e.tag, e.u.unit) ∈ p.tags then
        (∀ k, w.mem.read k = s.mem.read k) ∧ (w.part e.tag.part) = { p with tags := p.tags.filter (· ≠ (e.tag, e.u.unit)) }
      else (∀ k, w.mem.read k = Claim.written (if e.snap = true then twinKey s (s.strand e.sid) e.u.key else none) d k
          (if e.u.key ≤ k ∧ k < e.u.key + d.length then d.getD (k - e.u.key) 0 else s.mem.read k)) ∧ w.part e.tag.part = p) ∧
  (∀ core idx s e a, arrivable s core idx = some e → e.u.op = .atom a → (a.ty = .s32 ∨ a.ty = .n32 ∨ a.ty = .b32) → e.entry.replayed = false →
    (s.part e.tag.part).results.length < 4096 →
    let old : W32 := BitVec.ofNat 32 (Claim.little (s.mem.readN e.u.key 4))
    let v (w : W32) : Int := if a.ty = .s32 then w.toInt else w.toNat
    let first (w : W32) : Nat := w.toNat / 65536
    let second (w : W32) : Nat := w.toNat % 65536
    let new : W32 := match a.op with
      | .add => old + a.d
      | .min => if v a.d < v old then a.d else old
      | .max => if v old < v a.d then a.d else old
      | .and => old &&& a.d
      | .or => old ||| a.d
      | .xor => old ^^^ a.d
      | .xchg => a.d
      | .cas => if old = a.e then a.d else old
      | .maxpk => if first old < first a.d ∨ (first a.d = first old ∧ second a.d < second old) then a.d else old
      | .minpk => if first a.d < first old ∨ (first a.d = first old ∧ second a.d < second old) then a.d else old
    let same (r : Ret) : Bool := decide (r.ord = e.entry.ord) && (decide (r.kind = .atom) || decide (r.kind = .atoms))
    ∃ w, exec (.atomicStep core idx) s = .next (wakeOne w e.sid) ∧ (w.core core).sent = (s.core core).sent.eraseIdx idx ∧
      (∀ k, w.mem.read k = Claim.written (twinKey s (s.strand e.sid) e.u.key) (toBytes 4 new.toNat) k
        (if e.u.key ≤ k ∧ k < e.u.key + 4 then BitVec.ofNat 8 (new.toNat / 256 ^ (k - e.u.key)) else s.mem.read k)) ∧
      (∀ u, u ≠ e.sid → (s.strand e.sid).twin ≠ some u → w.strand u = s.strand u) ∧
      ∀ r, (s.strand e.sid).twin = none → (s.strand e.sid).rets.find? same = some r →
        ((∃ x ∈ r.units, x.lane = e.u.unit) → a.res = true → (w.part e.tag.part).results = (s.part e.tag.part).results ++ [((e.tag, e.u.unit), old)]) ∧
        ∀ r' ∈ (w.strand e.sid).rets, r'.ord = e.entry.ord → ∀ x ∈ r'.units, x.lane = e.u.unit →
          x.val = some (if r.kind = .atoms ∧ a.ty = .s32 then old.signExtend 64 else old.setWidth 64)) ∧
  (∀ core idx s e a x, arrivable s core idx = some e → e.u.op = .atom a → e.entry.replayed = true → (s.strand e.sid).twin = none →
    let p := s.part e.tag.part
    p.results.find? (fun y => decide (y.1 = (e.tag, e.u.unit))) = some ((e.tag, e.u.unit), x) →
    ∃ w, exec (.atomicStep core idx) s = .next (wakeOne w e.sid) ∧ w.mem = s.mem ∧ (w.core core).sent = (s.core core).sent.eraseIdx idx ∧
      w.part e.tag.part = { p with results := p.results.filter (fun y => decide (y.1 ≠ (e.tag, e.u.unit))) } ∧ (∀ u, u ≠ e.sid → w.strand u = s.strand u) ∧
      ∀ r, (s.strand e.sid).rets.find? (fun r => decide (r.ord = e.entry.ord) && (decide (r.kind = .atom) || decide (r.kind = .atoms))) = some r →
        ∀ r' ∈ (w.strand e.sid).rets, r'.ord = e.entry.ord → ∀ y ∈ r'.units, y.lane = e.u.unit →
          y.val = some (if r.kind = .atoms ∧ a.ty = .s32 then x.signExtend 64 else x.setWidth 64))


namespace Sys2Proof.Claim

open Sys2Proof.Machine

/-! Runs, marks and charges (R41, R158, R159, R343). -/

/-- The first word of an instruction. -/
def wordOf (i : Instr) : W64 := ((encode i).map (fun e => e.1.extractLsb' 0 64)).getD 0

/-- S of an instruction: bit 2 of its first word (R40). -/
def markS (i : Instr) : Bool := (wordOf i).getLsbD 2
/-- E of an instruction: bit 3 of its first word (R40). -/
def markE (i : Instr) : Bool := (wordOf i).getLsbD 3

/-- The charge of an instruction of the running strand: the weight number OP of its partition times `k` (R113, R343). -/
def chargeOf (i : Instr) (s : State) (k : Nat) : Nat :=
  (s.part s.me.part).rcd.chw.toNat / 256 ^ ((wordOf i).extractLsb' 4 7).toNat % 256 * k

/-- The issue of one instruction has charged its cluster and the run of its core, and no other cluster (R342, R343). -/
def Charged (s t : State) (w : Nat) : Prop :=
  Tbl.get 0 t.act (s.me.core / 8) = Tbl.get 0 s.act (s.me.core / 8) + BitVec.ofNat 64 w ∧
  (∀ c, c ≠ s.me.core / 8 → Tbl.get 0 t.act c = Tbl.get 0 s.act c) ∧
  (t.core s.me.core).runCharge = (s.core s.me.core).runCharge + w

/-- The run has ended (R158). -/
def Ended (s t : State) (l : Life) : Prop := (t.core s.me.core).running = none ∧ (t.strand s.cur).life = l

/-- What becomes of the run after an instruction that goes on (R41, R158, R159): with S and returns outstanding the strand parks; E ends the run; the 24th instruction ends it, by the park of the next instruction, or counted in RUNCUT; otherwise the run goes on. -/
def RunAfter (i : Instr) (s t : State) : Prop :=
  let b := t.strand s.cur
  if markS i = true ∧ b.rets ≠ [] then Ended s t (.parked .marker) ∧ b.runcut = s.me.runcut
  else if markE i = true then Ended s t .ready ∧ b.runcut = s.me.runcut
  else if (s.core s.me.core).runLen + 1 < 24 then
    b.life = .running ∧ b.runcut = s.me.runcut ∧ (t.core s.me.core).running = (s.core s.me.core).running ∧ (t.core s.me.core).runLen = (s.core s.me.core).runLen + 1
  else match nextPark t b with
    | some p => Ended s t (.parked p) ∧ b.runcut = s.me.runcut
    | none => Ended s t .ready ∧ b.runcut = satAdd s.me.runcut 1

/-- k of R343: the lanes of the operating map, doubled for 64-bit types; 1 for an instruction without vector operand. The operating map is what R68 and R69 name: that of VPUT and MRD is the birth map, that of MMA its source's under its qualifier; and a CVT is doubled for a 64-bit type on either side (log 50). -/
def weightOf (i : Instr) (t : Strand) : Nat :=
  let o := operOf i
  let lanes : Nat := match i with
    | .vput _ _ _ _ _ m _ | .mrd _ _ _ _ _ _ _ m => popcount (t.birth m)
    | .mma _ _ _ _ _ _ _ _ _ _ _ _ _ _ _ _ => popcount (t.operMap { o with how := .meet })
    | _ => popcount (t.operMap o)
  if o.how = .none then 1 else lanes * (if o.wide then 2 else 1)

/-- The instructions that issue and go on to the next one, and neither transfer control nor park or end their strand; but for a write of RUNCUT itself. -/
def RunsOn : Instr → Bool
  | .exit _ | .trap _ _ | .bkpt _ _ | .bra _ _ _ | .call _ _ | .ocall _ _ _ | .ret _ | .rett _ => false
  | .if_ _ _ _ | .else_ _ _ | .loop _ _ | .brk _ _ | .cont _ _ | .endloop _ _ => false
  | .fence _ _ _ | .meet _ _ _ _ _ | .wait _ _ _ _ _ _ | .malloc _ _ _ _ | .xpull _ _ _ _ _ => false
  | .mts _ n _ => decide (n ≠ .runcut)
  | i => !isEvent i

/-- A lane instruction of the tables above. -/
def LaneForm (i : Instr) : Prop :=
  (∃ r, integerLane i = some r) ∨ (∃ r, orderedLane i = some r) ∨ (∃ r, floatLane i = some r) ∨ (∃ x f, laneScalar i = some (x, f)) ∨
    ∃ x pe f, comparison i = some (x, pe, f)

/-- The vector destination of a lane instruction of the tables above. -/
def laneDest (i : Instr) : Option (VCode × Bool) :=
  ((integerLane i).orElse (fun _ => (orderedLane i).orElse (fun _ => floatLane i))).map (fun r => (r.x, r.wide))

/-- The vector destination of a near access. -/
def nearDest : Instr → Option (VCode × Bool)
  | .ld _ ty _ _ _ x _ _ _ _ => some (x, ty.wide)
  | .atom _ _ _ _ _ _ true x _ _ _ _ _ => some (x, false)
  | _ => none

/-- The lanes that an instruction drops: those in some of its source maps and not in all of them (R72); MERGE and SEL drop none (R73). -/
def dropped (i : Instr) (t : Strand) : Nat :=
  let maps := (operOf i).srcs.flatMap (fun v => (t.readV v).maps)
  match i with
  | .merge _ _ _ _ _ _ | .sel _ _ _ _ _ _ _ => 0
  | _ => (List.range 1024).countP (fun l => maps.any (fun m => m.getLsbD l) && !(maps.all (fun m => m.getLsbD l) && decide (l < t.ext)))

end Sys2Proof.Claim

/-- R41, R158, R159, R342, R343: every issued instruction, of every family, charges its cluster and its run with its weight times the lanes of its operating map, doubled for 64-bit types, or times 1 without vector operand; then, where it neither transfers control nor waits by its own meaning, S parks its strand while returns are outstanding, E ends the run, and the 24th instruction of a run ends it: by a park of the next one, or else counted in RUNCUT. A transfer ends the run. A fault charges nothing. -/
def Obligations.RunsAndCharges : Prop :=
  (∀ i d n f, Claim.scalarResult i = some (d, n, f) → WellFormed true i = true → ∀ s, Issues i s →
    ∃ t, exec i s = .next t ∧ Claim.Charged s t (Claim.chargeOf i s 1) ∧ Claim.RunAfter i s t) ∧
  (∀ i s t, isEvent i = false → WellFormed true i = true → Issues i s → exec i s = .next t → (t.strand s.cur).ord = s.me.ord + 1 →
    Claim.Charged s t (Claim.chargeOf i s (Claim.weightOf i s.me)) ∧ (Claim.RunsOn i = true → Claim.RunAfter i s t)) ∧
  (∀ k s t, let i := Instr.exit k
    Issues i s → s.me.rets ≠ [] → exec i s = .next t → Claim.Charged s t (Claim.chargeOf i s 1)) ∧
  (∀ k off s pc, let i := Instr.bra k .always off
    Issues i s → targetPC s s.me off = some pc → ∃ t, exec i s = .next t ∧ Claim.Charged s t (Claim.chargeOf i s 1) ∧ (t.strand s.cur).runcut = s.me.runcut ∧
      Claim.Ended s t (if Claim.markS i = true ∧ s.me.rets ≠ [] then .parked .marker else .ready)) ∧
  (∀ k n s dest, let i := Instr.trap k n
    Issues i s → trapTarget s s.me .trap = some dest → ∃ t, exec i s = .next t ∧ Claim.Charged s t (Claim.chargeOf i s 1)) ∧
  (∀ s u c d a r dest, trapTarget s (s.strand u) c = some dest → (takeFault s u c d a r).act = s.act)

/-- R72, R73, R77 to R80: under DISC 2 an instruction whose source maps differ raises MAP-DROP with the number of dropped lanes; one with a vector destination whose result, with its sources back, has no room raises PEG-EXHAUSTED; while only registers with returns outstanding stand in the way it waits at issue. Nothing of it happens. Room is made by the shortest run of the oldest written registers, in that order, that lets the rest fit, if the backing area holds them. That MAP-DROP stands first (log 6), and the 32 bytes of a peg and the choice of the run (log 21), are the model's choice. -/
def Obligations.LaneStops : Prop :=
  (∀ i s, Claim.LaneForm i ∨ (Claim.nearUse i).isSome = true → Issues i s → s.me.disc = 2 → Claim.dropped i s.me ≠ 0 →
    Claim.Does i 2 s (.fault .mapDrop (Claim.dropped i s.me))) ∧
  (∀ i x wide s, (Claim.laneDest i = some (x, wide) ∨ Claim.nearDest i = some (x, wide) ∧ Claim.NearOk i s) → Issues i s → (s.me.disc = 2 → Claim.dropped i s.me = 0) →
    (s.me.roomFor (operOf i) x wide (s.me.operMap (operOf i)) = .full → Claim.Does i 2 s (.fault .pegExhausted 0)) ∧
    (s.me.roomFor (operOf i) x wide (s.me.operMap (operOf i)) = .wait → exec i s = .next s)) ∧
  (∀ (t : Strand) keep gone pegs maps,
    let cand := t.written.reverse.filter (fun r => decide (r ∈ t.inStore ∧ r ∉ keep ∧ t.vec r ≠ []))
    let free := cand.filter (fun r => decide (r ∉ t.awaited))
    let first (l : List Nat) : Option Nat := (List.range (l.length + 1)).find? (fun k => t.fits gone (l.take k).reverse pegs maps)
    t.makeRoom keep gone pegs maps = match first free with
      | some 0 => .ok t
      | some k =>
        let out := (free.take k).reverse
        if (((out ++ t.evicted).filter (fun r => !gone.contains r)).map t.regPegs).sum * 32 ≤ t.bkLen then .ok { t with evicted := out ++ t.evicted } else .full
      | none => if (first cand).isSome then .wait else .full)

namespace Sys2Proof.Claim

open Sys2Proof.Machine

/-! Copy commands (R243 to R251, R315). -/

/-- One side of a lane copy of `n` bytes lies outside its space (R168, R244). -/
def outOfSpace (s : State) (n : Nat) : Side → Bool
  | .near sp a => decide (nearSize s s.me sp false < a + n)
  | _ => false

/-- One side of a lane copy is not aligned to `n` bytes (R244). -/
def unaligned (n : Nat) : Side → Bool
  | .near _ a => decide (a % n ≠ 0)
  | .far a => decide (a.toNat % n ≠ 0)
  | .queue => false

/-- Where a lane of CPY reads (R244). -/
def cpyFrom (t : Strand) (c : CpySrc) (y : VCode) (l : Nat) : Side :=
  let v := ((t.vec y.toNat).lane l).toNat
  match c with
  | .near sp b => .near sp ((t.s b).toNat + v)
  | .far b r => .far (BitVec.ofNat 80 ((t.base b).toNat + (t.s r).toNat + v))

/-- Where a lane of CPY writes (R244). -/
def cpyTo (t : Strand) (c : CpyDst) (l : Nat) : Side :=
  match c with
  | .near sp b x => .near sp ((t.s b).toNat + ((t.vec x.toNat).lane l).toNat)
  | .far b r x => .far (BitVec.ofNat 80 ((t.base b).toNat + (t.s r).toNat + ((t.vec x.toNat).lane l).toNat))
  | .queue _ => .queue

/-- A command that the issuing strand has entered at the end of its copy channel, taking `tags` tags (R241, R328). -/
def Commands (c : ICls) (n tags : Nat) (s t : State) (b : Strand) (kind : CmdKind) (o : Ordn) (sc : Scope) (units : List (Nat × Nat × Option Loc × Option Loc × Nat)) : Prop :=
  ∃ x : Cmd, Goes c n s ((List.range tags).foldl (fun w _ => useTag w b) (s.setMe { b with copy := { b.copy with cmds := b.copy.cmds ++ [x] } })) t ∧
    x.ord = s.me.ord ∧ x.tag = nextTag s s.me ∧ x.batch = none ∧ x.kind = kind ∧ x.o = o ∧ x.sc = sc ∧ x.arrived = [] ∧ x.peers = [] ∧ x.pc = s.me.pc.bits ∧
    x.cls = min s.me.prio (s.part s.me.part).rcd.tcmax ∧ (∀ u ∈ x.units, u.dat = none) ∧ x.units.map (fun u => (u.unit, u.lane, u.src, u.dst, u.len)) = units

/-- A counter in the partition's range (R268). -/
abbrev OwnCounter (s : State) (c : Nat) : Prop := (s.part s.me.part).rcd.cbase ≤ c ∧ c < (s.part s.me.part).rcd.cbase + (s.part s.me.part).rcd.ccnt

/-- The row of CPGATHER for a lane: its place among the rows, its destination, whether it is clipped, its source (R249). -/
def gatherRow (t : Strand) (src : GatherSrc) (x : SCode) (y : VCode) (z str ro : SCode) (w : Nat) (l : Nat) : Nat × Nat × Bool × Side :=
  let idx := ((t.vec y.toNat).lane l).toNat
  let i := (t.s ro).toNat + l
  let d := idx * (t.s str).toNat
  (i, (t.s x).toNat + i * (256 * w), decide ((t.s z).toNat ≤ idx), match src with
    | .far b r => .far (BitVec.ofNat 80 ((t.base b).toNat + (t.s r).toNat + d))
    | .vault b => .near .vault ((t.s b).toNat + d)
    | .spad b => .near .spad ((t.s b).toNat + d))

/-- A side some bytes on. -/
def further (d : Nat) : Side → Side
  | .near sp a => .near sp (a + d)
  | .far a => .far (BitVec.ofNat 80 (a.toNat + d))
  | .queue => .queue

/-- Bytes `a … a + n − 1` and `b … b + m − 1` share one. -/
abbrev Share (a n b m : Nat) : Prop := 0 < n ∧ 0 < m ∧ a < b + m ∧ b < a + n

/-- A command of strand `u` with issue number `n` may act (R191): the stores and atomics before it are performed at their ordering points; under `.ar` all that its core has sent but its own writes (the model's choice, log 82). -/
def EngineMay (s : State) (u n : Nat) (o : Ordn) : Prop :=
  (∀ e ∈ (s.strand u).sq, e.ord < n → (∃ c d, e.kind = .dep c d) ∨ ∃ k q, e.kind = .spawn k q) ∧
  (∀ e ∈ (s.core (s.strand u).core).sent, e.sid = u → e.entry.ord < n → e.engine = true) ∧
  (o = .ar → ∀ e ∈ (s.core (s.strand u).core).sent, e.engine = true ∧ e.sid = u ∧ e.entry.ord = n)

/-- The release of a command with issue number `n` may be made, by its last write or by the decrement of its counter: every access of its strand before it is performed, its SPAWN and DEP among them, and all that happens-before it through an acquire (R189, R191, R247; log 82). -/
def ReleaseMay (s : State) (u n : Nat) : Prop :=
  Loaded (s.strand u) n ∧ (∀ e ∈ (s.strand u).sq, n ≤ e.ord) ∧ ∀ e ∈ (s.core (s.strand u).core).sent, (s.strand u).seen ≤ e.num

/-- The decrement of a command's own counter, if it has one, may be made (R247). -/
def CounterMay (s : State) (u : Nat) (c : Cmd) : Prop := ∀ i, c.counter = some (i, false) → ReleaseMay s u c.ord

/-- The writes of an engine command that a core has sent, behind `n` others (R183, R328, R364). -/
def engineWrites (sid n : Nat) (c : Cmd) (l : List (Nat × Nat × List Byte)) : List Sent :=
  l.zipIdx.map (fun x => { sid := sid, entry := engineEntry c.ord c.tag c.sc c.pc c.cls, u := ⟨x.1.1, x.1.2.1, .write x.1.2.2, 0, 0⟩, snap := false, num := n + x.2, engine := true })

/-- What has become of a command whose units are now those of `c`: it stays in its channel while units are left, writes that it has sent are not performed at its scope, or its counter may not be decremented; otherwise it has left, and its counter is decremented (R247, R256). -/
def Settled (s w : State) (sid : Nat) (c : Cmd) : Prop :=
  let stays := c.units ≠ [] ∨ engineDone w sid c.ord c.sc = false ∨ ¬CounterMay w sid c
  (stays → (w.strand sid).cmd c.ord = some c ∧ w.counters = s.counters) ∧
  (¬stays → (w.strand sid).cmd c.ord = none ∧ (match c.counter with
    | some (i, false) => w.counter i = s.counter i - 1 ∧ ∀ d, d ≠ i → w.counter d = s.counter d
    | _ => w.counters = s.counters))

/-- The page that translates the far side of a unit in the copy TLB of a strand's core (R308). -/
def pageOf (s : State) (a : Strand) (l : Option Loc) : Option Tlb :=
  match l with
  | some (.far b) => (s.core a.core).tlb.find? (fun y => y.hits a.part (s.part a.part).rcd.casid (vpnOf b))
  | _ => none

/-- A page of the pool without compression (R306). -/
def Plain (e : Tlb) : Prop := eBk e.leaf = 0 ∧ eCmp e.leaf = 0

/-- The pool address of a far address in a page (R308). -/
def poolAt (e : Tlb) (b : W80) : Nat := eOut e.leaf * 2 ^ 16 + b.toNat % (if e.big then 2 ^ 32 else 2 ^ 16)

/-- The bytes that a unit reads: near ones as the strands of the core see them, those of a far page, or zeros (R244, R249, R311). -/
def unitReads (s : State) (a : Strand) (page : Option Tlb) (x : CUnit) : List Byte :=
  match x.src, page with
  | some (.near k), _ => (List.range x.len).map (fun i => coreByte s a.core (k + i))
  | some (.far b), some e => s.mem.readN (poolAt e b) x.len
  | _, _ => List.replicate x.len 0

/-- The units of a transfer have their sources near, or all in one readable page of the pool that the copy TLB holds. -/
def Readable (s : State) (a : Strand) (us : List CUnit) (page : Option Tlb) : Prop :=
  match page with
  | none => ∀ x ∈ us, ∀ b, x.src ≠ some (.far b)
  | some e => Plain e ∧ eRd e.leaf = true ∧ ∀ x ∈ us, (∃ b, x.src = some (.far b)) ∧ pageOf s a x.src = some e

/-- The status of a command's batch after a transfer that met poisoned data in the lanes of `lost`: the first error is kept (R246, R252). -/
def Marked (a b : Strand) (c : Cmd) (lost : List Nat) : Prop :=
  let old : W64 := Tbl.get 0 a.copy.st (statusPlace c.batch)
  Tbl.get 0 b.copy.st (statusPlace c.batch) = if lost = [] ∨ old.getLsbD 0 = true then old else old ||| 0x301

/-- Two units have their sources in one block of 256 bytes, and their destinations in one (R245). -/
def Joined (x y : CUnit) : Prop := locBlock x.src = locBlock y.src ∧ locBlock x.dst = locBlock y.dst

/-- A unit may be written together with those of `us` (R249, R257): no earlier command of the strand still writes its bytes, nor a lower unit of its own; as the last write of a release it comes alone, once the others are performed and all that the release covers (R191). -/
def MayWrite (s : State) (u : Nat) (c : Cmd) (us : List CUnit) (x : CUnit) : Prop :=
  (∀ d ∈ (s.strand u).copy.cmds, d.ord < c.ord → ∀ w ∈ d.writes, locMeets w.1 w.2 x.dst x.len = false) ∧
  (∀ y ∈ c.units, y ∈ us ∨ x.unit ≤ y.unit ∨ locMeets y.dst y.len x.dst x.len = false) ∧
  (c.o = .rel ∨ c.o = .ar → x.lane = c.top → (∀ y ∈ c.units, y.lane = c.top) ∧ engineDone s u c.ord c.sc = true ∧ ReleaseMay s u c.ord)

/-- Units that one event may transfer, `x` the first: those that are read, or those that are written of what was read; the two accesses of a lane are two events (R169, R245, R249; how many units is the model's choice, log 64). -/
def MayTransfer (s : State) (u : Nat) (c : Cmd) (us : List CUnit) (x : CUnit) : Prop :=
  match c.kind with
  | .cpy _ _ _ => (∀ y ∈ us, Joined x y) ∧
    if x.bytes = none then ∀ y ∈ us, y.bytes = none else ∀ y ∈ us, y.bytes ≠ none ∧ MayWrite s u c us y
  | .gather _ =>
    if x.bytes = none then ∀ y ∈ us, y.bytes = none ∧ Joined x y
    else (∀ y ∈ us, y.bytes ≠ none ∧ y.lane = x.lane ∧ MayWrite s u c us y) ∧ ∀ y ∈ c.units, y.lane = x.lane → y.bytes ≠ none
  | .sort _ _ _ _ _ => c.readDone = true ∧ ∀ y ∈ us, y.bytes ≠ none ∧ MayWrite s u c us y
  | _ => False

/-- A transfer of command `c` on the units picked, which form one (R245): its strand's channel works and the command may act. -/
def Transfer (s : State) (sid : Nat) (c : Cmd) (pick : List Nat) (us : List CUnit) : Prop :=
  (s.strand sid).cmd c.ord = some c ∧ s.works sid = true ∧ EngineMay s sid c.ord c.o ∧ (s.strand sid).twin = none ∧
    us = c.units.filter (fun x => pick.contains x.unit) ∧ ∃ x r, us = x :: r ∧ MayTransfer s sid c us x

end Sys2Proof.Claim

/-- R243, R244, R72, R168, R241: CPY enters a command with one unit for each lane of its operating map, from the lane's source to its destination; its faults in order, ILLEGAL-OPERAND for a counter of another partition, MAP-DROP, NEAR-BOUNDS and MISALIGNED with the first such lane; it waits while its channel holds 64 commands. The place of MAP-DROP among them is the model's choice (log 6). -/
def Obligations.CpyEntersChannel : Prop :=
  ∀ k size o sc dst src y m ctr s, let i := Instr.cpy k size o sc dst src y m ctr
    let n := match size with
      | .b4 => 4
      | .b8 => 8
      | .b16 => 16
    let lanes := Claim.lanesOf i s.me
    let from_ (l : Nat) := Claim.cpyFrom s.me src y l
    let to_ (l : Nat) := Claim.cpyTo s.me dst l
    let q : Option Nat := match dst with
      | .queue q => some q.toNat
      | _ => none
    WellFormed true i = true → Issues i s →
    if ctr.any (fun c => !c.2 && !decide (Claim.OwnCounter s c.1.toNat)) then Claim.Does i 4 s (.fault .illegalOperand 0)
    else if s.me.disc = 2 ∧ Claim.dropped i s.me ≠ 0 then Claim.Does i 4 s (.fault .mapDrop (Claim.dropped i s.me))
    else match lanes.find? (fun l => Claim.outOfSpace s n (from_ l) || Claim.outOfSpace s n (to_ l)) with
      | some l => Claim.Does i 4 s (.fault .nearBounds l)
      | none => match lanes.find? (fun l => Claim.unaligned n (from_ l) || Claim.unaligned n (to_ l)) with
        | some l => Claim.Does i 4 s (.fault .misaligned l)
        | none => if 64 ≤ s.me.copy.cmds.length then exec i s = .next s
          else ∃ t, exec i s = .next t ∧
            Claim.Commands (if ctr.isSome then .classC else .engine) 4 (if ctr.isSome then 2 else 1) s t (s.me.countDrop (operOf i))
              (.cpy n q (ctr.map (fun c => (c.1.toNat, c.2)))) o sc (lanes.map (fun l => (l, l, (from_ l).loc s s.me, (to_ l).loc s s.me, n)))

/-- R249, R168, R243: CPGATHER enters a command of 16-byte chunks: chunk `c` of a row goes to chunk `c` xor (i mod 16) of its destination; a clipped row writes zeros; its faults in order, ILLEGAL-OPERAND, NEAR-BOUNDS and MISALIGNED with the first such lane, then MISALIGNED for its base or stride. That the lane is the lowest with either side at fault is the model's choice (log 51). -/
def Obligations.GatherEntersChannel : Prop :=
  ∀ k src o sc sp x y z str ro wl m ctr s, let i := Instr.cpgather k src o sc sp x y z str ro wl m ctr
    let w := wl.toNat + 1
    let lanes := Claim.lanesOf i s.me
    let row := Claim.gatherRow s.me src x y z str ro w
    Issues i s →
    if ctr.any (fun c => !decide (Claim.OwnCounter s c.toNat)) then Claim.Does i 4 s (.fault .illegalOperand 0)
    else match lanes.find? (fun l => decide (nearSize s s.me sp false < (row l).2.1 + 256 * w) || (!(row l).2.2.1 && Claim.outOfSpace s (256 * w) (row l).2.2.2)) with
      | some l => Claim.Does i 4 s (.fault .nearBounds l)
      | none => match lanes.find? (fun l => decide ((row l).2.1 % 16 ≠ 0) || (!(row l).2.2.1 && Claim.unaligned 16 (row l).2.2.2)) with
        | some l => Claim.Does i 4 s (.fault .misaligned l)
        | none => if (s.me.s x).toNat % 16 ≠ 0 ∨ (s.me.s str).toNat % 16 ≠ 0 then Claim.Does i 4 s (.fault .misaligned 0)
          else if 64 ≤ s.me.copy.cmds.length then exec i s = .next s
          else ∃ t, exec i s = .next t ∧
            Claim.Commands (if ctr.isSome then .classC else .engine) 4 (if ctr.isSome then 2 else 1) s t s.me (.gather (ctr.map (·.toNat))) o sc
              (lanes.flatMap (fun l => (List.range (16 * w)).map (fun c =>
                (256 * l + c, l, (if (row l).2.2.1 then none else (Claim.further (16 * c) (row l).2.2.2).loc s s.me),
                  some (.near (nearKey s s.me sp ((row l).2.1 + 16 * (c ^^^ ((row l).1 % 16))))), 16))))

/-- R250, R251, R315, R314, R168: SORT and TINV enter their commands; TINV is for privileged strands. SORT faults, in this order, with ILLEGAL-OPERAND for more than 65,536 pairs or ranges that overlap, NEAR-BOUNDS and MISALIGNED: that order is the model's choice (log 6). -/
def Obligations.SortAndTinvEnterChannel : Prop :=
  (∀ k o sc sp x y z tb km1 s, let i := Instr.sort k o sc sp x y z tb km1
    let n := (s.me.s z).toNat
    let kn := km1.toNat + 1
    let sd := (s.me.s x).toNat
    let ss := (s.me.s y).toNat
    let st := (s.me.s tb).toNat
    let size := nearSize s s.me sp false
    Issues i s →
    if 65536 < n ∨ (sd ≠ ss ∧ Claim.Share sd (4 * n) ss (4 * n)) ∨ Claim.Share st (8 * kn) sd (4 * n) ∨ Claim.Share st (8 * kn) ss (4 * n) then
      Claim.Does i 3 s (.fault .illegalOperand 0)
    else if (n ≠ 0 ∧ (size < ss + 4 * n ∨ size < sd + 4 * n)) ∨ size < st + 8 * kn then Claim.Does i 3 s (.fault .nearBounds 0)
    else if (n ≠ 0 ∧ (ss % 4 ≠ 0 ∨ sd % 4 ≠ 0)) ∨ st % 4 ≠ 0 then Claim.Does i 3 s (.fault .misaligned 0)
    else if 64 ≤ s.me.copy.cmds.length then exec i s = .next s
    else ∃ t, exec i s = .next t ∧
      Claim.Commands .engine 3 1 s t s.me (.sort (nearKey s s.me sp ss) (nearKey s s.me sp sd) (nearKey s s.me sp st) n kn) o sc
        ((List.range n).map (fun j => (j, 0, some (.near (nearKey s s.me sp (ss + 4 * j))), none, 4)))) ∧
  (∀ k x y z s, let i := Instr.tinv k x y z
    let sel := (s.me.s y).toNat
    let n := (s.me.s z).toNat
    Issues i s →
    if s.me.priv = false then Claim.Does i 2 s (.fault .privilege 0)
    else if 2 ^ 17 ≤ sel then Claim.Does i 2 s (.fault .illegalOperand 0)
    else if n ≠ 0 ∧ (s.me.base x).toNat % 2 ^ 16 ≠ 0 then Claim.Does i 2 s (.fault .misaligned 0)
    else if 64 ≤ s.me.copy.cmds.length then exec i s = .next s
    else ∃ t, exec i s = .next t ∧
        Claim.Commands .engine 2 0 s t s.me (.tinv (if 2 ^ 16 ≤ sel then none else some (BitVec.ofNat 16 sel)) (s.me.base x) n false []) .rlx .strand [])

namespace Sys2Proof.Claim

open Sys2Proof.Machine

/-- From `s` to `w` each slot of a load that is still its own has taken its 4,096 bytes and is LOADED; a slot taken over since is left alone (R228). -/
def SlotsFilled (s w : State) (core j n : Nat) (gens : List (BitVec 16)) (src : Nat → Byte) : Prop :=
  ∀ k, k < n →
    let x := (s.core core).slot (j + k)
    if x.st = .loading ∧ gens[k]? = some x.gen then
      (w.core core).slot (j + k) = { x with st := .loaded } ∧ ∀ b, b < 4096 → w.mem.read (codeKey core (j + k) b) = src (4096 * k + b)
    else (w.core core).slot (j + k) = x

end Sys2Proof.Claim

/-- R228, R229, R233, R168: OVLD takes its slots over at issue: they are LOADING with a new generation, every other slot of an overlay met is EMPTY with a new generation, and the rest are untouched; strands that waited at fetch for a slot that is no longer loading are taken up; a pinned slot among them refuses it, which its batch records; its faults in order. When an overlay's bytes have come, each slot that is still the load's own holds its 4,096 bytes and is LOADED; a slot taken over since is left alone. The bytes come 16 at a time, some of one 256-byte block in one event, from the vault window or from a far page that may be executed; while chunks are missing no slot changes, nor under a release while an earlier access is not performed (R191), for which the event comes again; an uncorrectable error ends the load and leaves its slots LOADING. That a refused OVLD takes no place in the channel (log 48), and which chunks one event reads (log 64), is the model's choice. -/
def Obligations.OverlayLoads : Prop :=
  (∀ k src o sc y z ss slot idi cnt s, let i := Instr.ovld k src o sc y z ss slot idi cnt
    let a := s.me
    let id := (a.s z).toNat + idi.toNat
    let j := (a.s ss).toNat + slot.toNat
    let n := cnt.toNat + 1
    let from_ : Nat := match src with
      | .far b => ((a.base b).toNat + (a.s y).toNat) % 2 ^ 80
      | .vault => (a.s y).toNat
    let c := s.core a.core
    let old (m : Nat) : Slot := c.slot m
    let held (m : Nat) : Prop := (old m).st ≠ .empty
    let own (m : Nat) : Prop := j ≤ m ∧ m < j + n
    let taken (m : Nat) : Prop := own m ∨ (held m ∧ ((old m).ovid.toNat = id ∨ ∃ m', own m' ∧ held m' ∧ (old m').ovid = (old m).ovid))
    Issues i s →
    if id = 0 ∨ 2 ^ 24 ≤ id ∨ j = 0 ∨ 64 < j + n then Claim.Does i 4 s (.fault .illegalOperand 0)
    else if from_ % 256 ≠ 0 then Claim.Does i 4 s (.fault .misaligned 0)
    else if src = .vault ∧ windowSize (s.part a.part) < from_ + 4096 * n then Claim.Does i 4 s (.fault .nearBounds 0)
    else if 64 ≤ a.copy.cmds.length then exec i s = .next s
    else
    ((∃ m, m < 64 ∧ taken m ∧ (old m).pin ≠ 0) → ∃ t b, exec i s = .next t ∧ Goes .engine 4 s (useTag (s.setMe b) a) t ∧
      { b with copy := a.copy } = a ∧ b.copy.cmds = a.copy.cmds ∧ Tbl.get 0 b.copy.st 64 = Tbl.get 0 a.copy.st 64 ||| 2) ∧
    ((∀ m, m < 64 → taken m → (old m).pin = 0) → ∃ t c', exec i s = .next t ∧
      (∀ m, m < 64 → own m → c'.slot m = { old m with ovid := BitVec.ofNat 24 id, idx := BitVec.ofNat 4 (m - j), cnt := BitVec.ofNat 4 (n - 1), st := .loading, gen := (old m).gen + 1 }) ∧
      (∀ m, m < 64 → ¬own m → taken m → c'.slot m = { old m with st := .empty, gen := (old m).gen + 1 }) ∧
      (∀ m, m < 64 → ¬taken m → c'.slot m = old m) ∧
      ∃ x : Cmd, Goes .engine 4 s (useTag ((wakeFetch (s.setCore a.core c') a.core).setMe { a with copy := { a.copy with cmds := a.copy.cmds ++ [x] } }) a) t ∧
        x.kind = .ovld j n ((List.range n).map (fun q => (old (j + q)).gen + 1)) ∧ x.o = o ∧ x.sc = sc ∧ x.ord = a.ord ∧ x.batch = none ∧
        x.units.map (fun u => (u.unit, u.src, u.dst, u.len)) = (List.range (256 * n)).map (fun q =>
          (q, some (match src with
            | .far _ => Loc.far (BitVec.ofNat 80 (from_ + 16 * q))
            | .vault => Loc.near (windowKey (s.part a.part) (from_ + 16 * q))), none, 16)))) ∧
  (∀ sid s c j n gens chunks poison y r page, let a := s.strand sid
    let us := c.units.filter (fun x => chunks.contains x.unit && x.dat.isNone)
    let left := c.units.map (fun x => if x ∈ us then { x with dat := some (Claim.unitReads s a page x) } else x)
    a.cmd c.ord = some c → c.kind = .ovld j n gens → us = y :: r → (∀ x ∈ us, Claim.Joined y x) → Claim.Readable s a us page → page.all (fun e => eX e.leaf) = true →
    c.units.length = 256 * n → (∀ x ∈ c.units, x.len = 16 ∧ ∀ d, x.dat = some d → d.length = 16) → s.works sid = true → Claim.EngineMay s sid c.ord c.o →
    a.twin = none → 1 ≤ j → j + n ≤ 64 → a.core < 256 →
    ∃ w, exec (.ovldComplete sid c.ord ⟨chunks, poison, none⟩) s = .next (wakeAll w) ∧ (∀ u, u ≠ sid → w.strand u = s.strand u) ∧
      (poison = true ∨ (∃ x ∈ left, x.dat = none) → w.mem = s.mem ∧ ∀ m, (w.core a.core).slot m = (s.core a.core).slot m) ∧
      (poison = true → (w.strand sid).cmd c.ord = none ∧ Claim.Marked a (w.strand sid) c [0]) ∧
      (poison = false → (∃ x ∈ left, x.dat = none) → (w.strand sid).cmd c.ord = some { c with units := left, started := true }) ∧
      (poison = false → (∀ x ∈ left, x.dat ≠ none) → (c.o = .rel ∨ c.o = .ar → Claim.ReleaseMay s sid c.ord) → (w.strand sid).cmd c.ord = none ∧
        Claim.SlotsFilled s w a.core j n gens (fun b => (((left[b / 16]?).bind (fun x => x.dat)).getD []).getD (b % 16) 0)) ∧
      (poison = false → (c.o = .rel ∨ c.o = .ar) → ¬Claim.ReleaseMay s sid c.ord → (w.strand sid).cmd c.ord = some { c with units := left, started := true } ∧
        w.mem = s.mem ∧ ∀ m, (w.core a.core).slot m = (s.core a.core).slot m)) ∧
  (∀ sid s c j n gens x, let a := s.strand sid
    a.cmd c.ord = some c → c.kind = .ovld j n gens → (∀ y ∈ c.units, x.chunks.contains y.unit = true → y.dat ≠ none) → s.works sid = true →
    c.units.length = 256 * n → (∀ y ∈ c.units, ∀ d, y.dat = some d → d.length = 16) → a.twin = none → 1 ≤ j → j + n ≤ 64 → a.core < 256 →
    ((∃ y ∈ c.units, y.dat = none) ∨ ((c.o = .rel ∨ c.o = .ar) ∧ ¬Claim.ReleaseMay s sid c.ord) → exec (.ovldComplete sid c.ord x) s = .next (wakeAll s)) ∧
    ((∀ y ∈ c.units, y.dat ≠ none) → (c.o = .rel ∨ c.o = .ar → Claim.ReleaseMay s sid c.ord) →
      ∃ w, exec (.ovldComplete sid c.ord x) s = .next (wakeAll w) ∧ (∀ u, u ≠ sid → w.strand u = s.strand u) ∧ (w.strand sid).cmd c.ord = none ∧
        Claim.SlotsFilled s w a.core j n gens (fun b => (((c.units[b / 16]?).bind (fun y => y.dat)).getD []).getD (b % 16) 0))) ∧
  (∀ core ovid s l, (s.core core).loads.find? (fun l => decide (l.ovid.toNat = ovid)) = some l → 1 ≤ l.slot → l.slot + l.n ≤ 64 → core < 256 →
    ∃ w, exec (.admissionLoadComplete core ovid) s = .next (wakeAll w) ∧ w.strands = s.strands ∧ (w.core core).loads = (s.core core).loads.filter (· ≠ l) ∧
      Claim.SlotsFilled s w core l.slot l.n l.gens (fun b => s.mem.read (windowKey (s.part l.part) (l.img + b))))

/-- R253, R252, R229: BCLOSE numbers the commands of its channel that are in no batch, skipping 0; the status they have met so far moves to the ring with them (the model's choice, log 73: R253 writes 0); it waits while the batch 64 numbers back is open. -/
def Obligations.BatchCloses : Prop :=
  ∀ k mx x s, let i := Instr.bclose k mx x
    let a := s.me
    let last := if mx then a.mx.mxbatch else a.copy.cpbatch
    let vdone := if mx then a.mx.vdone else a.copy.vdone
    let n : W32 := if last = 0xFFFFFFFF then 1 else last + 1
    Issues i s →
    if 2 ^ 31 ≤ (vdone - (n - 64)).toNat then exec i s = .next s
    else ∃ t b, exec i s = .next t ∧ Completes .plain 2 s t b ∧
      if mx then
        { b with mx := a.mx } = a.setS x (n.setWidth 64) ∧ b.mx.mxbatch = n ∧
        b.mx.cmds = a.mx.cmds.map (fun c => if c.batch = none then { c with batch := some n } else c) ∧
        Tbl.get 0 b.mx.st (n.toNat % 64) = Tbl.get 0 a.mx.st 64 ∧ Tbl.get 0 b.mx.st 64 = 0 ∧
        ∀ j, j < 64 → j ≠ n.toNat % 64 → Tbl.get 0 b.mx.st j = Tbl.get 0 a.mx.st j
      else
        { b with copy := a.copy } = a.setS x (n.setWidth 64) ∧ b.copy.cpbatch = n ∧
        b.copy.cmds = a.copy.cmds.map (fun c => if c.batch = none then { c with batch := some n } else c) ∧
        Tbl.get 0 b.copy.st (n.toNat % 64) = Tbl.get 0 a.copy.st 64 ∧ Tbl.get 0 b.copy.st 64 = 0 ∧
        ∀ j, j < 64 → j ≠ n.toNat % 64 → Tbl.get 0 b.copy.st j = Tbl.get 0 a.copy.st j

/-- R255: WAIT: ILLEGAL-OPERAND for a batch not closed, ENGINE-RESET under RST, a park until the batch is done, then its status, STALE beyond the ring, or with the trap bit the fault of a status in error; a WAIT.vis that is over acquires (R189, R258), and what has happened before it is the model's choice (log 82). -/
def Obligations.WaitReturnsStatus : Prop :=
  ∀ k vis mx trp x y s, let i := Instr.wait k vis mx trp x y
    let a := s.me
    let n : W32 := (a.s y).setWidth 32
    let last := if mx then a.mx.mxbatch else a.copy.cpbatch
    let done := if mx then (if vis then a.mx.vdone else a.mx.rdone) else (if vis then a.copy.vdone else a.copy.rdone)
    let before (p q : W32) : Prop := (q - p).toNat < 2 ^ 31
    let st : W64 := if 64 ≤ (last - n).toNat then 4 else Tbl.get 0 (if mx then a.mx.st else a.copy.st) (n.toNat % 64)
    let met := if vis then a.acquires s else a
    let w := s.setMe { met with batchstat := st }
    let c : Code := if mx then (if st.toNat / 256 % 256 = 6 then .engineReset else .gang) else .copyError
    Issues i s →
    if mx = true ∧ a.mx.rst = true then Claim.Does i 2 s (.fault .engineReset (n.toNat % 2 ^ 24))
    else if n = 0 ∨ ¬before n last then Claim.Does i 2 s (.fault .illegalOperand 0)
    else if ¬before n done then ∃ t, exec i s = .next t ∧ Parks .plain 2 (.wait vis mx trp x n a.pc) s s t
    else if trp = true ∧ st.toNat % 2 = 1 then
      match trapTarget s a c with
      | some dest => ∃ t, exec i s = .next t ∧ Raises w t c (n.toNat % 2 ^ 24) a.pc dest
      | none => exec i s = .next (w.kill s.cur (trapWord c (n.toNat % 2 ^ 24)) a.pc.bits)
    else ∃ t, exec i s = .next t ∧ Completes .plain 2 s t { met.setS x st with batchstat := st }

/-- R244 to R247, R249, R251, R256 to R258, R311: an event reads units of CPY or CPGATHER, or writes units that are read: a queue form keeps what it reads for its entry; what other forms read goes to near destinations in order, or to the pool; lanes whose data are poisoned are not written, and mark code 3, of CPGATHER the whole row; a row is written when all its chunks are read, a clipped one with zeros and counted in CLIP. SORT reads its pairs, then writes them in ascending order of their keys, equal keys in source order, and its table: the count of each key below K, then the sum of the counts before it; poisoned pairs leave it without a write (log 68). A command leaves its channel when nothing of it is left, its writes are performed at its scope and its counter may be decremented. Nothing is done before the stores and atomics before the command are performed. Which units one event reads or writes, and that a row or a SORT is read whole before it is written, is the model's choice (log 64). -/
def Obligations.CopyTransfersMoveBytes : Prop :=
  (∀ s u c us x, transferable s u c us x = true ↔ Claim.MayTransfer s u c us x) ∧
  (∀ sid pick poison s c us page, let a := s.strand sid
    let lost := (us.filter (fun x => poison.contains x.unit)).map (·.lane)
    let live := c.units.filter (fun x => !lost.contains x.lane)
    Claim.Transfer s sid c pick us → Claim.Readable s a us page → (∀ x ∈ us, x.bytes = none) →
    ((∃ r, c.kind = .gather r) ∨ (∃ n r, c.kind = .cpy n none r ∧ ∀ i, r ≠ some (i, true)) →
      let left := live.map (fun x => if x ∈ us then { x with dat := some (Claim.unitReads s a page x) } else x)
      ∃ w, exec (.copyTransfer sid c.ord pick poison none) s = .next (wakeAll w) ∧ w.mem = s.mem ∧ (∀ u, u ≠ sid → w.strand u = s.strand u) ∧
        (w.core a.core).sent = (s.core a.core).sent ∧ Claim.Marked a (w.strand sid) c lost ∧ Claim.Settled s w sid { c with units := left, started := true }) ∧
    ((∃ n q r, c.kind = .cpy n (some q) r) →
      let left : List CUnit := live.filter (fun x => !us.contains x)
      ∃ w, exec (.copyTransfer sid c.ord pick poison none) s = .next (wakeAll w) ∧ w.mem = s.mem ∧ (∀ u, u ≠ sid → w.strand u = s.strand u) ∧
        (w.core a.core).sent = (s.core a.core).sent ∧ Claim.Marked a (w.strand sid) c lost ∧ w.counters = s.counters ∧
        (w.strand sid).cmd c.ord = some { c with
          units := left, started := true, readDone := c.readDone || left.isEmpty
          arrived := (us.filter (fun x => !lost.contains x.lane)).foldl (fun v x => Tbl.ins x.lane (BitVec.ofNat 32 (Claim.little (Claim.unitReads s a page x))) v) c.arrived })) ∧
  (∀ sid pick poison s c us, let a := s.strand sid
    let rest := c.units.filter (fun x => !us.contains x)
    let clipped : Nat := match c.kind with
      | .gather _ => us.countP (fun x => decide (x.src = none ∧ x.unit % 256 = 0))
      | _ => 0
    Claim.Transfer s sid c pick us → (∀ x ∈ us, x.bytes ≠ none) → (∃ r, c.kind = .gather r) ∨ (∃ n r, c.kind = .cpy n none r ∧ ∀ i, r ≠ some (i, true)) →
    ((∀ x ∈ us, ∃ k, x.dst = some (.near k)) →
      ∃ w, exec (.copyTransfer sid c.ord pick poison none) s = .next (wakeAll w) ∧ w.mem = s.mem ∧ (∀ u, u ≠ sid → w.strand u = s.strand u) ∧
        (w.core a.core).sent = (s.core a.core).sent ++ Claim.engineWrites sid (s.core a.core).leaves c (us.filterMap (fun x => match x.dst, x.bytes with
          | some (.near k), some b => some (x.unit, k, b)
          | _, _ => none)) ∧
        (∀ p, Tbl.get 0 (w.strand sid).copy.st p = Tbl.get 0 (a.clip c.batch clipped).copy.st p) ∧ Claim.Settled s w sid { c with units := rest, started := true }) ∧
    (∀ e, Claim.Plain e → eW e.leaf = true → (∀ x ∈ us, (∃ b, x.dst = some (.far b)) ∧ Claim.pageOf s a x.dst = some e) →
      ∃ w, exec (.copyTransfer sid c.ord pick poison none) s = .next (wakeAll w) ∧ (∀ u, u ≠ sid → w.strand u = s.strand u) ∧
        (w.core a.core).sent = (s.core a.core).sent ∧ w.mem = us.foldl (fun m x => match x.dst, x.bytes with
          | some (.far b), some d => m.writeL (Claim.poolAt e b) d
          | _, _ => m) s.mem ∧
        (∀ p, Tbl.get 0 (w.strand sid).copy.st p = Tbl.get 0 (a.clip c.batch clipped).copy.st p) ∧
        Claim.Settled s w sid { c with units := rest, started := true, peers := c.peers ++ [none] })) ∧
  (∀ sid s c src dst tb n k ps, let a := s.strand sid
    a.cmd c.ord = some c → c.kind = .sort src dst tb n k → 1 ≤ k → s.works sid = true → Claim.EngineMay s sid c.ord c.o → a.twin = none →
    let left := c.units.map (fun x => if ps.contains x.unit = true ∧ x.dat = none then { x with dat := some (Claim.unitReads s a none x) } else x)
    let pairs : List W32 := left.map (fun x => BitVec.ofNat 32 (Claim.little (x.dat.getD [])))
    let key (p : W32) : Nat := p.toNat / 65536
    let cnt (j : Nat) : Nat := pairs.countP (fun p => decide (key p = j))
    let off (j : Nat) : Nat := ((List.range j).map cnt).sum
    (c.readDone = false → (∃ x ∈ left, x.dat = none) → ∃ w, exec (.sortComplete sid ⟨c.ord, false, ps⟩) s = .next (wakeAll w) ∧ w.mem = s.mem ∧ w.cores = s.cores ∧
      (w.strand sid).cmd c.ord = some { c with units := left, started := true }) ∧
    (c.readDone = false → (∀ x ∈ left, x.dat ≠ none) → ∃ w, ∃ out : List W32, ∃ us : List CUnit, exec (.sortComplete sid ⟨c.ord, false, ps⟩) s = .next (wakeAll w) ∧ out.Perm pairs ∧ out.Pairwise (fun p q => key p ≤ key q) ∧
      (∀ j, out.filter (fun p => decide (key p = j)) = pairs.filter (fun p => decide (key p = j))) ∧ w.mem = s.mem ∧ w.cores = s.cores ∧
      us.map (fun x => (x.unit, x.dst, x.dat)) = (out.zipIdx.map (fun e => (e.2, some (.near (dst + 4 * e.2)), some (toBytes 4 e.1.toNat)))) ++
        (((List.range k).map cnt ++ (List.range k).map off).zipIdx.map (fun e => (65536 + e.2, some (.near (tb + 4 * e.2)), some (toBytes 4 e.1)))) ∧
      ((w.strand sid).cmd c.ord = some { c with units := us, readDone := true, started := true })) ∧
    (c.readDone = false → ∃ w, exec (.sortComplete sid ⟨c.ord, true, ps⟩) s = .next (wakeAll w) ∧ w.mem = s.mem ∧ w.cores = s.cores ∧ (w.strand sid).cmd c.ord = none) ∧
    (c.readDone = true → let us := c.units.filter (writable s sid c (fun _ => true))
      (∀ x ∈ us, x.dat ≠ none ∧ ∃ k, x.dst = some (.near k)) →
      ∃ w, exec (.sortComplete sid ⟨c.ord, false, ps⟩) s = .next (wakeAll w) ∧ w.mem = s.mem ∧ (∀ u, u ≠ sid → w.strand u = s.strand u) ∧
        (w.core a.core).sent = (s.core a.core).sent ++ Claim.engineWrites sid (s.core a.core).leaves c (us.filterMap (fun x => match x.dst, x.dat with
          | some (.near k), some b => some (x.unit, k, b)
          | _, _ => none)) ∧
        Claim.Settled s w sid { c with units := c.units.filter (fun x => !us.contains x), started := true })) ∧
  (∀ sid pick poison peer s c, (s.strand sid).cmd c.ord = some c → ¬Claim.EngineMay s sid c.ord c.o →
    exec (.copyTransfer sid c.ord pick poison peer) s = .next s ∧ (∀ b ps, exec (.sortComplete sid ⟨c.ord, b, ps⟩) s = .next s) ∧
      ∀ x, (∃ y ∈ c.units, x.chunks.contains y.unit = true ∧ y.dat = none) → exec (.ovldComplete sid c.ord x) s = .next s)

/-- R308, R309, R312, R314, R315, R361: a TINV that starts, once every access before it is performed (log 44), drops from every copy TLB and die TLB the entries of its partition that meet its range, and no other; the walks under way it waits for, and what they find in its range is dropped; then it leaves its channel. A walk reads the entries that the address names, each at the table address the one before gave; its leaf enters the die TLB and the copy TLB of the asker's core; a page that is not there waits on the die's list until RETRY, and an absent-page record with its address, die and level reports it. -/
def Obligations.TranslationsKept : Prop :=
  (∀ sid s c asid b n old, let a := s.strand sid
    a.cmd c.ord = some c → c.kind = .tinv asid b n false old → s.works sid = true → Claim.Before s sid c.ord .system →
    (∀ e ∈ s.cores, e.2.sent = []) →
    let out (e : Tlb) : Bool := decide (e.part = a.part) && (asid.all (fun x => decide (e.asid = x))) && meetsRange e.vpn e.big b n
    ∃ t, exec (.tinvStart sid c.ord) s = .next t ∧ (∀ d, (t.core d).tlb = (s.core d).tlb.filter (fun e => !out e)) ∧
      (∀ d, (t.die d).tlb = (s.die d).tlb.filter (fun e => !out e)) ∧ (∀ u, u ≠ sid → t.strand u = s.strand u) ∧
      (∀ d, (t.die d).walks = (s.die d).walks.map (fun w => if w.part = a.part then { w with ranges := (b, n) :: w.ranges } else w)) ∧
      ∃ l, (t.strand sid).cmd c.ord = some { c with kind := .tinv asid b n true l } ∧ ∀ e ∈ s.dies, ∀ w ∈ e.2.walks, w.part = a.part → w.num ∈ l) ∧
  (∀ sid s c asid b n l, let a := s.strand sid
    a.cmd c.ord = some c → c.kind = .tinv asid b n true l → s.works sid = true →
    ((∀ e ∈ s.dies, ∀ w ∈ e.2.walks, w.num ∉ l) →
      ∃ w, exec (.tinvComplete sid c.ord) s = .next (wakeAll w) ∧ (w.strand sid).cmd c.ord = none ∧ (∀ k, w.mem.read k = s.mem.read k) ∧
        ∀ u, u ≠ sid → w.strand u = s.strand u) ∧
    (¬(∀ e ∈ s.dies, ∀ w ∈ e.2.walks, w.num ∉ l) → exec (.tinvComplete sid c.ord) s = .next s)) ∧
  (∀ m p asid vpn e0 e1 e2 e3 e4, let entry (base i : Nat) : BitVec 128 := BitVec.ofNat 128 (Claim.little (m.readN (base + 16 * i) 16))
    let next (e : BitVec 128) : Nat := (e.toNat / 2 ^ 64 % 2 ^ 48) * 2 ^ 16
    e0 = entry (p.rcd.rootdir.toNat * 2 ^ 16) asid.toNat → e1 = entry (next e0) (vpn.toNat / 2 ^ 48) → e2 = entry (next e1) (vpn.toNat / 2 ^ 32 % 2 ^ 16) →
    e3 = entry (next e2) (vpn.toNat / 2 ^ 16 % 2 ^ 16) → e4 = entry (next e3) (vpn.toNat % 2 ^ 16) →
    (∀ x ∈ [(4, e0), (0, e1), (1, e2), (2, e3), (3, e4)], eP x.2 = true ∧ malformed x.1 x.2 = false) →
    eLeaf e0 = false → eLeaf e1 = false → eLeaf e2 = false →
    walkPage m p asid vpn = if eLeaf e3 then .leaf e3 true else .leaf e4 false) ∧
  (∀ die idx v1 v2 s w e big, (s.die die).walks[idx]? = some w → walkPage s.mem (s.part w.part) w.asid w.vpn = .leaf e big →
    let page : W64 := if big then w.vpn &&& 0xFFFFFFFFFFFF0000 else w.vpn
    let x : Tlb := ⟨w.part, w.asid, page, big, e, 0⟩
    ((∃ r ∈ w.ranges, meetsRange page big r.1 r.2 = true) → ∃ t, exec (.walkComplete die idx false v1 v2) s = .next (wakeAll t) ∧
      (t.die die) = { s.die die with walks := (s.die die).walks.eraseIdx idx } ∧ t.mem = s.mem ∧ t.cores = s.cores ∧ t.strands = s.strands) ∧
    ((∀ r ∈ w.ranges, meetsRange page big r.1 r.2 = false) → (s.die die).tlb.length < 32768 → (s.die die).tlb.any (fun x => x.hits w.part w.asid page) = false →
      ∃ t, exec (.walkComplete die idx false v1 v2) s = .next t ∧ (t.die die).walks = (s.die die).walks.eraseIdx idx ∧
        (t.die die).tlb = (s.die die).tlb ++ [x] ∧ t.strands = s.strands ∧
        ∀ u ord, w.who = .copy u ord → (s.strand u).core / 128 = die → s.works u = true → (s.core (s.strand u).core).tlb.length < 1024 →
          (s.core (s.strand u).core).tlb.any (fun y => y.hits w.part w.asid page) = false →
          (t.core (s.strand u).core).tlb = (s.core (s.strand u).core).tlb ++ [x])) ∧
  (∀ die idx v1 v2 s w lv, (s.die die).walks[idx]? = some w → w.ranges = [] → walkPage s.mem (s.part w.part) w.asid w.vpn = .absent lv →
    (w.part, w.asid, w.vpn) ∉ (s.die die).waits → (s.die die).waits.length < 4096 →
    let record : BitVec 256 := BitVec.ofNat 256 (w.vpn.toNat * 2 ^ 64 + w.asid.toNat * 2 ^ 16 + die * 2 ^ 12 + lv * 2 ^ 8 + 1)
    ∃ t : State, exec (.walkComplete die idx false v1 v2) s = .next (t.report w.part false record) ∧ (t.die die).walks = (s.die die).walks.eraseIdx idx ∧
      (t.die die).waits = (s.die die).waits ++ [(w.part, w.asid, w.vpn)] ∧ t.strands = s.strands ∧ t.mem = s.mem ∧ t.parts = s.parts) ∧
  (∀ part vpn s, s.stage = 2 → ∃ t, exec (.retry part vpn) s = .next t ∧ t.strands = s.strands ∧ t.mem = s.mem ∧
    ∀ d, d < 2 → (t.die d).waits = (s.die d).waits.filter (fun w => decide (w.1 ≠ part) || vpn.any (fun v => decide (v ≠ w.2.2))))

/-- R240, R60, R78, R155, R322: the oldest entry reserved in a queue register becomes readable once its lanes are done, its command's counter may be decremented (R247), and the queue and the operand store have room, with the operands and the destination of an instruction that waits kept; the command of a strand that has ended completes without it; an evicted register comes back with its value, with room made for all that the instruction waits for; where no room is left the instruction goes on to issue, and R80 decides. -/
def Obligations.QueueAndRegisterArrive : Prop :=
  (∀ sid q s c b, let a := s.strand sid
    let keep : List Nat := match a.life with
      | .parked (.restore _ keep) => keep
      | _ => []
    a.copy.cmds.find? (fun c => decide (c.queue = some q)) = some c → c.readDone = true → s.works sid = true → a.life.live = true → a.twin = none →
    (Tbl.get [] a.q q).length < 8 → a.makeRoom keep [] (pegsOf c.arrived.length) (a.mapBytes c.arrived.map) = .ok b → (∀ i, c.counter ≠ some (i, true)) →
    (¬Claim.CounterMay s sid c → exec (.qEntryReady sid q) s = .next s) ∧ (Claim.CounterMay s sid c →
    ∃ w, exec (.qEntryReady sid q) s = .next (wakeAll w) ∧ Tbl.get [] (w.strand sid).q q = Tbl.get [] a.q q ++ [c.arrived] ∧
      (∀ r, r ≠ q → Tbl.get [] (w.strand sid).q r = Tbl.get [] a.q r) ∧ (w.strand sid).cmd c.ord = none ∧ (∀ r, r < 120 → (w.strand sid).vec r = a.vec r) ∧
      ∀ i, c.counter = some (i, false) → w.counter i = s.counter i - 1)) ∧
  (∀ sid q s c, let a := s.strand sid
    a.copy.cmds.find? (fun c => decide (c.queue = some q)) = some c → c.readDone = true → s.works sid = true → a.life.live = false → (∀ i, c.counter ≠ some (i, true)) → Claim.CounterMay s sid c →
    ∃ w, exec (.qEntryReady sid q) s = .next (wakeAll w) ∧ (w.strand sid).cmd c.ord = none ∧ (w.strand sid).q = a.q ∧
      ∀ i, c.counter = some (i, false) → w.counter i = s.counter i - 1) ∧
  (∀ sid reg s l keep b, let a := s.strand sid
    a.life = .parked (.restore l keep) → reg ∈ l → reg ∈ keep → reg ∈ a.evicted →
    let room := a.restoreRoom keep (l.filter (fun r => a.evicted.contains r))
    (room = .ok b → ∃ w, exec (.registerRestored sid reg) s = .next (wakeOne w sid) ∧ reg ∉ (w.strand sid).evicted ∧ (w.strand sid).v = a.v ∧ w.mem = s.mem ∧
      (∀ r ∈ l, r ∈ a.evicted → r ≠ reg → r ∈ (w.strand sid).evicted) ∧ ∀ u, u ≠ sid → w.strand u = s.strand u) ∧
    (room = .full → exec (.registerRestored sid reg) s = .next (s.makeReady sid)) ∧ (room = .wait → exec (.registerRestored sid reg) s = .next s))

namespace Sys2Proof.Claim

open Sys2Proof.Machine

/-! Banks and matrix commands (R197 to R219). -/

/-- A bank of a core that no live frame holds and no pending matrix command but MFREE names (R155, R201). -/
def FreeBank (s : State) (c b : Nat) : Prop :=
  b < 16 ∧ (∀ e ∈ s.frames, e.2.gone = false → (s.part e.2.part).st = .live → (e.2.heldOn c).getLsbD b = false) ∧
    ∀ e ∈ pendingOn s c, (∀ m, e.2.kind ≠ .mfree m) → e.2.bank ≠ b

/-- `n` free banks given to a strand: the lowest ones, held by its frame and full of zeros, their mask in a scalar (R200). -/
def Granted (s w : State) (u n : Nat) (x : SCode) : Prop :=
  let a := s.strand u
  let f := s.frame a.frame
  ∃ m : BitVec 16, popcount m = n ∧ (∀ b, m.getLsbD b = true → FreeBank s a.core b) ∧
    (∀ b b', FreeBank s a.core b → b < b' → m.getLsbD b' = true → m.getLsbD b = true) ∧
    w = { (s.setFrame a.frame (f.setHeld a.core (f.heldOn a.core ||| m))).setStrand u (a.setS x (m.setWidth 64)) with mem := w.mem } ∧
    ∀ k, w.mem.read k = if (List.range 16).any (fun b => m.getLsbD b && decide (accKey a.core b 0 ≤ k) && decide (k < accKey a.core b 0 + 16384)) then 0 else s.mem.read k

/-- Enough banks of a core are free. -/
def Enough (s : State) (c n : Nat) : Prop := ∃ l : List Nat, l.Nodup ∧ l.length = n ∧ ∀ b ∈ l, FreeBank s c b

/-- The strand's matrix channel with a command behind the others, as it is at its issue from `s` (R198). -/
def InChannel (s : State) (c : MCmd) (bank : Nat) (kind : MKind) (o : Ordn) (sc : Scope) : Prop :=
  c.ord = s.me.ord ∧ c.gord = s.gord ∧ c.tag = nextTag s s.me ∧ c.batch = none ∧ c.bank = bank ∧ c.kind = kind ∧ c.o = o ∧ c.sc = sc ∧ c.pc = s.me.pc.bits ∧
    c.cls = min s.me.prio (s.part s.me.part).rcd.tcmax

/-- `w` with a command entered by strand `b` (R198). -/
def enteredMx (w : State) (b : Strand) (c : MCmd) : State :=
  { w with gord := w.gord + 1 }.setMe { b with mx := { b.mx with cmds := b.mx.cmds ++ [c] } }

/-- The bank number that a matrix command names: KB + S[Sk] (R202). -/
def bankNo (s : State) (y : SCode) (kb : BitVec 4) : Nat := (s.me.s y).toNat + kb.toNat

/-- That bank exists and the frame of the strand holds it (R202). -/
abbrev HoldsBank (s : State) (y : SCode) (kb : BitVec 4) : Prop :=
  bankNo s y kb < 16 ∧ ((s.frame s.me.frame).heldOn s.me.core).getLsbD (bankNo s y kb) = true

/-- The B descriptor of an MMA (R206, R211). -/
def descriptor (t : Strand) (ty : Ty) (maj : Bool) (sp : Space) (x spl sm : SCode) : BDesc :=
  { sp := sp, sb := t.s x, spl := t.s spl, sm := t.s sm, ty := ty, maj := maj, fmt := fFMT t.f, pl := fPL t.f, spn := fSPN t.f }

/-- The rows of A of an MMA: each lane of the row map with its scratchpad address (R206). -/
def aRows (t : Strand) (i : Instr) (y : SCode) (z : VCode) (rs : BitVec 12) : List (Nat × Nat) :=
  (lanesOf i t).map (fun l => (l, (t.s y).toNat + ((t.vec z.toNat).lane l).toNat * 16 * rs.toNat))

/-- Checks 1 to 4 of R208: the bank, the format, the bounds of A, then of B, their alignment. -/
def mmaFault (s : State) (sk : SCode) (kb : BitVec 4) (d : BDesc) (rows : List (Nat × Nat)) : Option (Code × Nat) :=
  let len := if d.fmt = 2 then 128 else 256
  if ¬HoldsBank s sk kb then some (.accRange, 0)
  else if (d.ty = .bpn ∧ d.fmt = 2) ∨ (d.ty ≠ .bpn ∧ d.fmt ≠ 2) ∨ (d.fmt = 2 ∧ d.spn ≠ 0) then some (.format, 0)
  else match rows.find? (fun r => decide (nearSize s s.me .spad false < r.2 + len)) with
    | some r => some (.nearBounds, r.1)
    | none =>
      if (bRanges d).any (fun e => decide (nearSize s s.me d.sp (decide (d.sp = .vault)) < e.1 + e.2)) then some (.nearBounds, 0)
      else match rows.find? (fun r => decide (r.2 % 16 ≠ 0)) with
        | some r => some (.misaligned, r.1)
        | none => if d.sb.toNat % 128 ≠ 0 ∨ (d.ty = .bpn ∧ d.spl.toNat % 128 ≠ 0) ∨ (d.spn ≠ 0 ∧ d.sm.toNat % 128 ≠ 0) then some (.misaligned, 0) else none

/-- The latch after the arrival of an MMA with descriptor `d` (R212). -/
def arrived (s : State) (d : BDesc) : Latch :=
  let l := (s.frame s.me.frame).latchOn s.me.core
  let me : BitVec 16 := BitVec.ofNat 16 (2 ^ s.me.sidx)
  if l.isOpen then { l with arr := l.arr ||| me } else ⟨true, s.gord, s.me.g, me, d⟩

/-- A gang's rules turn the arrival away: G is zero, or the open latch has another mask or another B descriptor (R211, R212). -/
abbrev GangFault (s : State) (d : BDesc) : Prop :=
  let l := (s.frame s.me.frame).latchOn s.me.core
  s.me.g = 0 ∨ (l.isOpen = true ∧ (l.gm ≠ s.me.g ∨ l.bd ≠ d))

/-- The pieces of 16 bytes of near ranges, none of them read (R206, R216). -/
def pieces (s : State) (a : Strand) (sp : Space) (l : List (Nat × Nat)) : Pieces :=
  l.flatMap (fun e => (List.range (e.2 / 16)).map (fun i => (nearKey s a sp (e.1 + 16 * i), none)))

/-- Pieces with those named now read, as the core of a strand sees their bytes; what was read before stays. -/
def readNow (s : State) (a : Strand) (pick : List Nat) (l : Pieces) : Pieces :=
  l.zipIdx.map (fun e => if pick.contains e.2 = true ∧ e.1.2 = none then (e.1.1, some ((List.range 16).map (fun i => coreByte s a.core (e.1.1 + i)))) else e.1)

/-- Every piece is read. -/
def AllRead (l : Pieces) : Prop := ∀ e ∈ l, e.2 ≠ none

/-- The bytes of pieces that are read. -/
def bytesOf (l : Pieces) : List Byte := l.flatMap (fun e => e.2.getD [])

/-- A command that waits for gang `gid` no more. -/
def closed (gid : Nat) (c : MCmd) : MCmd :=
  match c.kind with
  | .mma rows d g held a b => { c with kind := .mma rows d g (held || decide (g = some gid)) a b }
  | _ => c

/-- The head of a strand's matrix channel has its turn: its partition is LIVE, no command of the core issued before it names one of its banks (R203), and the accesses before it that it waits for are performed (R191, R204). -/
def MxTurn (s : State) (u : Nat) (c : MCmd) : Prop :=
  (s.strand u).mx.cmds.head? = some c ∧ s.works u = true ∧ (∀ e ∈ pendingOn s (s.strand u).core, e.2.gord < c.gord → e.2.banks &&& c.banks = 0) ∧
    ((∀ m, c.kind ≠ .mfree m) → (∀ r ty f, c.kind ≠ .mrd r ty f) → EngineMay s u c.ord c.o)

/-- The value of stored element `e` of a bit-plane tile whose `k` planes of `size` bytes lie one after another: plane 0 is the sign, each next one half as much, and half a unit of the last plane is added when planes are missing (R133, R134). -/
def planeSum (k size : Nat) (b : List Byte) (e : Nat) : Int :=
  let bit (p : Nat) : Int := if (b.getD (size * p + e / 8) 0).getLsbD (e % 8) then 1 else 0
  ((List.range k).map (fun p => if p = 0 then -128 * bit 0 else 2 ^ (7 - p) * bit p)).sum + (if k < 8 then 2 ^ (7 - k) else 0)

/-- Element (kk, n) of a tile that keeps `m` elements of each group of 8, its metadata behind its planes: the last kept element of its group at its place, or 0 (R135, R136). -/
def sparseSum (k m : Nat) (b : List Byte) (kk n : Nat) : Int :=
  let bit (j : Nat) : Nat := if (b.getD (256 * m * k + j / 8) 0).getLsbD (j % 8) then 1 else 0
  let place (j : Nat) : Nat := bit (3 * j) + 2 * bit (3 * j + 1) + 4 * bit (3 * j + 2)
  match (List.range m).reverse.find? (fun i => decide (place (m * (32 * n + kk / 8) + i) = kk % 8)) with
  | some i => planeSum k (256 * m) b (m * (32 * n + kk / 8) + i)
  | none => 0

/-- The pattern of 16 bits at element `e` of a row or tile. -/
def half (b : List Byte) (e : Nat) : Nat := little [b.getD (2 * e) 0, b.getD (2 * e + 1) 0]

/-- The element of a B tile of BF16 values (R207). -/
def tileAt (maj : Bool) (kk n : Nat) : Nat := if maj then 64 * kk + n else 64 * n + kk

end Sys2Proof.Claim

/-- R200, R201, R155: MALLOC takes the lowest free banks of its core, zeroed, or waits in the order of requests; ACC-RANGE for a count of 0 or one that would pass 16; MFREE gives banks back at once and follows them in its channel. -/
def Obligations.BanksGrantedAndFreed : Prop :=
  (∀ k x y n s, let i := Instr.malloc k x y n
    let a := s.me
    let c := s.core a.core
    let need := (a.s y).toNat + n.toNat
    Issues i s →
    if need = 0 ∨ 16 < need ∨ 16 < popcount ((s.frame a.frame).heldOn a.core) + need then Claim.Does i 2 s (.fault .accRange 0)
    else (c.reqs = [] → Claim.Enough s a.core need → ∃ t w, exec i s = .next t ∧ Claim.Granted s w s.cur need x ∧ Goes .plain 2 s w t) ∧
      (c.reqs ≠ [] ∨ ¬Claim.Enough s a.core need →
        ∃ t, exec i s = .next t ∧ Parks .plain 2 .malloc s (s.setCore a.core { c with reqs := c.reqs ++ [⟨s.cur, need, x⟩] }) t)) ∧
  (∀ core s r rest, (s.core core).reqs = r :: rest →
    ((s.strand r.sid).core = core → Claim.Enough s core r.n → ∃ w, exec (.mallocGrant core) s = .next (w.makeReady r.sid) ∧
      Claim.Granted (s.setCore core { s.core core with reqs := rest }) w r.sid r.n r.x) ∧
    (¬Claim.Enough s core r.n → exec (.mallocGrant core) s = .next s)) ∧
  (∀ k y s, let i := Instr.mfree k y
    let a := s.me
    let f := s.frame a.frame
    let m : BitVec 16 := (a.s y).setWidth 16
    let held := f.heldOn a.core
    Issues i s →
    if m &&& ~~~held ≠ 0 then Claim.Does i 2 s (.fault .accRange 0)
    else if m = 0 then ∃ t, exec i s = .next t ∧ Completes .plain 2 s t a
    else a.mxHeld < 16 → ∃ t c, exec i s = .next t ∧ Claim.InChannel s c 0 (.mfree m) .rlx .strand ∧
      Goes .plain 2 s (useTag (Claim.enteredMx (s.setFrame a.frame (f.setHeld a.core (held &&& ~~~m))) a c) a) t)

/-- R202, R204, R206, R208, R211, R212, R214, R215, R216, R219, R198: MMA, MZERO, MRD and MST raise ACC-RANGE for a bank that does not exist or that their frame does not hold; then MMA FORMAT, NEAR-BOUNDS and MISALIGNED, and GANG at a latch with another mask or B descriptor, MRD ACC-RANGE for a row that does not exist and ENGINE-RESET under RST, MST ENGINE-RESET, SCALE-LAYOUT, NEAR-BOUNDS and MISALIGNED. With none of these they wait while their channel holds 16 commands, and else enter it with what they fix at issue; the last arrival of a gang closes it. -/
def Obligations.MatrixCommandsEnter : Prop :=
  (∀ k ty maj gng o sc sp x y z m kb sk spl sm rs s, let i := Instr.mma k ty maj gng o sc sp x y z m kb sk spl sm rs
    let a := s.me
    let d := Claim.descriptor a ty maj sp x spl sm
    let rows := Claim.aRows a i y z rs
    let keys := rows.map (fun r => (r.1, nearKey s a .spad r.2))
    let b := Claim.bankNo s sk kb
    let pa := Claim.pieces s a .spad (rows.map (fun r => (r.2, if d.fmt = 2 then 128 else 256)))
    let pb := Claim.pieces s a sp (bRanges d)
    Issues i s →
    (∀ c e, Claim.mmaFault s sk kb d rows = some (c, e) → Claim.Does i 4 s (.fault c e)) ∧
    (Claim.mmaFault s sk kb d rows = none → gng = true → Claim.GangFault s d → Claim.Does i 4 s (.fault .gang 0)) ∧
    (Claim.mmaFault s sk kb d rows = none → (gng = true → ¬Claim.GangFault s d) → 16 ≤ a.mxHeld → exec i s = .next s) ∧
    (Claim.mmaFault s sk kb d rows = none → gng = false → a.mxHeld < 16 →
      ∃ t c, exec i s = .next t ∧ Claim.InChannel s c b (.mma keys d none true pa pb) o sc ∧ Goes .plain 4 s (useTag (Claim.enteredMx s a c) a) t) ∧
    (Claim.mmaFault s sk kb d rows = none → gng = true → ¬Claim.GangFault s d → a.mxHeld < 16 →
      let f := s.frame a.frame
      let l := Claim.arrived s d
      ∃ t c, exec i s = .next t ∧ Claim.InChannel s c b (.mma keys d (some l.gid) false pa pb) o sc ∧
        let w := useTag (Claim.enteredMx (s.setFrame a.frame { f with latch := Tbl.set Latch.reset f.latch a.core l }) a c) a
        if l.arr ≠ l.gm then Goes .plain 4 s w t
        else ∃ w', Goes .plain 4 s w' t ∧ (w'.frame a.frame).latchOn a.core = { l with isOpen := false, arr := 0 } ∧ w'.mem = s.mem ∧
          (∀ u, (w'.strand u).mx.cmds =
            if (s.strand u).frame = a.frame ∧ (s.strand u).core = a.core then (w.strand u).mx.cmds.map (Claim.closed l.gid) else (w.strand u).mx.cmds) ∧
          ∀ u ∈ f.strands, (s.strand u).core = a.core → (w'.strand u).life ≠ .parked .gang)) ∧
  (∀ k y kb s, let i := Instr.mzero k y kb
    Issues i s →
    (¬Claim.HoldsBank s y kb → Claim.Does i 2 s (.fault .accRange 0)) ∧
    (Claim.HoldsBank s y kb → 16 ≤ s.me.mxHeld → exec i s = .next s) ∧
    (Claim.HoldsBank s y kb → s.me.mxHeld < 16 →
      ∃ t c, exec i s = .next t ∧ Claim.InChannel s c (Claim.bankNo s y kb) .mzero .rlx .strand ∧ Goes .plain 2 s (useTag (Claim.enteredMx s s.me c) s.me) t)) ∧
  (∀ k ty x y z kb r m s, let i := Instr.mrd k ty x y z kb r m
    let row := (s.me.s z).toNat + r.toNat
    Issues i s →
    (¬Claim.HoldsBank s y kb ∨ 64 ≤ row → Claim.Does i 2 s (.fault .accRange 0)) ∧
    (Claim.HoldsBank s y kb → row < 64 → s.me.mx.rst = true → Claim.Does i 2 s (.fault .engineReset 0)) ∧
    (Claim.HoldsBank s y kb → row < 64 → s.me.mx.rst = false → s.me.roomFor (operOf i) x false (s.me.operMap (operOf i)) = .full → Claim.Does i 2 s (.fault .pegExhausted 0)) ∧
    (Claim.HoldsBank s y kb → row < 64 → s.me.mx.rst = false → Claim.Fits i x false s → 32 ≤ s.me.rets.length ∨ 16 ≤ s.me.mxHeld → exec i s = .next s) ∧
    (Claim.HoldsBank s y kb → row < 64 → s.me.mx.rst = false → Claim.Fits i x false s → s.me.rets.length < 32 → s.me.mxHeld < 16 →
      ∃ t c v, exec i s = .next t ∧ Claim.InChannel s c (Claim.bankNo s y kb) (.mrd row ty s.me.f) .rlx .strand ∧ Goes .plain 2 s (Claim.enteredMx s v c) t ∧
        Claim.Placed s.me v x false (s.me.operMap (operOf i)) (fun _ => 0) ∧
        Claim.Awaits s.me v .mrd ty x.toNat [] false ((Claim.lanesOf i s.me).map (fun l => (l, 0))) ∧
        Claim.withVectors { v with rets := s.me.rets } s.me = s.me)) ∧
  (∀ k ty o sc sp x y z sa kb rs s, let i := Instr.mst k ty o sc sp x y z sa kb rs
    let base := (s.me.s x).toNat
    let tile (r : SCode) : Prop := (s.me.s r).toNat % 128 = 0 ∧ (s.me.s r).toNat + 128 ≤ nearSize s s.me .spad false
    let scales : Prop := (1 ≤ fSCL s.me.f → tile z) ∧ (fSCL s.me.f = 2 → tile sa)
    let inside : Prop := base + 63 * rs.toNat + 64 * ty.bytes ≤ nearSize s s.me sp false
    let even : Prop := base % 16 = 0 ∧ rs.toNat % 16 = 0
    Issues i s →
    (¬Claim.HoldsBank s y kb → Claim.Does i 3 s (.fault .accRange 0)) ∧
    (Claim.HoldsBank s y kb → s.me.mx.rst = true → Claim.Does i 3 s (.fault .engineReset 0)) ∧
    (Claim.HoldsBank s y kb → s.me.mx.rst = false → ¬scales → Claim.Does i 3 s (.fault .scaleLayout 0)) ∧
    (Claim.HoldsBank s y kb → s.me.mx.rst = false → scales → ¬inside → Claim.Does i 3 s (.fault .nearBounds 0)) ∧
    (Claim.HoldsBank s y kb → s.me.mx.rst = false → scales → inside → ¬even → Claim.Does i 3 s (.fault .misaligned 0)) ∧
    (Claim.HoldsBank s y kb → s.me.mx.rst = false → scales → inside → even → 16 ≤ s.me.mxHeld → exec i s = .next s) ∧
    (Claim.HoldsBank s y kb → s.me.mx.rst = false → scales → inside → even → s.me.mxHeld < 16 →
      ∃ t c, exec i s = .next t ∧ Claim.InChannel s c (Claim.bankNo s y kb) (.mst sp base rs.toNat ty s.me.f (s.me.s z).toNat (s.me.s sa).toNat
          (Claim.pieces s s.me .spad (if 1 ≤ fSCL s.me.f then [((s.me.s z).toNat, 128)] else []))
          (Claim.pieces s s.me .spad (if 2 ≤ fSCL s.me.f then [((s.me.s sa).toNat, 128)] else [])) 0) o sc ∧
        Goes .engine 3 s (useTag (Claim.enteredMx s s.me c) s.me) t))

/-- R203, R204, R207, R209, R212, R214 to R217, R257: the head command of a matrix channel acts when its turn in the bank order has come: MZERO clears its bank, MRD gives its row; MMA first reads its rows of A and its B, 16 bytes at a time, a gang's B once for all its members when each is at the head of its channel, and then writes every element of its rows, of dense, sparse and BF16 tiles alike, as a release once every access before it is performed (R191); MST first reads its scale tiles, then sends elements in ascending order, the last one of a release alone once the others are performed and all that the release covers, and leaves its channel once they are performed at its scope. Which pieces one event reads, and that a commit follows the last of them, is the model's choice (log 64). -/
def Obligations.MatrixCommits : Prop :=
  (∀ s sid c, mxHead s sid = some c ↔ Claim.MxTurn s sid c) ∧
  (∀ sid s c pa pb, Claim.MxTurn s sid c →
    let a := s.strand sid
    let gone (w : State) : Prop := (w.strand sid).mx.cmds = a.mx.cmds.filter (fun x => decide (x.ord ≠ c.ord))
    let now (w : State) (u ord : Nat) (f : MKind → MKind) : Prop :=
      (w.strand u).mx.cmds = (s.strand u).mx.cmds.map (fun x => if x.ord = ord then { x with kind := f x.kind } else x)
    let per (d : BDesc) : Nat := if d.fmt = 2 then 8 else 16
    let free : Prop := c.o = .rel ∨ c.o = .ar → Claim.ReleaseMay s sid c.ord
    let run := exec (.matrixCommit ⟨sid, pa, pb⟩) s
    match c.kind with
    | .mzero => (¬free → run = .next s) ∧ (free → ∃ w, run = .next (wakeAll w) ∧ gone w ∧
        ∀ k, w.mem.read k = if accKey a.core c.bank 0 ≤ k ∧ k < accKey a.core c.bank 0 + 16384 then 0 else s.mem.read k)
    | .mfree _ => ∃ w, run = .next (wakeAll w) ∧ gone w ∧ w.mem = s.mem
    | .mma rows d gang cl x y =>
      (cl = false → run = .next s) ∧
      (cl = true → Claim.AllRead x → Claim.AllRead y → ¬free → run = .next s) ∧
      (cl = true → Claim.AllRead x → Claim.AllRead y → free → ∃ w, run = .next (wakeAll w) ∧ gone w ∧ w.mem = (rows.zipIdx.map (fun r =>
        (r.1.1, (List.range 64).flatMap (fun n => toBytes 4 (mmaElem d (Claim.bytesOf ((x.drop (per d * r.2)).take (per d))).toArray (Claim.bytesOf y).toArray n
          (BitVec.ofNat 32 (Claim.little (s.mem.readN (accKey a.core c.bank (256 * r.1.1 + 4 * n)) 4)))).toNat)))).foldl
          (fun m r => m.writeL (accKey a.core c.bank (256 * r.1)) r.2) s.mem) ∧
      (cl = true → ¬(Claim.AllRead x ∧ Claim.AllRead y) → ∃ w, run = .next (wakeAll w) ∧ w.mem = s.mem ∧
        match gang with
        | none => now w sid c.ord (fun k => (k.withA (Claim.readNow s a pa x)).withB (Claim.readNow s a pb y))
        | some gid =>
          ((∃ e ∈ gangMembers s a.core gid, e.2.2 = false) → now w sid c.ord (MKind.withA (Claim.readNow s a pa x)) ∧ ∀ u, u ≠ sid → w.strand u = s.strand u) ∧
          ((∀ e ∈ gangMembers s a.core gid, e.2.2 = true) →
            ∀ u z r d' g cl ra b, (s.strand u).mx.cmds.head? = some z → z.kind = .mma r d' g cl ra b → (∃ e ∈ gangMembers s a.core gid, e.1 = u ∧ e.2.1 = z.ord) →
              (w.strand u).mx.cmds.head? = some { z with kind := .mma r d' g cl (if u = sid then Claim.readNow s a pa ra else ra) (Claim.readNow s a pb y) }))
    | _ => True) ∧
  (∀ d a b n acc, d.fmt < 2 → d.spn = 0 → d.pl < 8 →
    mmaElem d a b n acc = acc + BitVec.ofInt 32 ((List.range 256).map (fun kk =>
      (if d.fmt = 0 then (a.getD kk 0).toInt else ((a.getD kk 0).toNat : Int)) * Claim.planeSum (8 - d.pl) 2048 b.toList (if d.maj then 64 * kk + n else 256 * n + kk))).sum) ∧
  (∀ d a b n acc, d.fmt < 2 → (d.spn = 1 ∨ d.spn = 2) → d.pl < 8 →
    mmaElem d a b n acc = acc + BitVec.ofInt 32 ((List.range 256).map (fun kk =>
      (if d.fmt = 0 then (a.getD kk 0).toInt else ((a.getD kk 0).toNat : Int)) * Claim.sparseSum (8 - d.pl) (if d.spn = 1 then 2 else 4) b.toList kk n)).sum) ∧
  (∀ d a b n acc, d.fmt = 2 →
    let x (kk : Nat) : Nat := Claim.half a.toList kk
    let y (kk : Nat) : Nat := Claim.half b.toList (Claim.tileAt d.maj kk n)
    ((∃ kk, kk < 64 ∧ (Claim.Nan fmtBF16 (x kk) ∨ Claim.Nan fmtBF16 (y kk))) → mmaElem d a b n acc = 0x7FC00000) ∧
    ((∀ kk, kk < 64 → Claim.Finite fmtBF16 (x kk) ∧ Claim.Finite fmtBF16 (y kk)) → ∃ sums : Nat → Nat,
      (∀ g, g < 4 → let v := ((List.range 16).map (fun i => Claim.realOf fmtBF16 (x (16 * g + i)) * Claim.realOf fmtBF16 (y (16 * g + i)))).sum
        (v ≠ 0 → Claim.Rounds fmtF32 0 v (sums g)) ∧ (v = 0 → Claim.magOf fmtF32 (sums g) = 0)) ∧
      mmaElem d a b n acc = BitVec.ofNat 32 ((List.range 4).foldl (fun c g => fmtF32.arith 0 false .add c (sums g)) acc.toNat))) ∧
  (∀ sid s c row ty f, Claim.MxTurn s sid c → c.kind = .mrd row ty f →
    let a := s.strand sid
    let value (l : Nat) : W64 := convert (if fFMT f = 2 then .f32 else .s32) ty (fRM f) (fFZ f)
      (BitVec.ofNat 64 (Claim.little (s.mem.readN (accKey a.core c.bank (256 * row + 4 * l)) 4)))
    ∃ w, exec (.mrdExecute sid) s = .next (wakeAll w) ∧ w.mem = s.mem ∧ (∀ u, u ≠ sid → w.strand u = s.strand u) ∧
      (w.strand sid).mx.cmds = a.mx.cmds.filter (fun x => decide (x.ord ≠ c.ord)) ∧
      (w.strand sid).rets = a.rets.map (fun r => if r.ord = c.ord then { r with units := r.units.map (fun x => { x with val := some (value x.lane) }) } else r)) ∧
  (∀ sid s c sp base rs ty f wa aa tw ta done pw pa n, Claim.MxTurn s sid c → c.kind = .mst sp base rs ty f wa aa tw ta done → (s.strand sid).twin = none →
    let a := s.strand sid
    let now (w : State) (f : MKind → MKind) : Prop := (w.strand sid).mx.cmds = a.mx.cmds.map (fun x => if x.ord = c.ord then { x with kind := f x.kind } else x)
    (¬(Claim.AllRead tw ∧ Claim.AllRead ta) → ∃ w, exec (.mstWrite ⟨sid, pw, pa, n⟩) s = .next (wakeAll w) ∧ w.mem = s.mem ∧ w.cores = s.cores ∧ (∀ u, u ≠ sid → w.strand u = s.strand u) ∧
      now w (MKind.withScales (Claim.readNow s a pw tw) (Claim.readNow s a pa ta))) ∧
    (Claim.AllRead tw ∧ Claim.AllRead ta →
      let value (i n : Nat) : FVal :=
        let x := accValue (fFMT f) (BitVec.ofNat 32 (Claim.little (s.mem.readN (accKey a.core c.bank (256 * i + 4 * n)) 4)))
        let x := if 1 ≤ fSCL f then fvMul x (scaleEntry (Claim.bytesOf tw).toArray n) else x
        if fSCL f = 2 then fvMul x (scaleEntry (Claim.bytesOf ta).toArray i) else x
      let last : Prop := done = 4095 ∧ engineDone s sid c.ord c.sc = true ∧ Claim.ReleaseMay s sid c.ord
      ∃ stop w, (c.o ≠ .rel ∧ c.o ≠ .ar ∨ last → stop = 4096) ∧ ((c.o = .rel ∨ c.o = .ar) → ¬last → stop = 4095) ∧
        let upto := max done (min (done + n) stop)
        exec (.mstWrite ⟨sid, pw, pa, n⟩) s = .next (wakeAll w) ∧ w.mem = s.mem ∧ (∀ u, u ≠ sid → w.strand u = s.strand u) ∧
        (w.core a.core).sent = (s.core a.core).sent ++ (List.range' done (upto - done)).zipIdx.map (fun e =>
          { sid := sid, entry := { engineEntry c.ord c.tag c.sc c.pc c.cls with ikind := 22 }, snap := false, num := (s.core a.core).leaves + e.2, engine := true,
            u := ⟨e.1, nearKey s a sp (base + e.1 / 64 * rs + ty.bytes * (e.1 % 64)),
              .write (toBytes ty.bytes (storeConv ty (fRM f) (fFZ f) (value (e.1 / 64) (e.1 % 64))).toNat), 0, 0⟩ }) ∧
        if upto = 4096 ∧ engineDone w sid c.ord c.sc = true then (w.strand sid).mx.cmds = a.mx.cmds.filter (fun x => decide (x.ord ≠ c.ord))
          else now w (MKind.withDone upto)))

/-- R219, R345, R371: the reset of a matrix engine, by system software or for a command that hangs: every bank of its core is zero, the engine is under self-test, the commands of its strands are gone, RST is set in the live strands of the frames that hold banks there, ENGRESET of the core's partition counts it. That a hang is found whenever a command is pending, its 2^24 cycles uncounted, is the model's choice (log 49). -/
def Obligations.EngineResetClears : Prop :=
  (∀ core s, pendingOn s core ≠ [] → exec (.engineHang core) s = .next (resetEngine s core)) ∧
  (∀ fn core s, manages s fn = true → core < 256 → exec (.engineReset fn core) s = .next (accept (resetEngine s core) fn 0)) ∧
  ∀ core s, ∃ w, resetEngine s core = wakeAll w ∧
    (∀ k, w.mem.read k = if accKey core 0 0 ≤ k ∧ k < accKey core 0 0 + 262144 then 0 else s.mem.read k) ∧ HwUnit.engine core ∈ w.testing ∧
    (∀ u a, s.strand u = a → a.core = core → a.life.onCore = true → (s.part a.part).st = .live →
      (w.strand u).mx.cmds = [] ∧ (∀ r ∈ (w.strand u).rets, r.kind ≠ .mrd)) ∧
    (∀ u a, s.strand u = a → a.life.live = true → (s.frame a.frame).heldOn core ≠ 0 → (s.part a.part).st = .live → (w.strand u).mx.rst = true) ∧
    (∀ f, (s.frame f).gone = false → (s.part (s.frame f).part).st = .live → (w.frame f).latchOn core = Latch.reset) ∧
    ∀ p, s.parts.find? (fun e => decide (e.2.st ≠ .free) && (coresOf e.2.rcd.clm).contains core) = some p →
      (w.part p.1).errs = { (s.part p.1).errs with engreset := satAdd (s.part p.1).errs.engreset 1 }

namespace Sys2Proof.Claim

open Sys2Proof.Machine

/-! The task scheduler (R262 to R278). -/

/-- An instruction that enters one entry without units at the end of the store queue, or holds its strand while the queue is full (R183, R239). -/
def Enters (c : ICls) (n : Nat) (i : Instr) (s : State) (kind : SKind) (o : Ordn) (sc : Scope) : Prop :=
  (¬QueueOpen s → exec i s = .next s) ∧
  (QueueOpen s → ∃ t e, exec i s = .next t ∧ Goes c n s (useTag (s.setMe (s.me.enqueue e)) s.me) t ∧ Entered s e kind o sc [])

/-- An object of `n` bytes that a record names in the vault window. -/
def Inside (p : Part) (o n unit : Nat) : Prop := o % unit = 0 ∧ o + n ≤ windowSize p

/-- The rules of R266 but for privilege. -/
structure RecordFits (p : Part) (r : TaskRec) : Prop where
  reserved : r.extractLsb' 366 18 = 0
  spanWidth : recSpw r ≠ 3
  extent : recExt r % (16 * 2 ^ recSpw r) = 0
  scratchpad : recSpb r ≤ 524288
  banks : recAccb r ≤ 16
  overlay : recEov r ≠ 0
  entry : recEw r < 1024 * recIsl r
  pair : recPair r = true → recStrands r ≠ 1
  image : Inside p (recImg r) (4096 * recIsl r) 256
  count : recFcm r = true → Inside p (recCptr r) 4 4
  successor : recSv r = true → Inside p (recSucc r) 128 128
  counter : recCw r = true → p.rcd.cbase ≤ recCtr r ∧ recCtr r < p.rcd.cbase + p.rcd.ccnt

/-- The next entry of a queue register has its lanes and waits for the strand itself: the register holds 8 entries, or no peg can be freed (R80, R240). -/
def Stuck (t : Strand) (q : Nat) : Prop :=
  ∃ c, t.copy.cmds.find? (fun c => decide (c.queue = some q)) = some c ∧ c.readDone = true ∧
    (8 ≤ (Tbl.get [] t.q q).length ∨ t.makeRoom [] [] (pegsOf c.arrived.length) (t.mapBytes c.arrived.map) = .full)

/-- The strand replays a copy-channel command and is not Ready; a queue form whose lanes are done behind a register that only the strand can empty holds nothing back (R260; log 55). -/
def Replays (t : Strand) : Prop := ∃ c ∈ t.copy.cmds, c.replayed = true ∧ (c.readDone = true → ∀ q, c.queue = some q → ¬Stuck t q)

/-- A Ready strand of a core, which an arbitration may choose. -/
def Contends (s : State) (core u : Nat) : Prop := ∃ t, (u, t) ∈ s.strands ∧ t.core = core ∧ t.life = .ready

/-- From `s` to `t` only partition `p` has changed. -/
def OnlyPart (s t : State) (p : Nat) : Prop := t = { s with parts := t.parts } ∧ ∀ q, q ≠ p → t.part q = s.part q

/-- `s` with the counts of traffic of `t`: messages, bytes and requests (R12, R347, R364). -/
def withTraffic (s t : State) : State := { s with class3 := t.class3, carried := t.carried, moved := t.moved, requests := t.requests }

/-- From `s` to `t` only partition `p` has changed and the counts of traffic, since near memory has been read (R12, R347, R364). -/
def ReadsPart (s t : State) (p : Nat) : Prop :=
  t = { withTraffic s t with parts := t.parts } ∧ ∀ q, q ≠ p → t.part q = s.part q

/-- A strand as strand `i` of frame `fu` is born (R161, R267): every register at the value of its record or its reset value. -/
def Born (b : Strand) (f : Frame) (fu i : Nat) : Prop :=
  let r := f.record
  b.pc.ovid = recEov r ∧ b.pc.word = BitVec.ofNat 14 (recEw r) ∧ (∀ j, j < 16 → Tbl.get 0 b.args j = (r.extractLsb' (384 + 40 * j) 40).signExtend 64) ∧
  b = { Strand.blank with
    life := .ready, part := f.part, frame := fu, core := f.cores.getD (if recPair r then i % 2 else 0) 0, priv := recPrv r, sidx := i,
    frameId := f.frameId, fsize := recStrands r, ext := recExt r, span := 16 * 2 ^ recSpw r, launchId := f.launchId, ecl := recEcl r,
    handler := recHnd r, absvec := recAbv r, prio := recPri r, pegquota := recPq r,
    stack := [⟨BitVec.ofNat 1024 (2 ^ recExt r - 1), ⟨0, 0, 0⟩, 0, .base⟩], bkLen := recBk r,
    pc := b.pc, args := b.args, slot := b.slot, readyAt := b.readyAt, bkOff := b.bkOff }

/-- Frame `fu` as launch `key` of partition `part` has placed it at a core: its identity, its cores, its strands from `u` on, and its scratchpad, zeroed and then initialised (R33, R163, R267). -/
def Allotted (t : State) (fu part key : Nat) (l : Launch) (core u : Nat) (image : List (Nat × Byte)) : Prop :=
  let f := t.frame fu
  let r := l.record
  (f.part = part ∧ f.launch = key ∧ f.frameId = BitVec.ofNat 32 l.next ∧ f.launchId = l.launchId ∧ f.record = r ∧ f.spb = recSpb r ∧ f.gone = false ∧
    f.cores = (if recPair r then [core, core + 1] else [core]) ∧ f.bases.length = f.cores.length ∧ f.held = [] ∧ f.meet = [] ∧ f.latch = [] ∧ f.fab = false ∧
    f.strands = (List.range (recStrands r)).map (fun i => u + i)) ∧
  ∀ j, j < f.cores.length → f.bases.getD j 0 % 128 = 0 ∧ f.bases.getD j 0 + recSpb r ≤ 524288 ∧ ∀ o, o < recSpb r → (image.map (·.1)).Nodup →
    t.mem.read (spadKey (f.cores.getD j 0) (f.bases.getD j 0 + o)) = ((image.find? (fun e => decide (e.1 = o))).map (·.2)).getD 0

end Sys2Proof.Claim

/-- R271 to R273, R339: SPAWN and DEP enter the store queue as releases at DEVICE scope; DEP.read, an acquire, reads its counter once no DEP of its strand is queued. The order of their faults is the model's choice (log 6). -/
def Obligations.SpawnAndDep : Prop :=
  (∀ k sp y z q imm s, let i := Instr.spawn k sp y z q imm
    let n := (s.me.s z).toNat + q.toNat
    let a : Int := (s.me.s y).toNat + imm.toInt
    Issues i s →
    if 8 ≤ n then Claim.Does i 3 s (.fault .illegalOperand 0)
    else if ((s.part s.me.part).queue n).kok = true ∧ s.me.priv = false then Claim.Does i 3 s (.fault .privilege 0)
    else if a < 0 ∨ (nearSize s s.me sp false : Int) < a + 128 then Claim.Does i 3 s (.fault .nearBounds 0)
    else if a % 128 ≠ 0 then Claim.Does i 3 s (.fault .misaligned 0)
    else Claim.Enters .classC 3 i s (.spawn ((List.range 8).map (fun i => (Claim.keyAt s sp a + 16 * i, none))) n) .rel .device) ∧
  (∀ i y n add, (∃ k, i = .depDec k y n ∧ add = fun _ => (-1 : W32)) ∨ (∃ k z, i = .depAdd k y n z ∧ add = fun t : Strand => (t.s z).setWidth 32) →
    ∀ s, let c := (s.me.s y).toNat + n.toNat
    Issues i s →
    if c < (s.part s.me.part).rcd.cbase ∨ (s.part s.me.part).rcd.cbase + (s.part s.me.part).rcd.ccnt ≤ c then
      Claim.Does i 2 s (.fault .illegalOperand 0)
    else Claim.Enters .classC 2 i s (.dep c (add s.me)) .rel .device) ∧
  (∀ k x y n s, let i := Instr.depRead k x y n
    let c := (s.me.s y).toNat + n.toNat
    Issues i s →
    if c < (s.part s.me.part).rcd.cbase ∨ (s.part s.me.part).rcd.cbase + (s.part s.me.part).rcd.ccnt ≤ c then
      Claim.Does i 2 s (.fault .illegalOperand 0)
    else if s.me.sq.any (fun e => match e.kind with
      | .dep _ _ => true
      | _ => false) then exec i s = .next s
    else Claim.Does i 2 s (.go (s.setMe ((s.me.acquires s).setS x ((s.counter c).setWidth 64)))))

/-- R276: arbitration gives a core without a run to a Ready strand of the highest PRIO: the longest Ready among those of AGE 64 or more, else after a hot run among those of at most 8 lanes, else among all; AGE and LASTCHG change as said. A strand becomes Ready behind those Ready before it, but for one that still has to wait for its returns under S (R41) or whose copy commands are replayed (R260, with log 55); the count of LASTCHG is in literal order (log 23): the model's choices. -/
def Obligations.ArbitrationPicks : Prop :=
  (∀ s u, let a := s.strand u
    let marked : Prop := a.sMark = true ∧ a.rets ≠ []
    (marked → s.makeReady u = s.setStrand u { a with life := .parked .marker, sMark := false }) ∧
    (¬marked → Claim.Replays a → s.makeReady u = s.setStrand u { a with life := .parked .replay, sMark := false }) ∧
    (¬marked → ¬Claim.Replays a → s.makeReady u = { s.setStrand u { a with life := .ready, readyAt := s.clock, sMark := false } with clock := s.clock + 1 }) ∧
    (a.life = .parked .replay → (Claim.Replays a → wakeOne s u = s) ∧ (¬Claim.Replays a → wakeOne s u = s.makeReady u))) ∧
  ∀ core s, let c := s.core core
    c.running = none → (s.strands.map (·.1)).Nodup →
    ((∀ u, ¬Claim.Contends s core u) → exec (.runArbitration core) s = .next s) ∧
    ((∃ u, Claim.Contends s core u) → ∃ w t, exec (.runArbitration core) s = .next t ∧ Claim.Contends s core w ∧
      (∀ u, Claim.Contends s core u → (s.strand u).prio ≤ (s.strand w).prio) ∧
      let pool (u : Nat) : Prop := Claim.Contends s core u ∧ (s.strand u).prio = (s.strand w).prio
      let old (u : Nat) : Prop := pool u ∧ 64 ≤ (s.strand u).age
      let few (u : Nat) : Prop := pool u ∧ nextLanes s (s.strand u) ≤ 8
      let hot : Prop := 256 * heavyThreshold c.ebudget < c.lastchg.toNat
      let group (u : Nat) : Prop := pool u ∧ ((∃ v, old v) → old u) ∧ ((∀ v, ¬old v) → hot → (∃ v, few v) → few u)
      group w ∧ (∀ u, group u → (s.strand w).readyAt ≤ (s.strand u).readyAt) ∧
      t = { s with strands := t.strands, cores := t.cores } ∧ (∀ d, d ≠ core → t.core d = s.core d) ∧
      t.core core = { c with running := some w, runLen := 0, runCharge := 0, lastchg := BitVec.ofNat 32 c.runCharge } ∧
      t.strand w = { s.strand w with life := .running, age := 0 } ∧
      ∀ u, u ≠ w → t.strand u =
        if (s.strand u).core = core ∧ (s.strand u).life = .ready ∧ (s.strand u).prio = (s.strand w).prio then { s.strand u with age := min ((s.strand u).age + 1) 127 }
        else s.strand u)

/-- R185, R266, R267, R269: the steps of a queue's head record: its checks, with ERR 1 or 2 and HALT for a refused one; the wait for its counter; its frame count, by a relaxed read the present value or an older one that its word has held since the record was published and since the scheduler last read it (log 24, the model's choice), with which the launch is created under the partition's next LAUNCHID, or the record is consumed at once. -/
def Obligations.LaunchQueueSteps : Prop :=
  ∀ part q s, let p := s.part part
    let x := p.queue q
    p.st ≠ .free →
    (q < 8 → x.halt = false → x.stage = .fresh → x.head ≠ x.tail →
      let r : TaskRec := BitVec.ofNat 1024 (Claim.little (s.mem.readN (windowKey p (x.base + 128 * (x.head.toNat % 2 ^ x.sz))) 128))
      let refused (e : Nat) : LQueue := { x with err := e, erridx := x.head, halt := true }
      ∃ t, exec (.recordHeadCheck part q) s = .next t ∧ Claim.ReadsPart s t part ∧ t.part part = { p with queues := (t.part part).queues } ∧
        (∀ k, k ≠ q → (t.part part).queue k = p.queue k) ∧
        (recPrv r = true ∧ x.kok = false → (t.part part).queue q = refused 1) ∧
        (¬(recPrv r = true ∧ x.kok = false) → ¬Claim.RecordFits p r → (t.part part).queue q = refused 2) ∧
        (¬(recPrv r = true ∧ x.kok = false) → Claim.RecordFits p r →
          (t.part part).queue q = { x with cur := r, stage := if recCw r = true ∧ s.counter (recCtr r) ≠ 0 then .waiting false else .satisfied })) ∧
    (x.stage = .waiting true → ∃ t, exec (.counterTrigger part q) s = .next t ∧ Claim.OnlyPart s t part ∧
      (t.part part).queue q = { x with stage := .satisfied }) ∧
    (x.stage = .satisfied → x.halt = false → ∀ old,
      let r := x.cur
      let now : W32 := BitVec.ofNat 32 (Claim.little (s.mem.readN (windowKey p (recCptr r)) 4))
      ∃ t v, exec (.frameCountRead part q old) s = .next t ∧ (t.part part).nextLaunch = p.nextLaunch + 1 ∧ t.mem = s.mem ∧ t.strands = s.strands ∧
        (recFcm r = true → v = now ∨ recCw r = false ∧ old = some v ∧ ∃ w j, (p.noteWords s.mem).word (recCptr r) = some w ∧ w.hist[j]? = some v ∧ w.read ≤ j ∧
          ∀ e, x.counts.find? (fun e => decide (e.1 = x.head) && decide (e.2.1 = w.off)) = some e → e.2.2 ≤ j) ∧
        (recFcm r = true → ∀ w, (t.part part).word (recCptr r) = some w → w.hist[w.read]? = some v) ∧
        let n : Nat := if recFcm r = true then v.toNat else recFc r
        (∀ k, k ≠ q → (t.part part).queue k = p.queue k) ∧
        if n = 0 then (t.part part).queue q = { x with head := x.head + 1, stage := .fresh, cur := 0 }
        else (t.part part).queue q = { x with stage := .launched s.next } ∧
          (t.part part).launch s.next = { record := r, count := n, launchId := p.nextLaunch, home := q, next := 0, queue := some q, succ := none, succRead := false, succId := none })

/-- R33, R161, R163, R233, R267, R269, R275, R278, R338, R370: the next frame of the launch whose turn it is at every core it uses, when it is admissible there, takes the next FRAMEID, its cores and its zeroed, then initialised scratchpad; its strands are born in index order; with the last frame the record is consumed; a bad successor record ends the launch and halts the queue. In a braced partition the frame and its shadow are placed alike in two clusters, strand by strand twins, their first checkpoints taken. A successor frame is born in the allocation it inherits once its stores have drained and its cores take it, with code for it; the successor record of a successor launch is read at the first birth of one of its frames, which a bad one refuses (log 25, the model's choice). Frames that a freeze discarded are admitted again before any other (log 83, the model's choice), each live strand at its region's entry. -/
def Obligations.FrameAdmission : Prop :=
  (∀ part launch core shadow image s k, let p := s.part part
    let l := p.launch launch
    let r := l.record
    let n : TaskRec := BitVec.ofNat 1024 (Claim.little (s.mem.readN (windowKey p (recSucc r)) 128))
    let bad : Prop := l.succRead = false ∧ recSv r = true ∧ (recPrv n = true ∧ (p.queue k).kok = false ∨ ¬Claim.RecordFits p n)
    p.st = .live → owedFrames s part = [] → p.rcd.brace = false → nextQueue s part core = some k → (recPair r = true → nextQueue s part (core + 1) = some k) →
    (p.queue k).stage = .launched launch → admissible s part r core shadow = true →
    (¬bad →
      ∃ t, exec (.frameAdmit part launch core shadow image) s = .next t ∧
        Claim.Allotted t s.next part launch l core (s.next + 1) image ∧ (t.frame s.next).twin = none ∧
        (∀ i, i < recStrands r → Claim.Born (t.strand (s.next + 1 + i)) (t.frame s.next) s.next i) ∧
        (∀ u, u ≤ s.next → (s.strand u).life ≠ .parked .fetch → t.strand u = s.strand u) ∧
        (t.part part).lastServed = k ∧
        (t.part part).launch launch = { l with next := l.next + 1, succRead := true, succ := if l.succRead = false ∧ recSv r = true then some n else l.succ } ∧
        (t.part part).queue k = if l.next + 1 = l.count then { p.queue k with head := (p.queue k).head + 1, stage := .fresh, cur := 0 } else p.queue k) ∧
    (bad → ∃ t, exec (.frameAdmit part launch core shadow image) s = .next t ∧ Claim.ReadsPart s t part ∧
        (t.part part).queue k = { p.queue k with err := 3, erridx := (p.queue k).head, halt := true, stage := .fresh } ∧ (t.part part).nextLaunch = p.nextLaunch ∧
        ∀ x, x ≠ launch → (t.part part).launch x = p.launch x)) ∧
  (∀ part launch core shadow image s k, let p := s.part part
    let l := p.launch launch
    let r := l.record
    let fb := s.next + 1 + recStrands r
    let place (c : Nat) : List Nat := if recPair r then [c, c + 1] else [c]
    p.st = .live → owedFrames s part = [] → p.rcd.brace = true → (∀ c ∈ place core ++ place shadow, nextQueue s part c = some k) →
    (p.queue k).stage = .launched launch → admissible s part r core shadow = true → (l.succRead = true ∨ recSv r = false) →
      ∃ t, exec (.frameAdmit part launch core shadow image) s = .next t ∧ clusterOf core ≠ clusterOf shadow ∧
        Claim.Allotted t s.next part launch l core (s.next + 1) image ∧ Claim.Allotted t fb part launch l shadow (fb + 1) image ∧
        (t.frame s.next).twin = some fb ∧ (t.frame s.next).shadow = false ∧ (t.frame fb).twin = some s.next ∧ (t.frame fb).shadow = true ∧
        (∀ i, i < recStrands r → let a := t.strand (s.next + 1 + i)
          let b := t.strand (fb + 1 + i)
          a.twin = some (fb + 1 + i) ∧ a.shadow = false ∧ b.twin = some (s.next + 1 + i) ∧ b.shadow = true ∧
          Claim.Born { a with twin := none } (t.frame s.next) s.next i ∧ Claim.Born { b with twin := none, shadow := false } (t.frame fb) fb i ∧
          Tbl.get Strand.blank t.ckpts (s.next + 1 + i) = a ∧ Tbl.get Strand.blank t.ckpts (fb + 1 + i) = b) ∧
        (t.part part).lastServed = k ∧ ((t.part part).launch launch).next = l.next + 1) ∧
  (∀ part launch core shadow image s, (s.part part).st = .live → owedFrames s part ≠ [] →
    ((∀ e ∈ owedFrames s part, e.2.cores.head? = some core → canRebear s e.2 = false) → exec (.frameAdmit part launch core shadow image) s = .next s) ∧
    ∀ fu f, (owedFrames s part).find? (fun e => decide (e.2.cores.head? = some core) && canRebear s e.2) = some (fu, f) → s.frame fu = f →
      ∃ t, exec (.frameAdmit part launch core shadow image) s = .next t ∧ (t.frame fu).reborn = [] ∧
        (t.frame fu).strands = f.strands ++ (List.range f.reborn.length).map (fun i => s.next + i) ∧
        ∀ i e, f.reborn[i]? = some e → let b := t.strand (s.next + i)
          b.pc.ovid = vecOvid e.2.1 ∧ b.pc.word = BitVec.ofNat 14 (vecWord e.2.1) ∧ b.idem = e.2.1 ∧ b.bkOff = e.2.2 ∧
          ∃ pc, pc.ovid = recEov f.record ∧ pc.word = BitVec.ofNat 14 (recEw f.record) ∧ Claim.Born { b with pc := pc, idem := 0 } f fu e.1) ∧
  (∀ frame s, let f := s.frame frame
    let p := s.part f.part
    let l := p.launch f.launch
    let n : TaskRec := BitVec.ofNat 1024 (Claim.little (s.mem.readN (windowKey p (recSucc l.record)) 128))
    let home := p.queue l.home
    let unread : Prop := l.succRead = false ∧ recSv l.record = true
    let waits : Prop := unread ∧ home.halt = true
    let bad : Prop := unread ∧ (recPrv n = true ∧ home.kok = false ∨ ¬Claim.RecordFits p n)
    (owedFrames s f.part ≠ [] → exec (.successorBirth frame) s = .next s) ∧
    (p.st = .live → owedFrames s f.part = [] → f.twin = none → f.shadow = false → f.strands = [] → f.gone = false → f.waitsSucc = true →
    (∀ e ∈ s.strands, e.2.frame = frame → e.2.sq = [] ∧ ∀ x ∈ (s.core e.2.core).sent, x.sid ≠ e.1) →
    (∀ x ∈ f.cores.zipIdx, coreTakes s f.record (strandsOn f.record x.2).length x.1 = true) →
    (backingFor s f.part f.record (recStrands f.record)).isSome = true →
    (waits → exec (.successorBirth frame) s = .next s) ∧
    (¬waits → bad → ∃ t, exec (.successorBirth frame) s = .next t ∧ Claim.ReadsPart s t f.part ∧
      t.part f.part = p.setQueue l.home { home with err := 3, erridx := home.head, halt := true }) ∧
    (¬waits → ¬bad → ∃ t, exec (.successorBirth frame) s = .next t ∧ t.mem = s.mem ∧
      (t.frame frame) = { f with waitsSucc := false, strands := (List.range (recStrands f.record)).map (fun i => s.next + i) } ∧
      (∀ i, i < recStrands f.record → Claim.Born (t.strand (s.next + i)) f frame i) ∧
      (∀ u, u < s.next → (s.strand u).life ≠ .parked .fetch → t.strand u = s.strand u) ∧
      (¬unread → (t.part f.part).launch f.launch = { l with succRead := true }) ∧
      (unread → (t.part f.part).launch f.launch = { l with succRead := true, succ := some n }))))

namespace Sys2Proof.Claim

open Sys2Proof.Machine

/-! The expert residency table (R284 to R302). -/

/-- One step of the table for an instruction of the issuing strand: its partition is `p` and a status is in `x` (R290, R295). -/
def Acts (i : Instr) (s : State) (x : SCode) (p : Part) (st : Nat) : Prop :=
  ∃ t, exec i s = .next t ∧ Goes .classC 2 s ((s.setPart s.me.part p).setMe (s.me.setS x (BitVec.ofNat 64 st))) t

/-- A waiting instruction: ILLEGAL-OPERAND, or it holds its strand until the earlier accesses are performed at DEVICE scope, or it takes its step (R296, R298). -/
def Waits (i : Instr) (s : State) (bad held : Prop) (does : Prop) : Prop :=
  Issues i s → (bad → Does i 2 s (.fault .illegalOperand 0)) ∧
    (¬bad → held ∨ ¬Before s s.cur s.me.ord .device → exec i s = .next s) ∧ (¬bad → ¬held → Before s s.cur s.me.ord .device → does)

/-- A register holds more than 32 bits. -/
def Wide (v : W64) : Prop := 2 ^ 32 ≤ v.toNat

/-- The partition after an ERT step is counted (R290). -/
def stepped (p : Part) : Part := { p with step := p.step + 1 }

/-- The entry of a key: `none` gives NOKEY (R295). -/
def OnKey (i : Instr) (s : State) (x y : SCode) (f : Nat → Ert → Part → Prop) : Prop :=
  let p := s.part s.me.part
  match p.findKey ((s.me.s y).setWidth 32) with
  | none => Acts i s x (stepped p) 4
  | some e => f e (p.entry e) (stepped p)

/-- The waiters of a failed or finished fill, as they move to the ready tail (R291). -/
def readied (x : Ert) (fail : Bool) : List Desc := x.waiters.map (fun d => { d with fail := fail })

/-- R292: from `p` the deferred fills are granted, oldest first, each the lowest free frame, else that of the victim, which is taken at once or, with a replica copy under way, when its eviction ends; it stops at the first that finds neither. -/
def GrantsBy : Nat → Part → Part → Prop
  | 0, p, q => q = p
  | n + 1, p, q =>
    match p.deferred, p.framesFree, p.victim with
    | [], _, _ => q = p
    | e :: r, o :: _, _ => GrantsBy n { p.setEntry e { p.entry e with vcopy := o, defer := false } with deferred := r } q
    | _ :: _, [], none => q = p
    | e :: r, [], some v =>
      let x := p.entry v
      if x.rbusy then
        let p1 := p.setEntry v { x with rv := false, rpl := 0, st := .evicting }
        GrantsBy n { p1.setEntry e { p1.entry e with defer := false } with deferred := r, takes := p.takes ++ [(e, v)] } q
      else
        let p1 := p.setEntry v { x with rv := false, rpl := 0, st := .absent }
        GrantsBy n { p1.setEntry e { p1.entry e with vcopy := x.vcopy, defer := false } with deferred := r } q

/-- Every deferred fill that can be granted is. -/
def Grants (p q : Part) : Prop := GrantsBy p.deferred.length p q

/-- Entry `e`, standing as `x`, has its fill fail with a code; it gives up its place among the fills that wait for a frame (R291). -/
def Failed (p : Part) (e : Nat) (x : Ert) (code : Nat) : Part :=
  { p.setEntry e { x with waiters := [], qcnt := x.qcnt + x.waiters.length, ferr := code, defer := false, st := .absent } with
    ready := p.ready ++ readied x true, deferred := p.deferred.filter (· ≠ e), takes := p.takes.filter (fun k => decide (k.1 ≠ e)) }

/-- Entry `e`, standing as the FILLING `x`, starts its fill (R289, R292): it fails with code 2 when it is too long or SPN is 3; else it comes after the deferred fills. -/
def StartsFill (p : Part) (e : Nat) (x : Ert) (q : Part) : Prop :=
  if 4096 * p.rcd.fsz < expertLen x x.fpl.toNat ∨ x.spn = 3 then q = Failed p e x 2
  else Grants { p.setEntry e { x with defer := true } with deferred := p.deferred ++ [e] } q

/-- From `s` to `t` only partition `part` has changed, and nobody waits any more for an absent page of the fill of entry `e` (R289, R309). -/
def FillLeaves (s t : State) (part e : Nat) : Prop :=
  t = { s with parts := t.parts, dies := t.dies } ∧ (∀ q, q ≠ part → t.part q = s.part q) ∧
    ∀ d, t.die d = { s.die d with waiters := (s.die d).waiters.filter (fun w => decide ¬(w.1 = part ∧ w.2.2 = .fill e)) }

/-- The eviction of entry `e`, standing as `x`, ends (R291): its frames are free, its vault copy's goes to the fill that waits for it, and its waiters start a fill. -/
def EvictionEnds (p : Part) (e : Nat) (x : Ert) (q : Part) : Prop :=
  let p1 := p.setEntry e { x with rv := false, rbusy := false, rpl := 0, st := .absent }
  let p2 : Part := match p.takes.find? (fun k => decide (k.2 = e)) with
    | some k => { p1.setEntry k.1 { p1.entry k.1 with vcopy := x.vcopy, defer := false } with takes := p.takes.filter (fun m => decide (m.1 ≠ k.1)) }
    | none => p1
  if (p2.entry e).waiters = [] then Grants p2 q else ∃ m, StartsFill p2 e { p2.entry e with st := .filling } m ∧ Grants m q

/-- The partition and the status after the step of an XDISP with a free descriptor slot (R291). -/
def Dispatched (p q : Part) (e st : Nat) (key first : W32) (n : Nat) (o : Ordn) (sc : Scope) : Prop :=
  let d : Desc := ⟨key, first, n, false⟩
  let x : Ert := { p.entry e with rc := (p.entry e).rc + BitVec.ofNat 32 n, use := p.step + 1 }
  let p1 : Part := { p with step := p.step + 1, dused := p.dused + 1 }
  match x.st with
  | .resident | .pinned => st = 0 ∧ q = { p1.setEntry e { x with qcnt := x.qcnt + 1 } with ready := p.ready ++ [d] }
  | .filling => st = 1 ∧ q = p1.setEntry e { x with waiters := x.waiters ++ [d] }
  | .evicting => st = 2 ∧ q = p1.setEntry e { x with waiters := x.waiters ++ [d] }
  | .absent => st = 2 ∧ StartsFill p1 e { x with waiters := x.waiters ++ [d], ferr := 0, st := .filling, fillO := o, fillSc := sc } q

end Sys2Proof.Claim

/-- R290 to R293, R295, R296, R298: what XDISP and the XCTL variants do to the expert residency table in their step, and the status they report; XCTL.SNAP enters the store queue; DONE waits for the strand's loads too (R301). That the count of steps is the step's number, that a SNAP checks NEAR-BOUNDS, then MISALIGNED, then ILLEGAL-OPERAND, and that grants fall within the step are the model's choices (log 27, 46), as is what a SNAP's entry holds (log 54). -/
def Obligations.ExpertInstructions : Prop :=
  (∀ k o sc x y z c s, let i := Instr.xdisp k o sc x y z c
    let p := s.part s.me.part
    let n := (s.me.s c).toNat
    let key : W32 := (s.me.s y).setWidth 32
    Claim.Waits i s (Claim.Wide (s.me.s y) ∨ Claim.Wide (s.me.s z) ∨ 65536 < n) False
      (if n = 0 then ∃ t, exec i s = .next t ∧ Goes .classC 2 s (s.setMe (s.me.setS x 0)) t
      else Claim.OnKey i s x y (fun e _ p1 => if p.rcd.dq ≤ p.dused then Claim.Acts i s x p1 3
        else ∃ q st, Claim.Acts i s x q st ∧ Claim.Dispatched p q e st key ((s.me.s z).setWidth 32) n o sc))) ∧
  (∀ k x y z s, let i := Instr.xctlSetbias k x y z
    Claim.Waits i s (Claim.Wide (s.me.s y)) False (Claim.OnKey i s x y (fun e n p1 =>
      Claim.Acts i s x (p1.setEntry e (if p1.sel then { n with biasA := (s.me.s z).setWidth 32 } else { n with biasB := (s.me.s z).setWidth 32 })) 0))) ∧
  (∀ k x s, let i := Instr.xctlFlip k x
    let p := s.part s.me.part
    Claim.Waits i s False False (Claim.Acts i s x { Claim.stepped p with sel := !p.sel } (if p.sel then 0 else 1))) ∧
  (∀ k sp y z n s, let i := Instr.xctlSnap k sp y z n
    let a := (s.me.s y).toNat
    let len := 4 * (n.toNat + 1)
    Issues i s →
    if nearSize s s.me sp false < a + len then Claim.Does i 2 s (.fault .nearBounds 0)
    else if a % 4 ≠ 0 then Claim.Does i 2 s (.fault .misaligned 0)
    else if 2 ^ 32 ≤ (s.me.s z).toNat then Claim.Does i 2 s (.fault .illegalOperand 0)
    else Claim.Enters .classC 2 i s (.snap ((List.range (n.toNat + 1)).map (fun j => Claim.keyAt s sp (a + 4 * j))) ((s.me.s z).setWidth 32)) .rlx .strand) ∧
  (∀ k x y z s, let i := Instr.xctlRepl k x y z
    let core := (s.me.s z).toNat
    let p := s.part s.me.part
    Claim.Waits i s (Claim.Wide (s.me.s y) ∨ core ∉ coresOf p.rcd.clm) False (Claim.OnKey i s x y (fun e n p1 =>
      let near := p.framesFree.filter (fun o => decide (clusterOf (vaultCore (p.vaultAt o)) = clusterOf core))
      let same := p.framesFree.filter (fun o => decide (dieOf (vaultCore (p.vaultAt o)) = dieOf core))
      if n.st ≠ .resident ∧ n.st ≠ .pinned then Claim.Acts i s x p1 5
      else if n.rv = true ∨ n.rbusy = true then Claim.Acts i s x p1 6
      else match near, same with
        | o :: _, _ | [], o :: _ => Claim.Acts i s x (p1.setEntry e { n with rbusy := true, rcopy := o }) 0
        | [], [] => Claim.Acts i s x p1 7))) ∧
  (∀ k x y pin s, let i := Instr.xctlPin k x y pin
    Claim.Waits i s (Claim.Wide (s.me.s y)) False (Claim.OnKey i s x y (fun e n p1 =>
      if n.st = .resident then (if pin then Claim.Acts i s x (p1.setEntry e { n with st := .pinned }) 0 else Claim.Acts i s x (p1.setEntry e { n with pinreq := false }) 6)
      else if n.st = .pinned then (if pin then Claim.Acts i s x p1 6 else ∃ q, Claim.Grants (p1.setEntry e { n with st := .resident }) q ∧ Claim.Acts i s x q 0)
      else Claim.Acts i s x (p1.setEntry e { n with pinreq := pin }) (if n.pinreq = pin then 6 else 0)))) ∧
  (∀ k x y s, let i := Instr.xctlEvict k x y
    Claim.Waits i s (Claim.Wide (s.me.s y)) False (Claim.OnKey i s x y (fun e n p1 =>
      if n.st = .absent then Claim.Acts i s x p1 6
      else if n.st = .resident ∧ n.inuse = 0 ∧ n.qcnt = 0 ∧ n.valid = true then
        ∃ q, Claim.Acts i s x q 0 ∧ (if n.rbusy = true then q = p1.setEntry e { n with rv := false, rpl := 0, st := .evicting }
          else Claim.EvictionEnds p1 e { n with rv := false, rpl := 0, st := .evicting } q)
      else Claim.Acts i s x p1 5))) ∧
  (∀ k x y s, let i := Instr.xctlDone k x y
    Claim.Waits i s (Claim.Wide (s.me.s y)) (∃ r ∈ s.me.rets, r.kind = .ld ∨ r.kind = .lds) (Claim.OnKey i s x y (fun e n p1 =>
      if (n.st = .resident ∨ n.st = .pinned) ∧ n.inuse ≠ 0 then ∃ q, Claim.Grants (p1.setEntry e { n with inuse := n.inuse - 1 }) q ∧ Claim.Acts i s x q 0
      else Claim.Acts i s x p1 6))) ∧
  (∀ k c s, let i := Instr.xctlClose k c
    Claim.Waits i s False False (Claim.Acts i s 0 { Claim.stepped (s.part s.me.part) with closed := c } 0))

/-- R297, R299, R293: XPULL zeroes its four scalars and parks behind the XPULLs before it; its pop gives it the head descriptor and the address of the nearest copy, all ones for a failed fill, and zeros from a closed, drained table; XBIAS reads the selected column in one step; the pop and XBIAS acquire (R301). That the place of an XPULL in the order is that of its issue, what INUSE holds beyond 65,535, and what has happened before an acquire, are the model's choices (log 27, 46, 82). -/
def Obligations.XpullAndXbias : Prop :=
  (∀ k x y z a s, let i := Instr.xpull k x y z a
    Issues i s → s.me.rets.length < 32 →
    ∃ t b, exec i s = .next t ∧
      Parks .classC 2 (.xpull s.me.ord) s (useTag ((s.setPart s.me.part { s.part s.me.part with pulls := (s.part s.me.part).pulls ++ [s.cur] }).setMe b) s.me) t ∧
      Claim.Awaits s.me b .xpull .b32 0 [x, y, z, a] false ((List.range 4).map (fun j => (j, 0))) ∧
      { b with rets := s.me.rets } = (((s.me.setS x 0).setS y 0).setS z 0).setS a 0) ∧
  (∀ part (s : State) u rest ord, let p := s.part part
    let b := s.strand u
    p.pulls = u :: rest → b.life = .parked (.xpull ord) → b.twin = none →
    let gives (q' : Part) (vals : List W64) : Prop := ∃ w : State, exec (.xpullPop part) s = .next (w.makeReady u) ∧ w.part part = q' ∧ w.mem = s.mem ∧
      (∀ v, v ≠ u → w.strand v = s.strand v) ∧ w.strand u = { b.acquires s with rets := b.rets.map (fun (r : Ret) => if r.ord = ord ∧ r.kind = .xpull then
        { r with four := (List.range 4).map (fun j => vals.getD j 0), units := r.units.map (fun (x : RUnit) => { x with val := some (vals.getD x.lane 0) }) } else r) }
    (∀ d r e, p.ready = d :: r → p.findKey d.key = some e →
      let n : Ert := p.entry e
      let q : Part := { p with step := p.step + 1, ready := r, dused := p.dused - 1, pulls := rest }
      let words (v : W64) : List W64 := [d.key.setWidth 64, d.first.setWidth 64, BitVec.ofNat 64 d.count, v]
      let rank (o : BitVec 34) : Nat := if clusterOf (vaultCore (p.vaultAt o)) = clusterOf b.core then 0 else if dieOf (vaultCore (p.vaultAt o)) = dieOf b.core then 1 else 2
      let copy : BitVec 34 := if n.rv = true ∧ rank n.rcopy < rank n.vcopy then n.rcopy else n.vcopy
      let more : BitVec 16 := if n.inuse.toNat = 65535 then Config.inuseBeyond (p.step + 1).toNat else n.inuse + 1
      if d.fail then ∃ q', Claim.Grants (q.setEntry e { n with qcnt := n.qcnt - 1 }) q' ∧ gives q' (words (-1))
      else ∃ q', Claim.Grants (q.setEntry e { n with qcnt := n.qcnt - 1, use := p.step + 1, inuse := more }) q' ∧
        gives q' (words (BitVec.ofNat 64 (n.rpl * 2 ^ 36 + copy.toNat)))) ∧
    (p.ready = [] → p.closed = true → (∀ e ∈ p.ert, e.2.waiters = []) → gives { p with step := p.step + 1, pulls := rest } []) ∧
    (p.ready = [] → (p.closed = false ∨ ∃ e ∈ p.ert, e.2.waiters ≠ []) → exec (.xpullPop part) s = .next s)) ∧
  (∀ k x y m s, let i := Instr.xbias k x y m
    let p := s.part s.me.part
    let keys := s.me.readV ⟨y, false⟩
    let column (key : W32) : W32 := match p.findKey key with
      | some e => if p.sel then (p.entry e).biasB else (p.entry e).biasA
      | none => 0
    WellFormed true i = true → Issues i s → Claim.Fits i x false s →
    ∃ t b, exec i s = .next t ∧ Goes .plain 2 s ((s.setMe (b.acquires s)).setPart s.me.part (Claim.stepped p)) t ∧
      Claim.Placed s.me b x false (s.me.operMap (operOf i)) (fun l => (column ((keys.at l).setWidth 32)).setWidth 64) ∧
      Claim.withVectors b s.me = Claim.popped i s.me)

/-- R288, R289, R291, R292: fills, evictions, replicas and configuration writes of expert entries: each is one step that acts on the entry's state as the table says; a fill brings the expert's leading bytes from far memory to its frame, a peer's part as the peer answers, and fails with code 1 where a leaf lacks RD, with code 4 where a peer does not answer, with code 3 on poison (R246, R310); none ends before stage 1 after a warm reset (R368); the victim is the entry of least USE among the unpinned RESIDENT ones with nothing in use or queued. The clauses on pages at a peer — who reads them, and code 4 where it does not answer — are the model's choice (log 47), as are what a configuration write leaves alone, the place of the fills that an eviction's end starts, that a grant falls within the step that frees a frame (log 46, 54), and that a fill or a replica is read and written whole in one event, which leaves the frame as it was where the fill fails (log 64). -/
def Obligations.ExpertEvents : Prop :=
  (∀ part s e r o f, let p := s.part part
    p.deferred = e :: r → p.framesFree = o :: f → ∃ t, exec (.deferredFillGrant part) s = .next t ∧ Claim.OnlyPart s t part ∧
      t.part part = { (p.setEntry e { p.entry e with vcopy := o, defer := false }) with deferred := r, step := p.step + 1 }) ∧
  (∀ part e s (l : List Tlb) (peer : Option (List Byte)), let p := s.part part
    let x := p.entry e
    let n := expertLen x x.fpl.toNat
    let d := s.die (vaultDie (p.vaultAt x.vcopy))
    s.stage ≠ 0 → x.st = .filling → x.defer = false → (∀ k ∈ p.takes, k.1 ≠ e) →
    (fillPages x n).map (fun a => d.tlb.find? (fun y => y.hits part p.rcd.fasid (vpnOf a))) = l.map some →
    let byte (i : Nat) : Byte := let a := x.farb + BitVec.ofNat 80 i
      match l[(x.farb.toNat % 2 ^ 16 + i) / 2 ^ 16]? with
      | some y => let o := a.toNat % (if y.big then 2 ^ 32 else 2 ^ 16)
        if eBk y.leaf = 2 then (peer.getD []).getD i 0
        else if lineStored s.mem y.leaf (o / 256) = true then s.mem.read (eOut y.leaf * 2 ^ 16 + o) else 0
      | none => 0
    let lacksRd := ∃ y ∈ l, eRd y.leaf = false
    let noAnswer := peer = none ∧ ∃ y ∈ l, eBk y.leaf = 2
    let failed (code : Nat) (i : Instr) : Prop := ∃ t, exec i s = .next t ∧ Claim.FillLeaves s t part e ∧
      Claim.Grants (Claim.Failed { p with step := p.step + 1 } e x code) (t.part part)
    (lacksRd → failed 1 (.fillComplete part ⟨e, peer⟩) ∧ failed 1 (.fillFail part e 1)) ∧
    ((∃ y ∈ l, eBk y.leaf = 2) → failed 4 (.fillFail part e 4)) ∧
    (¬lacksRd → noAnswer → failed 4 (.fillComplete part ⟨e, peer⟩)) ∧
    (¬lacksRd → ¬noAnswer → ∃ t, exec (.fillComplete part ⟨e, peer⟩) s = .next t ∧ t.strands = s.strands ∧
      t.part part = { (p.setEntry e { x with waiters := [], qcnt := x.qcnt + x.waiters.length, rpl := x.fpl.toNat, st := if x.pinreq then .pinned else .resident, pinreq := false })
        with ready := p.ready ++ Claim.readied x false, step := p.step + 1 } ∧
      t.mem = (List.range n).foldl (fun m i => m.write (windowKey p (x.vcopy.toNat + i)) (byte i)) s.mem)) ∧
  (∀ part e s, let p := s.part part
    let x := p.entry e
    s.stage ≠ 0 → x.st = .filling → x.defer = false → (∀ k ∈ p.takes, k.1 ≠ e) → ∃ t, exec (.fillFail part e 3) s = .next t ∧ Claim.FillLeaves s t part e ∧
      Claim.Grants (Claim.Failed { p with step := p.step + 1 } e x 3) (t.part part)) ∧
  (∀ part e s, let p := s.part part
    let x := p.entry e
    x.st = .evicting → x.rbusy = false → ∃ t, exec (.evictionEnd part e) s = .next t ∧ Claim.OnlyPart s t part ∧
      Claim.EvictionEnds { p with step := p.step + 1 } e x (t.part part)) ∧
  (∀ part e s, let p := s.part part
    let x := p.entry e
    x.st = .evicting → x.rbusy = true → ∃ t, exec (.replicaComplete part e) s = .next t ∧ Claim.OnlyPart s t part ∧
      Claim.EvictionEnds { p with step := p.step + 1 } e x (t.part part)) ∧
  (∀ (p : Part) v, p.victim = some v → ∃ x, (v, x) ∈ p.ert ∧ x.evictable = true ∧ ∀ b : W32, (∀ y ∈ p.ert, y.2.evictable = true → (y.2.use - b).toNat < 2 ^ 31) →
    ∀ y ∈ p.ert, y.2.evictable = true → (x.use - b).toNat ≤ (y.2.use - b).toNat) ∧
  (∀ part e s, let p := s.part part
    let x := p.entry e
    s.stage ≠ 0 → x.rbusy = true → x.st ≠ .evicting → ∃ t, exec (.replicaComplete part e) s = .next t ∧ t.strands = s.strands ∧
      t.part part = { (p.setEntry e { x with rbusy := false, rv := true }) with step := p.step + 1 } ∧
      t.mem = (List.range (expertLen x x.rpl)).foldl (fun m i => m.write (windowKey p (x.rcopy.toNat + i)) (s.mem.read (windowKey p (x.vcopy.toNat + i)))) s.mem) ∧
  (∀ part e s z code, s.stage = 0 → exec (.fillComplete part ⟨e, z⟩) s = .next s ∧ exec (.fillFail part e code) s = .next s ∧
    ((s.part part).entry e).st ≠ .evicting → exec (.replicaComplete part e) s = .next s) ∧
  (∀ part e c s, let p := s.part part
    let x := p.entry e
    s.stage = 2 → p.st ≠ .free → p.rcd.ebase ≤ e → e < p.rcd.ebase + p.rcd.ecnt → ∃ t, exec (.ertConfigWrite part e c) s = .next t ∧ Claim.OnlyPart s t part ∧
      if x.st = .absent ∧ x.inuse = 0 ∧ x.qcnt = 0 ∧ x.waiters = [] then
        t.part part = p.setEntry e { x with valid := c.valid, key := c.key, farb := c.farb, t := c.t, spn := c.spn, fpl := c.fpl, biasA := c.biasA, biasB := c.biasB }
      else t.part part = { p with errs := { p.errs with cfgrej := satAdd p.errs.cfgrej 1 } })

namespace Sys2Proof.Claim

open Sys2Proof.Machine

/-! The host and the links (R259 to R263, R359 to R364). -/

/-- Bytes written one after another at keys, the rest of memory as before. -/
def stored (m : Memory) (l : List (Nat × Byte)) : Memory := l.foldl (fun m e => m.write e.1 e.2) m

/-- The key of byte `i` of a peer's access to the exported range (R363). -/
def exportedKey (p : Part) (off i : Nat) : Nat :=
  if off < 2 ^ 40 then windowKey p (off + i) else spadKey ((off - 2 ^ 40) / 2 ^ 19) ((off - 2 ^ 40) % 2 ^ 19 + i)

/-- The exported range backs `n` bytes at an offset (R363). -/
def Backs (p : Part) (off n : Nat) : Prop :=
  if off + n ≤ 2 ^ 40 then off + n ≤ windowSize p
  else 2 ^ 40 ≤ off ∧ (off - 2 ^ 40) / 2 ^ 19 ∈ coresOf p.rcd.clm ∧ (off - 2 ^ 40) % 2 ^ 19 + n ≤ 2 ^ 19

/-- CFGREJ has gained 1, that of the partition, or the device's for a partition that is FREE, and nothing else has changed (R345). -/
def Rejected (s t : State) (part : Nat) : Prop :=
  let p := s.part part
  (p.st = .free → t = { s with errs := { s.errs with cfgrej := satAdd s.errs.cfgrej 1 } }) ∧
  (p.st ≠ .free → OnlyPart s t part ∧ t.part part = { p with errs := { p.errs with cfgrej := satAdd p.errs.cfgrej 1 } })

/-- The windows of the function of a partition are there from stage 2 on, those of function 0, which 32 names, as soon as there is power (R366). -/
def Shown (s : State) (part : Nat) : Prop := s.powered = true ∧ (s.stage = 2 ∨ part = 32)

/-- The record of each index that a tail `v` of queue `x` newly covers, whose count is a relaxed read, has a place among the counts `c`, at the present value of its word (R270); what else is in `c` was there before and is covered still. -/
def Published (s : State) (p : Part) (x : LQueue) (v : W32) (c : List (W32 × Nat × Nat)) (w : List CountWord) : Prop :=
  let now (o : Nat) : W32 := BitVec.ofNat 32 (little (s.mem.readN (windowKey p o) 4))
  let record (i : Nat) : TaskRec := readRecord s.mem p (x.base + 128 * ((x.tail + BitVec.ofNat 32 i).toNat % 2 ^ x.sz))
  let relaxed (i : Nat) : Prop := i + (x.tail - x.head).toNat < (v - x.head).toNat ∧ recFcm (record i) = true ∧ recCw (record i) = false
  (∀ i, relaxed i → ∃ e ∈ c, e.1 = x.tail + BitVec.ofNat 32 i ∧ e.2.1 = recCptr (record i) ∧
    ∃ h ∈ w, h.off = e.2.1 ∧ h.hist.getLast? = some (now e.2.1) ∧ e.2.2 = h.hist.length - 1) ∧
  ∀ e ∈ c, (e ∈ x.counts ∧ (e.1 - x.head).toNat < (v - x.head).toNat) ∨ ∃ i, relaxed i ∧ e.1 = x.tail + BitVec.ofNat 32 i

/-- The window of a function is there: stage 2 is reached (R366) and its partition is not FREE. -/
def Served (s : State) (part : Nat) : Prop := s.stage = 2 ∧ (s.part part).st ≠ .free

end Sys2Proof.Claim

/-- R247, R259 to R263, R266, R270, R331, R345, R359 to R361, R363, R364: what the host and peers do. Window A shows the registers of a partition, and that of function 0 the device's counters and every partition's registers; window B reads and writes the vault window, and beyond it reads give all ones and writes are counted in CFGREJ; a peer reaches the exported range and is refused elsewhere. Window A takes doorbells, HEAD while HALT is 1, HALT, the queue registers, the counters and CONS; remote signals act once per tag; credits come back; the class-3 window begins anew. What is refused is counted or discarded. The places of the registers within window A beyond those that R361 gives, what a doorbell notes of the counts, the order of a write that finds the record queue empty, when the tag of a signal goes, that the port of a signal is one of the die that sends it, that a record's bytes are written through window B, and the start stages in which each acts are the model's choices (log 24, 30, 34, 36, 38, 39, 72, 77, 89). -/
def Obligations.HostAndPeers : Prop :=
  (∀ part off n x s, ¬Claim.Shown s part → exec (.hostWindowAccess part off n x) s = .next s) ∧
  (∀ part off n s, Claim.Shown s part → part ≠ 32 → ∃ t, exec (.hostWindowAccess part off n .readA) s = .next t ∧ t = { Claim.withTraffic s t with answer := t.answer } ∧
    let p := s.part part
    let q := if 0x3000 ≤ off then p.eventQ else p.absentQ
    let reads (v : Nat) : Prop := n ≤ 8 → t.answer = (List.range n).map (fun i => BitVec.ofNat 8 (v / 256 ^ i))
    (off = 0x2000 ∨ off = 0x3000 → reads q.qbase) ∧ (off = 0x2008 ∨ off = 0x3008 → reads q.qsz) ∧ (off = 0x2010 ∨ off = 0x3010 → reads q.prod.toNat) ∧
    (off = 0x2018 ∨ off = 0x3018 → reads q.cons.toNat) ∧ (off = 0x2020 → reads q.held.length) ∧ (off = 0x3020 → reads (min q.held.length 256)) ∧
    (∀ i, i < p.rcd.ccnt → i < 0x3C000 → n ≤ 4 → off = 0x10000 + 4 * i → reads (s.counter (p.rcd.cbase + i)).toNat) ∧
    (∀ k, k < 8 → let x := p.queue k
      let at_ (j v : Nat) : Prop := off = 0x1000 + 64 * k + 8 * j → reads v
      at_ 0 x.base ∧ at_ 1 x.sz ∧ at_ 2 x.head.toNat ∧ at_ 3 x.tail.toNat ∧ at_ 4 x.halt.toNat ∧ at_ 5 x.err ∧ at_ 6 x.erridx.toNat) ∧
    (off = 0x4010 → n ≤ 4 → reads p.errs.engreset.toNat) ∧ (off = 0x4018 → n ≤ 4 → reads p.errs.cfgrej.toNat) ∧ (off = 0x4020 → reads p.energy.compute.toNat) ∧
    (0x310000 ≤ off → reads 0)) ∧
  (∀ off n s, s.powered = true → ∃ t, exec (.hostWindowAccess 32 off n .readA) s = .next t ∧ t = { Claim.withTraffic s t with answer := t.answer } ∧
    (off = 0x4018 → n ≤ 4 → t.answer = (List.range n).map (fun i => BitVec.ofNat 8 (s.errs.cfgrej.toNat / 256 ^ i))) ∧
    (∀ part o, part < 32 → 0x1000 ≤ o → o + n ≤ 0x5000 → off = 0x100000 + 0x4000 * part + (o - 0x1000) → s.stage = 2 →
      ∃ u, exec (.hostWindowAccess part o n .readA) s = .next u ∧ t.answer = u.answer)) ∧
  (∀ part off n s, Claim.Shown s part → let p := s.part part
    let b := if p.st ≠ .free ∧ off + n ≤ windowSize p then (List.range n).map (fun i => s.mem.read (windowKey p (off + i))) else List.replicate n 0xFF
    ∃ t, exec (.hostWindowAccess part off n .readB) s = .next t ∧ t = { Claim.withTraffic s t with answer := b }) ∧
  (∀ part off n b s, Claim.Shown s part → let p := s.part part
    ∃ t, exec (.hostWindowAccess part off n (.writeB b)) s = .next t ∧
      if p.st ≠ .free ∧ off + b.length ≤ windowSize p then
        t = { Claim.withTraffic s t with mem := Claim.stored s.mem ((List.range b.length).map (fun i => (windowKey p (off + i), b.getD i 0))) }
      else Claim.Rejected (Claim.withTraffic s t) t part) ∧
  (∀ part off n data peer cls s, let p := s.part part
    let i := Instr.peerAccess part off n ⟨peer, cls, data⟩
    let len := match data with
      | some b => b.length
      | none => n
    let key := Claim.exportedKey p off
    let open_ : Prop := s.stage ≠ 0 ∧ p.st ≠ .free ∧ len ≤ 256 ∧ Claim.Backs p off len
    (¬open_ → exec i s = .next { s with answer := [] }) ∧
    (open_ → p.st = .frozen → 2 ^ 40 ≤ off → exec i s = .next s) ∧
    (open_ → p.st = .live ∨ off < 2 ^ 40 → ∃ t, exec i s = .next t ∧
      let w : State := Claim.withTraffic s t
      match data with
      | none => t = { w with answer := (List.range n).map (fun i => s.mem.read (key i)) }
      | some b => t = { w with mem := Claim.stored s.mem ((List.range b.length).map (fun i => (key i, b.getD i 0))) })) ∧
  (∀ part q v s, let p := s.part part
    let x := p.queue q
    (¬(Claim.Served s part ∧ q < 8) → exec (.tailDoorbell part q v) s = .next s ∧ exec (.headWrite part q v) s = .next s ∧ exec (.haltClear part q) s = .next s) ∧
    (Claim.Served s part → q < 8 →
      (∃ t, exec (.tailDoorbell part q v) s = .next t ∧
        if (v - x.head).toNat ≤ 2 ^ x.sz then Claim.OnlyPart s t part ∧ ∃ c w, t.part part = { p.setQueue q { x with tail := v, counts := c } with words := w } ∧ Claim.Published s p x v c w
        else Claim.Rejected s t part) ∧
      (∃ t, exec (.headWrite part q v) s = .next t ∧
        if x.halt = true ∧ (x.tail - v).toNat ≤ 2 ^ x.sz then Claim.OnlyPart s t part ∧ t.part part = p.setQueue q { x with head := v, stage := .fresh, cur := 0 }
        else Claim.Rejected s t part) ∧
      (∃ t, exec (.haltClear part q) s = .next t ∧ Claim.OnlyPart s t part ∧ t.part part = p.setQueue q { x with halt := false }))) ∧
  (∀ part r v s, let p := s.part part
    let offset (unit : Nat) : Nat := v.toNat % 2 ^ 34 - v.toNat % 2 ^ 34 % unit
    (¬Claim.Served s part → exec (.registerWrite part r v) s = .next s) ∧
    (Claim.Served s part → ∃ t, exec (.registerWrite part r v) s = .next t ∧
      let queue (q : Nat) (f : LQueue → LQueue) : Prop := t = { s with parts := t.parts } ∧ t.part part = if q < 8 then p.setQueue q (f (p.queue q)) else p
      let records (event : Bool) (f : RecQ → RecQ) : Prop :=
        let q := if event then p.eventQ else p.absentQ
        let r := if event then (t.part part).eventQ else (t.part part).absentQ
        (q.prod ≠ q.cons → t = s) ∧
        (q.prod = q.cons → q.held = [] → t.mem = s.mem ∧ t.part part = if event then { p with eventQ := f q } else { p with absentQ := f q }) ∧
        (q.prod = q.cons → r = { f q with prod := r.prod, held := r.held })
      match r with
      | .queueBase q => queue q (fun x => { x with base := offset 128 })
      | .queueSz q => if v.toNat ≤ 16 then queue q (fun x => { x with sz := v.toNat }) else t = s
      | .queueKok q => t = { s with parts := t.parts } ∧ (if q < 8 then (t.part part).queue q = { p.queue q with kok := v.getLsbD 0 } ∧
          (t.part part).rcd.kok = (if v.getLsbD 0 then p.rcd.kok ||| BitVec.ofNat 8 (2 ^ q) else p.rcd.kok &&& ~~~BitVec.ofNat 8 (2 ^ q)) else t = s)
      | .absentQbase => records false (fun q => { q with qbase := offset 32 })
      | .absentQsz => if v.toNat ≤ 16 then records false (fun q => { q with qsz := v.toNat }) else t = s
      | .eventQbase => records true (fun q => { q with qbase := offset 32 })
      | .eventQsz => if v.toNat ≤ 16 then records true (fun q => { q with qsz := v.toNat }) else t = s
      | .counter i => if i < p.rcd.ccnt then t.counter (p.rcd.cbase + i) = v.setWidth 32 ∧ t.mem = s.mem ∧ t.strands = s.strands ∧
          ∀ c, c ≠ p.rcd.cbase + i → t.counter c = s.counter c else t = s)) ∧
  (∀ part event v s, let p := s.part part
    let q := if event then p.eventQ else p.absentQ
    Claim.Served s part → ∃ t, exec (.consWrite part event v) s = .next t ∧
      let r := if event then (t.part part).eventQ else (t.part part).absentQ
      r = { q with cons := v, prod := r.prod, held := r.held } ∧
      (q.held = [] → r = { q with cons := v } ∧ t.mem = s.mem) ∧
      (q.held ≠ [] → ({ q with cons := v } : RecQ).placed p = true → (q.prod - v).toNat + q.held.length ≤ 2 ^ q.qsz → 2 ^ q.qsz < 2 ^ 32 →
        r.held = [] ∧ r.prod = q.prod + BitVec.ofNat 32 q.held.length)) ∧
  (∀ part ctr peer tag replayed s, let p := s.part part
    let rest := p.signalTags.filter (fun e => decide (e ≠ (peer, tag)))
    (s.stage = 0 → exec (.remoteSignal part ⟨ctr, peer, tag, replayed⟩) s = .next s) ∧
    (s.stage ≠ 0 → ∃ t, exec (.remoteSignal part ⟨ctr, peer, tag, replayed⟩) s = .next t ∧
      if p.st ≠ .free ∧ p.rcd.cbase ≤ ctr ∧ ctr < p.rcd.cbase + p.rcd.ccnt then
        (replayed = true ∧ (peer, tag) ∈ p.signalTags → Claim.OnlyPart (Claim.withTraffic s t) t part ∧ t.part part = { p with signalTags := rest }) ∧
        (¬(replayed = true ∧ (peer, tag) ∈ p.signalTags) → t.counter ctr = s.counter ctr - 1 ∧ (∀ c, c ≠ ctr → t.counter c = s.counter c) ∧
          t.mem = s.mem ∧ t.strands = s.strands ∧ (t.part part).signalTags = (peer, tag) :: rest)
      else Claim.Rejected (Claim.withTraffic s t) t part)) ∧
  (∀ port s, let used := Tbl.get 0 s.creditsUsed port
    let its (x : Signal) : Prop := Config.peerLink x.part x.die x.peer = port
    (8 ≤ port → exec (.creditReturn port) s = .next s) ∧
    (port < 8 → ∃ t, exec (.creditReturn port) s = .next t ∧ t.mem = s.mem ∧ t.strands = s.strands ∧ t.parts = s.parts ∧
      ((∀ x ∈ s.signals, ¬its x) → Tbl.get 0 t.creditsUsed port = used - 1 ∧ t.signals = s.signals ∧ t.peerOut = s.peerOut) ∧
      (∀ a x b, s.signals = a ++ x :: b → (∀ y ∈ a, ¬its y) → its x → used - 1 < Config.portCredits →
        t.signals = a ++ b ∧ Tbl.get 0 t.creditsUsed port = used - 1 + 1 ∧
        ∃ cls, (cls = x.cls ∨ x.cls = 3 ∧ cls = 2) ∧ t.peerOut = .signal x.part x.peer x.ctr x.tag cls :: s.peerOut))) ∧
  (∀ s, exec .class3Window s = .next (if s.class3At + 1024 ≤ (s.die 0).all then { s with class3 := [], class3At := s.class3At + 1024 } else s))

namespace Sys2Proof.Claim

open Sys2Proof.Machine

/-! Partitions and resets (R332 to R338, R352, R354, R355, R366 to R368). -/

/-- The mailbox of a function answers: function 0's once there is power, a virtual function's from stage 2 on (R366). -/
def Answers (s : State) (fn : Nat) : Prop := s.powered = true ∧ (fn = 0 ∨ fn ≤ 32 ∧ s.stage = 2)

/-- A command that only function 0 gives, and only from stage 2 on, is performed (R355). -/
def Manages (s : State) (fn : Nat) : Prop := s.powered = true ∧ fn = 0 ∧ s.stage = 2

/-- A command of the management mailbox is refused: only its response is written and its vector signalled (R355, R359). -/
def Refused (s t : State) (fn : Nat) : Prop := ∃ b, t = { s with response := Tbl.set [] s.response fn b, msix := (fn, 0) :: s.msix }

/-- `w` answered with an accepted command. -/
def Accepted (w t : State) (fn : Nat) : Prop := ∃ b, t = { w with response := Tbl.set [] w.response fn b, msix := (fn, 0) :: w.msix }

/-- A command of function 0 that it is not the moment for: refused where the mailbox answers, without effect where it does not. -/
def Guarded (i : Instr) (fn : Nat) (s : State) : Prop :=
  (¬Answers s fn → exec i s = .next s) ∧ (Answers s fn → ¬Manages s fn → ∃ t, exec i s = .next t ∧ Refused s t fn)

/-- A reading record of partition `p` has been produced: SEQ of its number counts it, and its ring holds it last (R350, R351). -/
def Reads (s t : State) (p : Nat) (kind : Nat) : Prop :=
  ∃ r, ((t.part p).ring.getLast? = some r) ∧ (t.part p).ring.length ≤ 64 ∧ Tbl.get 0 t.seq p = Tbl.get 0 s.seq p + 1 ∧
    r.body.extractLsb' 0 64 = BitVec.ofNat 64 (kind % 256 * 256 + p % 64) ∧ r.body.extractLsb' 64 64 = s.epoch ∧ r.body.extractLsb' 128 64 = Tbl.get 0 s.seq p + 1

/-- What every other partition that is not FREE has satisfies `f` (R355). -/
def Disjoint (s : State) (part : Nat) (f : PartRecord → Prop) : Prop := ∀ e ∈ s.parts, e.1 ≠ part → e.2.st ≠ .free → f e.2.rcd

/-- The sum of a share over the other partitions that are not FREE. -/
def othersSum (s : State) (part : Nat) (f : PartRecord → Nat) : Nat :=
  ((s.parts.filter (fun e => decide (e.1 ≠ part ∧ e.2.st ≠ .free))).map (fun e => f e.2.rcd)).sum

/-- Two ranges of numbers share none. -/
def Apart (a n b m : Nat) : Prop := n = 0 ∨ m = 0 ∨ b + m ≤ a ∨ a + n ≤ b

/-- The local vaults of the cores of a mask are reserved (R334). -/
def LocalsReserved (clm : W32) (r : PartRecord) : Prop := ∀ c ∈ coresOf clm, ∀ v, v = 2 * c ∨ v = 2 * c + 1 → v ∈ r.win.drop (r.win.length - r.rv)

/-- The backing area stands at a multiple of 64 KiB in the reserved vaults, apart from the shadow areas, the expert pool and the hotness area (R81). -/
def BackingFits (r : PartRecord) : Prop :=
  let n := 65536 * r.bklen
  r.bkbase % 65536 = 0 ∧ (n = 0 ∨ 2 ^ 25 * (r.win.length - r.rv) ≤ r.bkbase ∧ r.bkbase + n ≤ 2 ^ 25 * r.win.length) ∧
    (∀ c ∈ coresOf r.clm, ∀ v, v = 2 * c ∨ v = 2 * c + 1 → Apart r.bkbase n (2 ^ 25 * (r.win.takeWhile (fun x => decide (x ≠ v))).length + r.shadowbase) 2097152) ∧
    Apart r.bkbase n r.pbase (4096 * r.fsz * r.nfr) ∧ Apart r.bkbase n r.hsbase 262144

/-- A CREATE is not refused (R81, R334, R355, R366). -/
def CreateFits (s : State) (part : Nat) (r : PartRecord) : Prop :=
  part < 32 ∧ (s.part part).st = .free ∧ Disjoint s part (fun x => x.clm &&& r.clm = 0) ∧
    1 ≤ r.win.length ∧ r.win.length ≤ 512 ∧ r.rv ≤ r.win.length ∧ r.win.Nodup ∧
    (∀ v ∈ r.win, v < 512 ∧ v ∉ s.failed ∧ Disjoint s part (fun x => v ∉ x.win)) ∧
    r.cbase + r.ccnt ≤ 65536 ∧ Disjoint s part (fun x => Apart r.cbase r.ccnt x.cbase x.ccnt) ∧
    r.ebase + r.ecnt ≤ 16384 ∧ Disjoint s part (fun x => Apart r.ebase r.ecnt x.ebase x.ecnt) ∧
    LocalsReserved r.clm r ∧ BackingFits r ∧
    r.dq + othersSum s part (·.dq) ≤ 8192 ∧ r.cxlsh + othersSum s part (·.cxlsh) ≤ 256 ∧ r.c3sh + othersSum s part (·.c3sh) ≤ 16

/-- A RESUME on the clusters of a mask is not refused (R334, R335, R355); that it needs cores that are not retired is the model's choice (log 71). -/
def ResumeFits (s : State) (part : Nat) (clm : W32) : Prop :=
  let r := (s.part part).rcd
  part < 32 ∧ (s.part part).st = .frozen ∧ popcount clm = popcount r.clm ∧ Disjoint s part (fun x => x.clm &&& clm = 0) ∧ LocalsReserved clm r ∧
    ∀ c ∈ coresOf clm, (s.core c).retired = false

/-- A strand frozen as it is (R160, R162). -/
def FrozenLife (a b : Life) : Prop :=
  match a with
  | .ready | .running => b = .frozenReady
  | .parked c => b = .frozenParked c
  | .exiting => b = .frozenExiting
  | _ => b = a

end Sys2Proof.Claim

/-- R81, R221, R334, R342, R344, R351, R354, R355: CREATE gives a FREE number its record at the widths of its card, new queues, counters and tables at zero, empty slots whose generations go on, and a creation record; it is refused when a resource is taken. DESTROY ends everything of its partition: the destruction record carries its final energy counters, which are cleared after it (R346, R351), while its error counters wait for a creation (R345). That KOK is zero at creation whatever KOK0 to KOK7 of the record are (log 53), that the registers of its queues outlast a partition (log 33), that the vaults of a record are named once and the ring keeps the records of its number (log 31, 33, 40), OVID, IDX and CNT of an empty slot (log 4), and the stages in which a command is refused or not answered (log 34): the model's choices. -/
def Obligations.PartitionLifecycle : Prop :=
  (∀ fn part rec s, let r := fitRecord rec
    Claim.Guarded (.create fn part rec) fn s ∧
    (Claim.Manages s fn → ¬Claim.CreateFits s part r → ∃ t, exec (.create fn part rec) s = .next t ∧ Claim.Refused s t fn) ∧
    (Claim.Manages s fn → Claim.CreateFits s part r → ∃ w t, exec (.create fn part rec) s = .next t ∧ Claim.Accepted w t fn ∧ Claim.Reads s w part 3 ∧
      (let p := w.part part
       p = { Part.free with st := .live, rcd := r, ring := p.ring } ∧ ∀ k, p.queue k = LQueue.zero) ∧
      (∀ c, c < 65536 → r.cbase ≤ c → c < r.cbase + r.ccnt → w.counter c = 0) ∧ (∀ c, (c < r.cbase ∨ r.cbase + r.ccnt ≤ c) → w.counter c = s.counter c) ∧
      (∀ c, Tbl.get 0 w.act c = if c ∈ clustersOf r.clm then 0 else Tbl.get 0 s.act c) ∧
      (∀ c, c ∈ coresOf r.clm → w.core c = { Core.reset with ebudget := r.ebud, slots := (w.core c).slots, seqs := (s.core c).seqs,
                                                              spareUsed := (s.core c).spareUsed, retired := (s.core c).retired } ∧
        (w.core c).slot 0 = Slot.firmware ∧ ∀ j, 1 ≤ j → j < 64 → (w.core c).slot j = ⟨0, 0, 0, ((s.core c).slot j).gen, 0, .empty⟩) ∧
      (∀ c, c ∉ coresOf r.clm → w.core c = s.core c) ∧
      (∀ q, q ≠ part → w.part q = s.part q) ∧ w.mem = s.mem ∧ w.strands = s.strands ∧ w.frames = s.frames)) ∧
  (∀ fn part s, Claim.Guarded (.destroy fn part) fn s ∧
    (Claim.Manages s fn → (32 ≤ part ∨ (s.part part).st = .free) → ∃ t, exec (.destroy fn part) s = .next t ∧ Claim.Refused s t fn) ∧
    (Claim.Manages s fn → part < 32 → (s.part part).st ≠ .free → ∃ w t, exec (.destroy fn part) s = .next t ∧ Claim.Accepted w t fn ∧
      (let p := w.part part
       p = { Part.free with ring := p.ring, errs := p.errs, queues := p.queues, absentQ := p.absentQ, eventQ := p.eventQ } ∧ p.energy = Energy.zero) ∧
      (∀ e ∈ w.strands, e.2.part ≠ part) ∧ (∀ e ∈ w.frames, e.2.part ≠ part) ∧ (∀ x ∈ w.signals, x.part ≠ part) ∧
      (∀ e ∈ w.dies, (∀ x ∈ e.2.tlb, x.part ≠ part) ∧ (∀ x ∈ e.2.walks, x.part ≠ part) ∧ (∀ x ∈ e.2.waits, x.1 ≠ part) ∧ ∀ x ∈ e.2.waiters, x.1 ≠ part) ∧
      (∀ c ∈ coresOf (s.part part).rcd.clm, (w.core c).running = none ∧ (w.core c).sent = [] ∧ (w.core c).tlb.all (fun x => decide (x.part ≠ part)) = true) ∧
      Claim.Reads s w part 4 ∧
      ((s.part part).st = .frozen → (w.part part).errs = (s.part part).errs ∧
        (∃ r, (w.part part).ring.getLast? = some r ∧ let n := (s.part part).energy
          r.body.extractLsb' 192 256 = n.idle ++ n.fabric ++ n.vault ++ n.compute) ∧
        (∀ k, (w.part part).queue k = { (s.part part).queue k with stage := .fresh, cur := 0, counts := [] }) ∧
        (w.part part).absentQ = (s.part part).absentQ ∧ (w.part part).eventQ = (s.part part).eventQ ∧
        (∀ c, (w.core c).slots = (s.core c).slots) ∧ (∀ q, q ≠ part → w.part q = s.part q) ∧ ∀ u, (s.strand u).part ≠ part → w.strand u = s.strand u)))

/-- R162, R332, R334, R335, R355, R359: PREEMPT freezes a LIVE partition: its runs end, every strand of a frame that is saved keeps its registers and its park, its cores are bare, and the report is due; RESUME on as many clusters brings the scratchpads back to the cores that take the saved cores' places, gives the partition its strands there, and has their queued work replayed, loads that have not returned read again. That values performed at the freeze return then (log 70), what the freeze keeps (log 19, 21, 69), when a strand's AGE begins anew and since when it has been Ready (log 24), that one with copy-channel commands waits for their replay (log 55), what refuses a RESUME (log 41, 71) and the stages in which the commands act (log 34) are the model's choices. -/
def Obligations.PreemptAndResume : Prop :=
  (∀ fn part s, Claim.Guarded (.preempt fn part) fn s ∧
    (Claim.Manages s fn → (32 ≤ part ∨ (s.part part).st ≠ .live) → ∃ t, exec (.preempt fn part) s = .next t ∧ Claim.Refused s t fn) ∧
    (Claim.Manages s fn → part < 32 → (s.part part).st = .live → ∃ t, exec (.preempt fn part) s = .next t ∧ Claim.Accepted (freeze s part) t fn ∧
      (t.part part).st = .frozen ∧ (t.part part).freezing = true ∧ (t.part part).rcd = (s.part part).rcd ∧ (t.part part).ert = (s.part part).ert ∧
      (t.part part).launches = (s.part part).launches ∧ ((∀ c, (s.core c).sent = []) → (t.part part).queues = (s.part part).queues) ∧
      (t.part part).saved.map (·.1) = coresOf (s.part part).rcd.clm ∧
      (∀ c, c ∈ coresOf (s.part part).rcd.clm → (t.core c).running = none ∧ (t.core c).sent = []) ∧
      (∀ u, let a := s.strand u
        a.part = part → (∀ c, (s.core c).sent = []) → (∀ e ∈ s.strands, e.2.part = part → e.2.twin = none) →
        (∀ f ∈ s.frames, f.2.part = part → discards s f.2 = false) →
        let b := t.strand u
        Claim.FrozenLife a.life b.life ∧ (∀ r ∈ b.rets, (r.kind.load = true ∨ r.kind = .mrd) → a.life.live = true → ∀ x ∈ r.units, x.val = none) ∧
          (a.locks = [] → (∀ r ∈ a.rets, (r.kind.load = true ∨ r.kind = .mrd) → ∀ x ∈ r.units, x.val = none) → { b with life := a.life, ifr := a.ifr } = a)))) ∧
  (∀ part s, ((s.part part).freezing = false → exec (.freezeComplete part) s = .next s) ∧
    ((s.part part).freezing = true → ∃ t, exec (.freezeComplete part) s = .next t ∧ t = { s with parts := t.parts, msix := (part + 1, 4) :: s.msix } ∧
      t.part part = { s.part part with freezing := false } ∧ ∀ q, q ≠ part → t.part q = s.part q)) ∧
  (∀ fn part clm s, let p := s.part part
    Claim.Guarded (.resume fn part clm) fn s ∧
    (Claim.Manages s fn → ¬Claim.ResumeFits s part clm → ∃ t, exec (.resume fn part clm) s = .next t ∧ Claim.Refused s t fn) ∧
    (Claim.Manages s fn → Claim.ResumeFits s part clm → ∃ w t, exec (.resume fn part clm) s = .next t ∧ Claim.Accepted (wakeAll w) t fn ∧
      (w.part part).st = .live ∧ (w.part part).saved = [] ∧ (w.part part).rcd = { p.rcd with clm := clm } ∧
      (∀ q, q ≠ part → w.part q = s.part q) ∧
      ((∀ (f : Nat × Frame), f ∈ s.frames → f.2.part = part → f.2.reborn = []) →
        (p.saved.map (·.1)).Nodup → (∀ e ∈ p.saved, e.1 < 256) → p.rcd.shadowbase < 2 ^ 25 →
        (∀ (i c old : Nat), (coresOf clm)[i]? = some c → (p.saved.map (·.1))[i]? = some old → ∀ o, o < 524288 → w.mem.read (spadKey c o) = s.mem.read (shadowKey p old 1 o)) ∧
        ∀ (u : Nat), (s.strand u).part = part → (s.strand u).life ≠ .gone →
          let a := s.strand u
          let b := w.strand u
          (∀ (i c : Nat), (coresOf clm)[i]? = some c → (p.saved.map (·.1))[i]? = some a.core → b.core = c) ∧
          b.life = (match a.life with
            | .frozenReady => if a.copy.cmds = [] then .ready else .parked .replay
            | .frozenParked c => .parked c
            | .frozenExiting => .exiting
            | l => l) ∧
          b = { a with core := b.core, life := b.life, ifr := [], age := 0, sq := b.sq, rets := b.rets, locks := b.locks, ahead := b.ahead, copy := { a.copy with cmds := b.copy.cmds }, mx := { a.mx with cmds := b.mx.cmds } } ∧
          b.sq.map (fun e => (e.ord, e.tag, e.replayed)) = a.sq.map (fun e => (e.ord, e.tag, e.replayed)) ∧
          b.copy.cmds.map (·.tag) = a.copy.cmds.map (·.tag) ∧ (∀ c ∈ b.copy.cmds, c.replayed = true) ∧
          b.rets.map (·.tag) = a.rets.map (·.tag) ∧
          b.locks.map (·.ord) = a.locks.map (·.ord) ∧ ∀ r ∈ b.rets, r.kind.load = true → ∀ x ∈ r.units, x.val = none)))

/-- R352, R355, R366 to R368: warm reset halts every core, clears the core memories, drops the TLBs and what LIVE partitions run, halts every launch queue with ERR 4 and keeps what FROZEN ones need; cold reset and loss of power keep the pool, SEQ and the fused version and count EPOCH; start goes from power to stage 1, which loads the runtime and raises the fuses or fails with a code, and from there to stage 2; after a warm reset it loads the same firmware where one had been loaded. That a cold reset counts SEQ of every partition that is not FREE, which is how "live" is read (log 31), that a loss of power counts EPOCH (log 33), that HCNT is lost at a warm reset, what a reset keeps of the units and the cores, in which stages it is answered, and that stage 2 follows as an event of its own are the model's choices (log 33, 34, 35, 79). -/
def Obligations.Resets : Prop :=
  (∀ fn s, (¬Claim.Answers s fn → exec (.warmReset fn) s = .next s) ∧
    (Claim.Answers s fn → fn ≠ 0 → ∃ t, exec (.warmReset fn) s = .next t ∧ Claim.Refused s t fn) ∧
    (Claim.Answers s fn → fn = 0 → ∃ w t, exec (.warmReset fn) s = .next t ∧ Claim.Accepted w t fn ∧ w.stage = 0 ∧ w.warmed = (s.warmed || decide (s.stage ≠ 0)) ∧
      (∀ e ∈ w.strands, (s.part e.2.part).st = .frozen) ∧ (∀ u, (s.part (s.strand u).part).st = .frozen → w.strand u = s.strand u) ∧
      (∀ e ∈ w.frames, (s.part e.2.part).st = .frozen) ∧ (∀ x ∈ w.signals, (s.part x.part).st = .frozen) ∧
      (∀ c, (w.core c).running = none ∧ (w.core c).sent = [] ∧ (w.core c).tlb = [] ∧ (w.core c).ebudget = (s.core c).ebudget ∧ (w.core c).lastchg = (s.core c).lastchg) ∧
      (∀ d, (w.die d).tlb = [] ∧ (w.die d).walks = [] ∧ (w.die d).waits = [] ∧ (w.die d).cycle = (s.die d).cycle) ∧
      (∀ k, w.mem.read k = if k < 2 ^ 65 ∨ 2 ^ 68 ≤ k then s.mem.read k else 0) ∧
      (∀ p, (w.part p).rcd = (s.part p).rcd ∧ (w.part p).st = (s.part p).st ∧ (w.part p).ring = (s.part p).ring ∧ (w.part p).energy = (s.part p).energy ∧
        (w.part p).errs = (s.part p).errs ∧ (w.part p).absentQ = (s.part p).absentQ ∧ (w.part p).eventQ = (s.part p).eventQ) ∧
      (∀ p k, p < 32 → k < 8 → ((w.part p).queue k).halt = true ∧ ((w.part p).queue k).err = 4 ∧ ((w.part p).queue k).head = ((s.part p).queue k).head) ∧
      (∀ p e, p < 32 → (s.part p).st = .live → let x := (w.part p).entry e
        x.st = .absent ∧ x.rc = ((s.part p).entry e).rc ∧ x.inuse = 0 ∧ x.qcnt = 0 ∧ x.waiters = []) ∧
      (∀ p, (s.part p).st = .frozen → (w.part p).ert = (s.part p).ert ∧ (w.part p).tags = (s.part p).tags ∧ (w.part p).results = (s.part p).results ∧ (w.part p).saved = (s.part p).saved) ∧
      ∀ c, w.counter c = s.counter c)) ∧
  (∀ i s, (i = .coldReset ∨ i = .powerLoss) → (s.powered = false → exec i s = .next s) ∧ (s.powered = true → ∃ t, exec i s = .next t ∧
    t.powered = decide (i = .coldReset) ∧ t.stage = 0 ∧ t.epoch = s.epoch + 1 ∧ t.fused = s.fused ∧ t.strands = [] ∧ t.frames = [] ∧ t.parts = [] ∧ t.counters = [] ∧ t.dies = [] ∧
      (∀ k, t.mem.read k = if k < 2 ^ 64 then s.mem.read k else 0) ∧
      ∀ p, Tbl.get 0 t.seq p = Tbl.get 0 s.seq p + (if i = .coldReset then BitVec.ofNat 64 ((s.parts.filter (fun e => decide (e.1 = p) && decide (e.2.st ≠ .free))).length) else 0))) ∧
  (∀ s, exec .powerGood s = .next (if s.powered = true then s else { s with powered := true, stage := 0, failCode := 0 })) ∧
  (∀ r s, (s.powered = false ∨ 2 ≤ s.stage → exec (.stage1 r) s = .next s) ∧
    (s.powered = true → s.stage = 1 → exec (.stage1 r) s = .next { s with stage := 2 }) ∧
    (s.powered = true → s.stage = 0 →
      let version := if s.warmed then s.version else r.version
      let code : BitVec 8 := if r.fail = 1 then 1 else if version.toNat < s.fused.toNat then 2 else r.fail
      ∃ t, exec (.stage1 r) s = .next t ∧ t.strands = s.strands ∧ t.parts = s.parts ∧ t.failCode = code ∧
        t.fused.toNat = (if code = 1 ∨ code = 2 then s.fused.toNat else max s.fused.toNat r.minimum.toNat) ∧
        if code ≠ 0 then t.stage = 0 ∧ t.mem = s.mem
        else t.stage = 1 ∧ t.version = version ∧ t.failed = r.failed ∧ t.firmware = (if s.warmed then s.firmware else r.firmware) ∧
          (∀ b, b < 4096 → t.mem.read (firmwareKey b) = if s.warmed then s.mem.read (firmwareKey b) else r.runtime.getD b 0) ∧
          (∀ k, (k < firmwareKey 0 ∨ firmwareKey 0 + 4096 ≤ k) → t.mem.read k = s.mem.read k) ∧
          ∀ l, Tbl.get 0 t.links l ≤ Config.linkLanes l))

namespace Sys2Proof.Claim

open Sys2Proof.Machine

/-! The lantern, energy, clocks and errors. -/

/-- The energy fields of a reading record: the four counters, CYCLE of both dies and SERIAL (R350). -/
def BodyHolds (s : State) (p : Nat) (r : Reading) : Prop :=
  let e := (s.part p).energy
  r.body.extractLsb' 192 64 = e.compute ∧ r.body.extractLsb' 256 64 = e.vault ∧ r.body.extractLsb' 320 64 = e.fabric ∧ r.body.extractLsb' 384 64 = e.idle ∧
    r.body.extractLsb' 448 64 = s.cyc0 ∧ r.body.extractLsb' 512 64 = s.cyc1 ∧ r.body.extractLsb' 576 64 = Config.serial

/-- A function may name a partition: function 0 any, a virtual function its own (R355). -/
def Names (fn part : Nat) : Prop := part < 32 ∧ (fn = 0 ∨ fn = part + 1)

/-- A body has been put in the function's result buffer, and the command is accepted. -/
def Delivered (s t : State) (fn : Nat) (body : List Byte) : Prop :=
  Accepted { s with result := Tbl.set [] s.result fn body } t fn

/-- Those among whom the energy of an epoch is divided: the partitions that are not FREE, then UNASSIGNED (R347). -/
def takersOf (s : State) : List (Option Nat) := (s.parts.filter (fun e => decide (e.2.st ≠ .free))).map (fun e => some e.1) ++ [none]

/-- A taker's part of an energy divided by weights: the whole units up to it less those before it, so that the parts add up to the energy (log 29). -/
def splitShare (l : List (Option Nat)) (w : Option Nat → Nat) (energy : Nat) (p : Option Nat) : Nat :=
  let total := (l.map w).sum
  let before := ((l.takeWhile (fun x => decide (x ≠ p))).map w).sum
  if total = 0 then 0 else energy * (before + w p) / total - energy * before / total

/-- The count of a taker at a source; what belongs to a FREE partition counts for UNASSIGNED (R347). -/
def countAt (s : State) (x : SharedSource) (p : Option Nat) : Nat :=
  ((x.counts.filter (fun e => decide ((match e.1 with
    | some q => if (s.part q).st = .free then none else some q
    | none => none) = p))).map (·.2)).sum

/-- A taker's part of the sources of a category by their counts, in 2^-32 microjoule (R347). -/
def part (s : State) (l : List SharedSource) (p : Option Nat) : Nat := (l.map (fun x => splitShare (takersOf s) (countAt s x) x.energy p)).sum

/-- The energy of sources without a count, which is divided as the base is (R347). -/
def uncountedEnergy (l : List SharedSource) : Nat := ((l.filter (fun x => decide ((x.counts.map (·.2)).sum = 0))).map (·.energy)).sum

/-- w_p (R347). -/
def shareWeight (p : Part) : Nat := 16 * popcount p.rcd.clm + p.rcd.win.length

/-- The weight of a taker: w_p, or what is left of 1,024 for UNASSIGNED (R347). -/
def weightFor (s : State) : Option Nat → Nat
  | some p => shareWeight (s.part p)
  | none => 1024 - ((s.parts.filter (fun e => decide (e.2.st ≠ .free))).map (fun e => shareWeight (s.part e.1))).sum

/-- The clusters of an epoch as sources: each by the cycles of die 0 for which it had each owner (R347). -/
def clustersAt (s : State) (m : EpochMeasure) : List SharedSource := (m.clusters.take 32).zipIdx.map (fun e => clusterSource s e.2 e.1)

/-- The sources below `n` whose energies an epoch measures, each once, with the counts that the device kept of them by partition, 32 for none (R347). -/
def countedAt (t : Tbl Nat) (n : Nat) (l : List (Nat × Nat)) : List SharedSource :=
  (List.range n).filterMap (fun i => (l.find? (fun e => decide (e.1 = i))).map (fun e =>
    { energy := e.2, counts := (List.range 32).map (fun p => (some p, Tbl.get 0 t (countKey i p))) ++ [(none, Tbl.get 0 t (countKey i 32))] }))

/-- The stacked SRAM dies of an epoch as sources, by the 128-byte requests to their vaults (R9, R170, R347). -/
def sramsAt (s : State) (m : EpochMeasure) : List SharedSource := countedAt s.requests 8 m.srams

/-- The links of an epoch as sources, by the bytes they moved: 25 ports and the collar (R11, R347). -/
def linksAt (s : State) (m : EpochMeasure) : List SharedSource := countedAt s.moved 26 m.links

/-- A share credited to a counter in whole microjoules with its remainder (R347). -/
def Credited (c : W64) (rem : W32) (share : Nat) (c' : W64) (rem' : W32) : Prop :=
  c' = c + BitVec.ofNat 64 ((share + rem.toNat) / 2 ^ 32) ∧ rem'.toNat = (share + rem.toNat) % 2 ^ 32

/-- The counters of a taker after an epoch (R347). -/
def Attributed (s : State) (m : EpochMeasure) (p : Option Nat) (a b : Energy) : Prop :=
  Credited a.compute a.remC (part s (clustersAt s m) p) b.compute b.remC ∧ Credited a.vault a.remV (part s (sramsAt s m) p) b.vault b.remV ∧
    Credited a.fabric a.remF (part s (linksAt s m) p) b.fabric b.remF ∧
    Credited a.idle a.remI (splitShare (takersOf s) (weightFor s) (m.base + uncountedEnergy (clustersAt s m) + uncountedEnergy (sramsAt s m) + uncountedEnergy (linksAt s m)) p)
      b.idle b.remI

/-- Only die `d` has changed. -/
def OnlyDie (s t : State) (d : Nat) : Prop := t = { s with dies := t.dies } ∧ ∀ e, e ≠ d → t.die e = s.die e

/-- The partition that owns the core or the vault of a unit, or whose traffic a link serves or whose access met a device-wide block (R345). -/
def Owns (s : State) (u : HwUnit) (link : Option Nat) (p : Nat) : Prop :=
  (s.part p).st ≠ .free ∧ match u with
    | .lane c _ | .spadBank c _ | .accBank c _ | .engine c => c ∈ coresOf (s.part p).rcd.clm
    | .vaultRow v _ => v ∈ (s.part p).rcd.win
    | .linkLane _ _ | .block => link = some p

/-- One more error counted: to the partition that owns the unit, or to the device where none does (R345). -/
def Counted (s t : State) (u : HwUnit) (link : Option Nat) (f : ErrCnt → ErrCnt) : Prop :=
  (∀ p, Owns s u link p → (∀ q, Owns s u link q → q = p) → (t.part p).errs = f (s.part p).errs ∧ (∀ q, q ≠ p → t.part q = s.part q) ∧ t.errs = s.errs) ∧
  ((∀ p, ¬ Owns s u link p) → t.errs = f s.errs ∧ t.parts = s.parts)

/-- A strand that has been killed (R322): gone, or waiting for room in the event queue. -/
def Dead (t : State) (v : Nat) : Prop := (t.strand v).life = .gone ∨ (t.strand v).life = .killed

/-- The addresses of the instruction of a strand's accesses with an issue number, wherever one of them waits (R179, R336). -/
def accessPcs (s : State) (u n : Nat) : List (BitVec 54) :=
  let t := s.strand u
  (t.sq.filter (fun e => decide (e.ord = n))).map (·.pc) ++ ((s.core t.core).sent.filter (fun e => decide (e.sid = u ∧ e.entry.ord = n))).map (·.entry.pc) ++
    ((t.rets ++ t.locks).filter (fun r => decide (r.ord = n))).map (·.pc) ++ (t.copy.cmds.filter (fun c => decide (c.ord = n))).map (·.pc) ++
    (t.mx.cmds.filter (fun c => decide (c.ord = n))).map (·.pc)

/-- The kill record of R361, its SEQ still 0. -/
def KillRecord (r : BitVec 256) (t : Strand) (code : W64) (pc : BitVec 54) : Prop :=
  r.extractLsb' 246 10 = 0 ∧ r.extractLsb' 192 54 = pc ∧ r.extractLsb' 128 64 = code ∧ r.extractLsb' 96 32 = t.frameId ∧ r.extractLsb' 64 32 = t.launchId ∧
    r.extractLsb' 32 32 = 0 ∧ r.extractLsb' 12 20 = 0 ∧ r.extractLsb' 8 4 = BitVec.ofNat 4 t.sidx ∧ r.extractLsb' 0 8 = 2

/-- The units of a core under self-test: its 32 lanes, its 32 scratchpad banks, its 16 accumulator banks, its matrix engine (R10, R371, R372). -/
def UnderTest (t : State) (k : Nat) : Prop :=
  (∀ l, l < 32 → HwUnit.lane k l ∈ t.testing ∧ HwUnit.spadBank k l ∈ t.testing) ∧ (∀ b, b < 16 → HwUnit.accBank k b ∈ t.testing) ∧ HwUnit.engine k ∈ t.testing

/-- The registers of a strand are those of its last checkpoint, and it holds no write (R371). -/
def AtCheckpoint (s t : State) (u : Nat) : Prop :=
  let c := Tbl.get Strand.blank s.ckpts u
  let b := t.strand u
  b.v = c.v ∧ b.q = c.q ∧ b.p = c.p ∧ b.sr = c.sr ∧ b.b = c.b ∧ b.f = c.f ∧ b.g = c.g ∧ b.pc = c.pc ∧ b.stack = c.stack ∧ b.held = [] ∧ b.misses = 1

end Sys2Proof.Claim

/-- R350, R351, R355, R369: READ-SIGN produces a signed record of the partition's counters, STATUS answers in every stage with its 64 bytes, QUOTE and CERT put their bodies in the function's result buffer; a command is refused where R355 says so. The digest of a quote is taken of every field of the partition's record, STATE among them. That a record carries SEQ as it stands after it has been counted, when a record leaves the ring (log 31), and when a response is given (log 34) are the model's choices. -/
def Obligations.LanternAnswers : Prop :=
  (∀ i fn s, ((∃ p, i = .readSign fn p) ∨ i = .status fn ∨ (∃ p n, i = .quote fn p n) ∨ i = .cert fn) → ¬Claim.Answers s fn → exec i s = .next s) ∧
  (∀ st r st' r', recordNumbers st r = recordNumbers st' r' → st = st' ∧ r = r') ∧
  (∀ fn part s, Claim.Answers s fn →
    (Claim.Names fn part ∧ s.stage = 2 ∧ (s.part part).st ≠ .free → ∃ w t r, exec (.readSign fn part) s = .next t ∧ Claim.Accepted w t fn ∧
      Claim.Reads s w part 2 ∧ (w.part part).ring.getLast? = some r ∧ Claim.BodyHolds s part r ∧ w.part part = { s.part part with ring := (w.part part).ring } ∧
      (∀ q, q ≠ part → w.part q = s.part q) ∧ w.mem = s.mem ∧ w.strands = s.strands) ∧
    (¬ (Claim.Names fn part ∧ s.stage = 2 ∧ (s.part part).st ≠ .free) → ∃ t, exec (.readSign fn part) s = .next t ∧ Claim.Refused s t fn)) ∧
  (∀ fn s, Claim.Answers s fn → s.stage < 3 → ∃ t b, exec (.status fn) s = .next t ∧
    t = { s with response := Tbl.set [] s.response fn b, msix := (fn, 0) :: s.msix } ∧ b.length = 64 ∧ b.getD 0 0 = BitVec.ofNat 8 s.stage ∧ b.getD 1 0 = s.failCode ∧
      Claim.little ((b.drop 2).take 2) = (if s.stage = 0 then 0 else s.version.toNat) ∧ Claim.little ((b.drop 4).take 4) = s.failed.length % 2 ^ 32 ∧
      Claim.little ((b.drop 8).take 8) = s.epoch.toNat ∧ Claim.little ((b.drop 16).take 8) = Config.serial.toNat ∧ ∀ i, 24 ≤ i → b.getD i 0 = 0) ∧
  (∀ fn part nonce s, Claim.Answers s fn →
    ((match part with
      | some p => Claim.Names fn p
      | none => fn = 0) → ∃ t b, exec (.quote fn part nonce) s = .next t ∧ Claim.Delivered s t fn b ∧ b.length = 3884 ∧
        (∀ i, i < 32 → b.getD i 0 = nonce.getD i 0) ∧ Claim.little ((b.drop 32).take 8) = Config.serial.toNat ∧ Claim.little ((b.drop 40).take 8) = s.epoch.toNat ∧
        Claim.little ((b.drop 48).take 4) = Config.romVersion.toNat ∧ (b.getD 54 1 = 0 ∧ b.getD 55 1 = 0) ∧ (∀ i, i < 32 → b.getD (120 + i) 1 = match part with
          | some p => (Config.recordDigest (recordNumbers (s.part p).st (s.part p).rcd)).getD i 0
          | none => 0) ∧
        ∀ i, i < 1312 → b.getD (152 + i) 0 = Config.energyKey i) ∧
    (¬ (match part with
      | some p => Claim.Names fn p
      | none => fn = 0) → ∃ t, exec (.quote fn part nonce) s = .next t ∧ Claim.Refused s t fn)) ∧
  (∀ fn s, Claim.Answers s fn →
    (s.stage = 2 → ∃ t, exec (.cert fn) s = .next t ∧ Claim.Delivered s t fn ((List.range (min Config.certLen 65536)).map Config.certChain)) ∧
    (s.stage ≠ 2 → ∃ t, exec (.cert fn) s = .next t ∧ Claim.Refused s t fn))

/-- R341, R346, R347, R349, R351, R373, R374: at an epoch's end every partition and UNASSIGNED are credited with their shares, and the periodic records follow every 2^30 cycles; no share is lost; ENERGY is copied to a die at each 2^20 of its cycles; a cycle waits for what is due; a droop response swallows every odd pulse for 64 master cycles, and a clock-source hop waits for its end. That the periodic records are those of every partition that is not FREE, which is how "live" is read, and that they follow the epoch end which falls on the 2^30th cycle itself (log 31), how a unit that cannot be divided is given (log 29), what counts as a request and as the bytes of a link (log 58), and that a cycle waits (log 39, 59) are the model's choices. -/
def Obligations.EnergyAndClock : Prop :=
  (∀ (l : List (Option Nat)) w energy, (l.map w).sum ≠ 0 → l.Nodup → (l.map (Claim.splitShare l w energy)).sum = energy) ∧
  (∀ m s, ((s.die 0).all < s.epochAt + 2 ^ 20 → exec (.energyEpochEnd m) s = .next s) ∧
    (s.epochAt + 2 ^ 20 ≤ (s.die 0).all → ∃ t, exec (.energyEpochEnd m) s = .next t ∧ t.epochAt = s.epochAt + 2 ^ 20 ∧
      t.cyc0 = (s.die 0).cycle ∧ t.cyc1 = (s.die 1).cycle ∧ t.owned = [] ∧ t.requests = [] ∧ t.moved = [] ∧ t.mem = s.mem ∧ t.strands = s.strands ∧
      (∀ p, (s.part p).st ≠ .free → Claim.Attributed s m (some p) (s.part p).energy (t.part p).energy) ∧
      Claim.Attributed s m none s.unassigned t.unassigned ∧
      if s.readingAt + 2 ^ 30 ≤ (s.die 0).all then t.readingAt = s.readingAt + 2 ^ 30 ∧
        ∀ p, Tbl.get 0 t.seq p = Tbl.get 0 s.seq p + BitVec.ofNat 64 ((s.parts.filter (fun e => decide (e.1 = p) && decide (e.2.st ≠ .free))).length)
      else t.readingAt = s.readingAt ∧ t.seq = s.seq)) ∧
  (∀ die s, let d := s.die die
    (¬(die < 2 ∧ d.refreshDue = true) → exec (.energyRefresh die) s = .next s) ∧
    (die < 2 → d.refreshDue = true → (s.parts.map (·.1)).Nodup → ∃ t, exec (.energyRefresh die) s = .next t ∧ Claim.OnlyDie s t die ∧
      t.die die = { d with refreshDue := false, energy := (t.die die).energy } ∧
      ∀ p, Tbl.get 0 (t.die die).energy p = (let e := (s.part p).energy
        if (s.part p).st = .free then Tbl.get 0 d.energy p
        else BitVec.ofNat 64 ((e.compute.toNat + e.vault.toNat + e.fabric.toNat + e.idle.toNat) / 250000 * 250000)))) ∧
  (∀ die s, die < 2 → let d := s.die die
    let due : Prop := d.refreshDue = true ∨ die = 0 ∧ (s.epochAt + 2 ^ 20 ≤ d.all ∨ s.class3At + 1024 ≤ d.all)
    let swallowed : Prop := 1 < d.droop ∧ d.all % 2 = 1
    (due → exec (.masterCycle die) s = .next s) ∧
    (¬due → ∃ w, exec (.masterCycle die) s = .next (wakeAll w) ∧ Claim.OnlyDie s w die ∧ ∃ due', (due' = true ↔ ¬swallowed ∧ (d.cycle + 1).toNat % 2 ^ 20 = 0) ∧
      ∃ c, (swallowed → c = d.cycle) ∧ (¬swallowed → c = d.cycle + 1) ∧
      w.die die = { d with all := d.all + 1, cycle := c, refreshDue := due', droop := if 1 < d.droop then d.droop - 1 else d.droop }) ∧
    (∃ t, exec (.droopDetect die) s = .next t ∧ Claim.OnlyDie s t die ∧ t.die die = { d with droop := 64 + 1 }) ∧
    (d.droop = 1 → ∃ t, exec (.droopEnd die) s = .next t ∧ Claim.OnlyDie s t die ∧ t.die die = { d with droop := 0 }) ∧
    (∀ ph, ∃ t, exec (.clockHop die ph) s = .next t ∧ Claim.OnlyDie s t die ∧ t.die die = (match ph with
      | .request => { d with hopWaits := true }
      | .start => if d.hopWaits = true ∧ d.droop = 0 then { d with hopWaits := false, hopping := true } else d
      | .complete => if d.hopping = true ∧ d.droop = 0 then { d with hopping := false, source := !d.source } else d))) ∧
  (∀ cluster km1 s, cluster < 32 → (s.die (cluster / 16)).all % 16 = 0 → ∃ t, exec (.clockPatternChange cluster km1) s = .next t ∧
    t = { s with kslow := t.kslow } ∧ Tbl.get 0 t.kslow cluster = 15 - km1 ∧ ∀ c, c ≠ cluster → Tbl.get 0 t.kslow c = Tbl.get 0 s.kslow c)

/-- R345, R372, R370, R371: an error is counted and its unit goes to its self-test, an uncorrectable one kills the strand that met it; a test passed counts SOFT, one failed RETIRE, a lane takes the core's spare, and a core without one is retired with its strands. At a comparison point, an instruction's or a full buffer on either side, equal signatures let the primary's writes go and both copies on; the first mismatch brings both to their checkpoints, the second kills both. TRAPPC of a kill for an uncorrectable error is the address of the instruction whose access met it. What passes a comparison and what a rollback keeps are the model's choices (log 57, 61). -/
def Obligations.ErrorsAndBrace : Prop :=
  (∀ u corrected link victim s, (s.parts.map (·.1)).Nodup →
    let more (e : ErrCnt) : ErrCnt := if corrected = true then { e with corr := satAdd e.corr 1 } else { e with uncorr := satAdd e.uncorr 1 }
    let tested (t : State) : Prop := if u = .block then t.testing = s.testing else u ∈ t.testing
    (corrected = true ∨ victim = none → ∃ t, exec (.errorDetected u corrected link victim) s = .next t ∧ tested t ∧ t.strands = s.strands ∧ t.mem = s.mem ∧
      Claim.Counted s t u link more) ∧
    (∀ v n, corrected = false → victim = some (v, n) → (s.strand v).life.live = true → (s.part (s.strand v).part).st = .live →
      ∃ w : State, ∃ r pc, exec (.errorDetected u corrected link victim) s = .next (wakeAll (w.report (s.strand v).part true r)) ∧ tested w ∧ Claim.Dead w v ∧
        Claim.KillRecord r (s.strand v) (trapWord .uncorrectable 0) pc ∧ (Claim.accessPcs s v n ≠ [] → pc ∈ Claim.accessPcs s v n) ∧
        (w.part (s.strand v).part).errs.kill = satAdd (s.part (s.strand v).part).errs.kill 1)) ∧
  (∀ u link s, (s.parts.map (·.1)).Nodup → u ∈ s.testing →
    (∃ t, exec (.selfTestDone u true link) s = .next t ∧ t.testing = s.testing.erase u ∧ t.strands = s.strands ∧ t.cores = s.cores ∧
      Claim.Counted s t u link (fun e => { e with soft := satAdd e.soft 1 })) ∧
    (∀ c l, u = .lane c l → (s.core c).spareUsed = true → ∃ w, exec (.selfTestDone u false link) s = .next (wakeAll w) ∧ w.testing = s.testing.erase u ∧
      u ∈ w.retired ∧ (w.core c).retired = true ∧ ∀ e ∈ s.liveOn c, Claim.Dead w e.1) ∧
    ((∀ c l, u = .lane c l → (s.core c).spareUsed = false) → ∃ t, exec (.selfTestDone u false link) s = .next t ∧ t.testing = s.testing.erase u ∧ u ∈ t.retired ∧
      t.strands = s.strands ∧ Claim.Counted s t u link (fun e => { e with retire := satAdd e.retire 1 }) ∧
      (match u with
        | .lane c _ => t.core c = { s.core c with spareUsed := true } ∧ ∀ d, d ≠ c → t.core d = s.core d
        | .linkLane l _ => t.cores = s.cores ∧ Tbl.get 0 t.links l = Tbl.get 0 s.links l - 1
        | _ => t.cores = s.cores))) ∧
  (∀ sid w s, let a := s.strand sid
    let b := s.strand w
    let at_ (t : Strand) : Prop := t.life = .parked .brace ∧ t.sq = []
    let point := at_ a ∧ at_ b
    a.twin = some w → sid ≠ w → a.shadow = false → s.works sid = true → (at_ a ∨ bufferFull a = true) → (at_ b ∨ bufferFull b = true) → (s.core a.core).sent = [] →
    (a.sig = b.sig → ∃ x, exec (.braceCompare sid) s = .next (wakeAll x) ∧ x.mem = a.held.foldl (fun m h => m.writeL h.1 h.2) s.mem ∧
      (x.strand sid).held = [] ∧ (x.strand w).held = [] ∧ (point → (x.strand sid).passed = true ∧ (x.strand w).passed = true) ∧
      (¬ point → Tbl.get Strand.blank x.ckpts sid = x.strand sid ∧ Tbl.get Strand.blank x.ckpts w = x.strand w)) ∧
    (a.sig ≠ b.sig → a.misses = 0 → (∀ p, (Tbl.get Strand.blank s.ckpts sid).life ≠ .parked p) → (∀ p, (Tbl.get Strand.blank s.ckpts w).life ≠ .parked p) →
      ∃ t, exec (.braceCompare sid) s = .next t ∧ Claim.AtCheckpoint s t sid ∧ Claim.AtCheckpoint s t w ∧ t.mem = s.mem ∧
        (∀ k, k < 256 → clusterOf k = clusterOf a.core ∨ clusterOf k = clusterOf b.core → Claim.UnderTest t k) ∧
        (t.part a.part).errs.corr = satAdd (s.part a.part).errs.corr 1) ∧
    (a.sig ≠ b.sig → a.misses ≠ 0 → ∃ x, exec (.braceCompare sid) s = .next (wakeAll x) ∧ Claim.Dead x sid ∧ Claim.Dead x w ∧
      (x.part a.part).errs.uncorr = satAdd (s.part a.part).errs.uncorr 1))

/-- R309, R322, R361: a record for system software is written at its place in the queue with the value of PROD as SEQ, PROD goes on and the vector is signalled, when the queue lies in the reserved vaults, is not full, and holds back no earlier one; behind earlier ones that an open queue still holds it moves in after them, as far as there is room; else it is held behind those held. A kill discards what the strand waits for, sets FAB of its frame, counts, and reports the record with the strand's identity, code and address; what the record holds, a killed strand while 256 are held, and that its MALLOC request and its XPULL are withdrawn are the model's choices (log 37, 87). -/
def Obligations.RecordsReported : Prop :=
  (∀ (s : State) part (event : Bool) (r : BitVec 256), let p := s.part part
    let q := if event then p.eventQ else p.absentQ
    let t := s.report part event r
    let q' := if event then (t.part part).eventQ else (t.part part).absentQ
    let place := windowKey p (q.qbase + 32 * (q.prod.toNat % 2 ^ q.qsz))
    let open_ : Prop := windowSize p - 2 ^ 25 * p.rcd.rv ≤ q.qbase ∧ q.qbase + 32 * 2 ^ q.qsz ≤ windowSize p ∧ (q.prod - q.cons).toNat < 2 ^ q.qsz
    (∀ k, k ≠ part → t.part k = s.part k) ∧ t.strands = s.strands ∧ t.cores = s.cores ∧ t.dies = s.dies ∧
    (q.held = [] → open_ → r.extractLsb' 32 32 = 0 →
      (∀ i, i < 32 → t.mem.read (place + i) = if 4 ≤ i ∧ i < 8 then BitVec.ofNat 8 (q.prod.toNat / 256 ^ (i - 4)) else r.extractLsb' (8 * i) 8) ∧
      (∀ k, (k < place ∨ place + 32 ≤ k) → t.mem.read k = s.mem.read k) ∧
      q' = { q with prod := q.prod + 1 } ∧ t.msix = (part + 1, if event then 2 else 1) :: s.msix) ∧
    (open_ → q.qsz ≤ 16 →
      let all := q.held ++ [r]
      let k := min all.length (2 ^ q.qsz - (q.prod - q.cons).toNat)
      q' = { q with prod := q.prod + BitVec.ofNat 32 k, held := all.drop k } ∧ t.msix = List.replicate k (part + 1, if event then 2 else 1) ++ s.msix ∧
        t.mem = (List.range k).foldl (fun m j =>
          let seq := (q.prod + BitVec.ofNat 32 j).toNat
          m.writeL (windowKey p (q.qbase + 32 * (seq % 2 ^ q.qsz))) (toBytes 32 ((all.getD j 0).toNat + seq * 2 ^ 32))) s.mem) ∧
    (¬open_ → t.mem = s.mem ∧ q' = { q with held := q.held ++ [r] } ∧ t.msix = s.msix)) ∧
  (∀ (s : State) u code pc, let a := s.strand u
    ∃ x : State, ∃ r, s.kill u code pc = x.report a.part true r ∧ Claim.KillRecord r a code pc ∧ Claim.Dead x u ∧ (x.strand u).rets = [] ∧ (x.strand u).v = [] ∧
      (x.strand u).q = [] ∧ (x.strand u).p = [] ∧ (x.strand u).stack = [] ∧ u ∉ (x.frame a.frame).strands ∧ (x.frame a.frame).fab = true ∧
      (x.part a.part).errs.kill = satAdd (s.part a.part).errs.kill 1 ∧ (x.core a.core).running ≠ some u ∧
      (∀ r ∈ (x.core a.core).reqs, r.sid ≠ u) ∧ u ∉ (x.part a.part).pulls)

namespace Sys2Proof.Claim

open Sys2Proof.Machine

/-! Encodings. -/

/-- No marks. -/
def plain : Marks := ⟨false, false⟩
/-- The switch marker. -/
def sw : Marks := ⟨true, false⟩
/-- The run end. -/
def fin : Marks := ⟨false, true⟩

/-- Words that the spec assembles, with the words behind the first in the bits above 64 (R54, R90, R109, R132, R144, R149, R171, R180, R181, R216, R234, R260, R273, R282, R299, R349). -/
def specWords : List (Nat × Instr) :=
  [(0x0000080080C18200, .add plain .s32 false 3 3 4 0), (0x0000080080C1820C, .add ⟨true, true⟩ .s32 false 3 3 4 0),
    (0x0000000000010341 + 4 * 2 ^ 64, .movi plain .b32 2 0 4), (0x003FFFFFFD800080, .bra plain .always 0xFFFFFFF6), (0x0000000009810880, .bra plain (.z 2) 38),
    (0x0000000001418010, .if_ plain 3 5), (0x0000000000400050, .brk plain 1), (0x003FFFFFFC000070, .endloop plain 0xFFFFFFF0),
    (0x0600000000008910, .prange plain 1 0 0 24 0), (0x0000000020008160, .thin plain .b32 1 0 1 0), (0x0080080020C09320, .cmp plain .s32 .lt 1 2 3 1 0),
    (0x0000082000C18BB8, .redidx fin true .s32 3 3 2), (0x000008200081C270, .neg plain .s32 true 3 2 2),
    (0x0000180000C133A0, .red plain .fadd .f32 2 3 0), (0x00001800A0C60431 + 12 * 2 ^ 64, .fma plain .f32 12 3 5 12 0), (0x0000380002056380, .cvt plain .f32ord .n16 10 8 0),
    (0x0003FFFE01871500, .sand plain 14 12 (.imm 0xFFFF)), (0x0000010200C28570, .setf plain 5 6 (.imm 0x40)), (0x0000008600018550, .mfs plain 3 .energy),
    (0x000000C200E00560, .mts plain .disc 7)]

/-- Words of memory accesses, engines and tables that the spec assembles. -/
def specWords2 : List (Nat × Instr) :=
  [(0x0008000020418605, .ld sw .b32 .rlx .strand .vault 3 1 1 0 0), (0x0008000020420619, .st fin .b32 .rlx .strand .vault 4 1 1 0 0),
    (0x224000004103C641 + 0x40 * 2 ^ 64, .atom plain .maxpk .b32 .rlx .strand .spad true 7 4 2 9 0 0x40),
    (0x00000001A107CE51, .atoms plain .minpk .b32 .rlx .strand .spad 15 4 13 0 0), (0x0031800000000660, .fence plain .ar .device),
    (0x08C0000000029670, .meet plain .aw 5 3 2), (0x0000000000BC06C2 + 0x10260000 * 2 ^ 64, .cpy plain .b4 .rlx .strand (.queue 0) (.far 1 0) 2 0 none),
    (0x00000000804186D2 + 0x0000020072000000 * 2 ^ 64, .cpgather plain (.far 2 0) .rlx .strand .spad 3 1 4 7 8 0 0 none),
    (0x00000003E10287A1 + 0x000F0006 * 2 ^ 64, .sort plain .rlx .strand .spad 5 4 31 6 15), (0x00000000000306E0, .bclose plain false 6),
    (0x0000000001840EF0, .wait plain true false false 8 6), (0x00000000000280A0, .ocall plain 5 0), (0x02800000000490F0, .opinQuery plain 9 0 10),
    (0x00000000A10000D1, .spawn plain .spad 4 5 0 0), (0x0000000002400720, .depDec plain 9 0), (0x0000000002419720, .depRead plain 3 9 0),
    (0x00000000A1218730, .tinv plain 3 4 5), (0x0040000000010740, .malloc plain 2 0 1), (0x0400080000C18784, .mrd sw .s32 3 3 0 0 1 0),
    (0x0000600020020762 + 0x0000000000400143 * 2 ^ 64, .mma plain .bpn false false .rlx .strand .spad 4 0 1 0 0 3 5 0 16), (0x03000001628A07B0, .xdisp plain .rlx .strand 20 10 11 12),
    (0x01000000608087C4, .xpull sw 1 2 3 4), (0x03C00003E78017D0, .xctlSnap plain .spad 30 31 15), (0x00001820010287E0, .xbias plain 5 4 2)]

/-- The words of R54 that raise a fault, with it. -/
def faultWords : List (Nat × Nat × FetchErr) :=
  [(1, 0x0000080080C18200, .illegalEncoding), (8, 0x0000080000000003, .illegalEncoding), (8, 0x0000080080C181F0, .illegalOpcode), (8, 0x0000080080C18201, .illegalEncoding),
    (8, 0x0000080080FC0200, .illegalOperand), (8, 0x000008009F018200, .illegalOperand), (8, 0x0000600080C18200, .illegalOperand),
    (8, 0x0000880080C18200, .reservedField), (8, 0x000088009F018200, .illegalOperand)]

/-! Fetch. -/

/-- The memory key of the word at a PC in slot `j` of a core (R221). -/
def wordKey (c j : Nat) (pc : PC) : Nat := codeKey c j (4 * (pc.word.toNat % 1024))

/-- The 128 bits that stand at a key, lowest byte first (R3). -/
def bitsAt (s : State) (k : Nat) : BitVec 128 := BitVec.ofNat 128 (little (s.mem.readN k 16))

/-- The slot of a loaded PC, and the words up to the end of its fetch block of 8 words (R35, R224). -/
def Located (s : State) (t : Strand) (pc : PC) (j room : Nat) : Prop :=
  (s.core t.core).slotAt pc = some j ∧ ((s.core t.core).slot j).st ≠ .loading ∧ room = 8 - pc.word.toNat % 8

/-- The word at a key is FILL (R37). -/
def IsFill (s : State) (k : Nat) : Prop := little (s.mem.readN k 4) = 0xFFFFFFFF

/-- What a step adds to what has acted: the histories of the frame counts that are read relaxed are brought up to the present (R269). -/
def Noted : Host.Outcome State Fault Refusal → Host.Outcome State Fault Refusal
  | .next t => .next (noteCounts t)
  | o => o

/-- The core whose turn it is steps in `s`: the agenda is empty, or its head names the core; `s'` is the state without that head. -/
def Turn (s s' : State) (c : Nat) : Prop := (s.agenda = [] ∧ c = s.turn ∧ s' = s) ∨ (∃ r, s.agenda = .core c :: r ∧ s' = { s with agenda := r })

end Sys2Proof.Claim

/-- R35 to R51, R53: every well-formed instruction is decoded from its encoding, whatever stands behind it in its fetch block. -/
def Obligations.DecodeEncodeRoundTrip : Prop :=
  ∀ pair i, WellFormed pair i = true → isEvent i = false →
    ∃ b n, encode i = some (b, n) ∧ 2 ≤ n ∧ n ≤ 4 ∧ ∀ room (w : BitVec 128), n ≤ room → w.toNat % 2 ^ (32 * n) = b.toNat → decode pair room w = .ok (i, n)

/-- R36, R50, R53: a word that decodes is the encoding of its instruction to the last bit, and the instruction is well-formed: no bit is ignored. -/
def Obligations.DecodedWordsReencode : Prop :=
  ∀ pair room w i n, decode pair room w = .ok (i, n) →
    WellFormed pair i = true ∧ n ≤ room ∧ encode i = some (BitVec.ofNat 128 (w.toNat % 2 ^ (32 * n)), n)

/-- R54 and the assembled words of the program chapters: each decodes to its instruction, and each faulty word of R54 raises its fault. -/
def Obligations.SpecWordsDecode : Prop :=
  (∀ e ∈ Claim.specWords ++ Claim.specWords2, decodeTableWord 128 e.1 = some e.2) ∧
  (∀ e ∈ Claim.faultWords, decode true e.1 (BitVec.ofNat 128 e.2.1) = .error e.2.2)

/-- R35 to R39, R53, R156, R157, R224, R276: a step of a core runs the instruction decoded at the program counter of its running strand, behind a FILL word the one of the next block; it raises the fault of a word, parks at a slot still loading, and without a run arbitrates, or lets what is due on the cycle take place or a cycle pass. Around it the histories of frame counts are kept. Which core steps, that an idle core's step is a cycle of die 0, and those histories are the model's choices (log 1, 2, 24). -/
def Obligations.StepRunsDecoded : Prop :=
  (∀ s s' c u, Claim.Turn s s' c → (s.core c).running = some u →
    let t := s.strand u
    let v : State := { s' with cur := u }
    (t.slotEnd = none → ∀ j room, Claim.Located s t t.pc j room →
      let k := Claim.wordKey t.core j t.pc
      (¬ Claim.IsFill s k →
        (∀ i n, decode (s.paired t) room (Claim.bitsAt s k) = .ok (i, n) → step s = Claim.Noted (exec i (v.setMe t))) ∧
        (∀ e, decode (s.paired t) room (Claim.bitsAt s k) = .error e → step s = Claim.Noted (exec (.fetchFault e) (v.setMe t)))) ∧
      (Claim.IsFill s k → t.pc.leaves room = false → ∀ j', Claim.Located s t (t.pc.plus room) j' 8 →
        let k' := Claim.wordKey t.core j' (t.pc.plus room)
        ¬ Claim.IsFill s k' → ∀ i n, decode (s.paired t) 8 (Claim.bitsAt s k') = .ok (i, n) → step s = Claim.Noted (exec i (v.setMe { t with pc := t.pc.plus room })))) ∧
    (t.slotEnd = none → (s.core t.core).slotAt t.pc = none → step s = Claim.Noted (exec (.fetchFault .codeReplaced) (v.setMe t))) ∧
    (t.slotEnd = none → (∃ j, (s.core t.core).slotAt t.pc = some j ∧ ((s.core t.core).slot j).st = .loading) → step s = .next (noteCounts (parkMe v .fetch false))) ∧
    (∀ pc, t.slotEnd = some pc → step s = Claim.Noted (exec (.fetchFault .slotEnd) (v.setMe { t with pc := pc })))) ∧
  (∀ s s' c, Claim.Turn s s' c → (s.core c).running = none →
    ((∃ u, Claim.Contends s' c u) → step s = Claim.Noted (exec (.runArbitration c) s')) ∧
    ((∀ u, ¬Claim.Contends s' c u) → step s = Claim.Noted (if s.class3At + 1024 ≤ (s.die 0).all then exec .class3Window s' else if (s.die 0).refreshDue = true then exec (.energyRefresh 0) s' else exec (.masterCycle 0) s'))) ∧
  (∀ s i r, s.agenda = .event i :: r → isEvent i = true → step s = Claim.Noted (exec i { s with agenda := r })) ∧
  (∀ s : State, noteCounts s = { s with parts := (noteCounts s).parts } ∧ ∀ p, (noteCounts s).part p = { s.part p with words := ((noteCounts s).part p).words } ∧
    ((noteCounts s).part p).words = (s.part p).words.map (fun w =>
      let now : W32 := BitVec.ofNat 32 (Claim.little (s.mem.readN (windowKey (s.part p) w.off) 4))
      { w with hist := if w.hist.getLast? = some now then w.hist else w.hist ++ [now] }))

/-- The memory keeps its canonical form in every step, whatever the instruction or the event (the form is the model's; log 3). -/
def Obligations.StepKeepsMemoryForm : Prop :=
  ∀ s t, State.Inv s → step s = .next t → State.Inv t

/-- R160, R221, R262, R269, R284, R341, R352, R366: right after reset there is no strand and no frame, every partition is FREE, counters, CYCLE and tables are zero, slot 0 of every core is FIRMWARE and the others EMPTY, and the device has no power; OVID, IDX and CNT of the empty slots (the model's choice, log 4); memory is in canonical form and reads as 0 (the model's choice, log 3). -/
def Obligations.ResetState : Prop :=
  State.Inv State.reset ∧ (∀ k, State.reset.mem.read k = 0) ∧ State.reset.strands = [] ∧ State.reset.frames = [] ∧
  (∀ p, (State.reset.part p).st = .free ∧ (State.reset.part p).errs = ErrCnt.zero ∧ (State.reset.part p).energy = Energy.zero ∧ (State.reset.part p).ring = [] ∧
    (∀ k, (State.reset.part p).queue k = LQueue.zero) ∧ ∀ e, (State.reset.part p).entry e = Ert.zero) ∧
  (∀ c, (State.reset.core c).running = none ∧ (State.reset.core c).slot 0 = Slot.firmware ∧ ∀ j, 1 ≤ j → (State.reset.core c).slot j = ⟨0, 0, 0, 0, 0, .empty⟩) ∧
  (∀ i, State.reset.counter i = 0) ∧ (∀ d, (State.reset.die d).cycle = 0 ∧ (State.reset.die d).tlb = []) ∧ (∀ c, Tbl.get 0 State.reset.act c = 0) ∧
  State.reset.powered = false ∧ State.reset.stage = 0 ∧ ∀ l, Tbl.get 0 State.reset.links l = 0
end

