-- ==== Sys2Proof/Laws/Memory.lean ====
section
/-! SUPPORT. Memory.lean: the laws of tables and of memory: a key set reads as what was set, every other key as before, and every memory operation keeps the canonical form. -/

namespace Sys2Proof.Machine

/-! Tables. -/

theorem Tbl.get_del_same {α : Type} (d : α) (t : Tbl α) (k : Nat) : Tbl.get d (Tbl.del t k) k = d := by
  induction t with
  | nil => rfl
  | cons e r ih =>
    obtain ⟨k', v⟩ := e
    by_cases h : k' = k
    · simpa [Tbl.del, h] using ih
    · simpa [Tbl.del, Tbl.get, h] using ih

theorem Tbl.get_del_ne {α : Type} (d : α) (t : Tbl α) {k j : Nat} (h : j ≠ k) : Tbl.get d (Tbl.del t k) j = Tbl.get d t j := by
  induction t with
  | nil => rfl
  | cons e r ih =>
    obtain ⟨k', v⟩ := e
    by_cases hk : k' = k
    · subst hk
      simpa [Tbl.del, Tbl.get, Ne.symm h] using ih
    · by_cases hj : k' = j
      · simp [Tbl.del, Tbl.get, hj, h]
      · simpa [Tbl.del, Tbl.get, hk, hj] using ih

theorem Tbl.get_ins_same {α : Type} (d : α) (t : Tbl α) (k : Nat) (v : α) (h : ∀ e ∈ t, e.1 ≠ k) :
    Tbl.get d (Tbl.ins k v t) k = v := by
  induction t with
  | nil => simp [Tbl.ins, Tbl.get]
  | cons e r ih =>
    obtain ⟨k', v'⟩ := e
    have hk : k' ≠ k := h (k', v') (by simp)
    unfold Tbl.ins
    split
    · simp [Tbl.get]
    · simp only [Tbl.get, hk, if_false]
      exact ih fun e he => h e (by simp [he])

theorem Tbl.get_ins_ne {α : Type} (d : α) (t : Tbl α) {k j : Nat} (v : α) (h : j ≠ k) :
    Tbl.get d (Tbl.ins k v t) j = Tbl.get d t j := by
  induction t with
  | nil => simp [Tbl.ins, Tbl.get, Ne.symm h]
  | cons e r ih =>
    obtain ⟨k', v'⟩ := e
    unfold Tbl.ins
    split
    · simp [Tbl.get, Ne.symm h]
    · by_cases hj : k' = j <;> simp [Tbl.get, hj, ih]

/-- A key that was set reads as what was set. -/
@[simp] theorem Tbl.get_set_same {α : Type} [DecidableEq α] (d : α) (t : Tbl α) (k : Nat) (v : α) :
    Tbl.get d (Tbl.set d t k v) k = v := by
  unfold Tbl.set
  split
  · next h => rw [Tbl.get_del_same, h]
  · exact Tbl.get_ins_same d _ k v fun e he => by simpa [Tbl.del] using (List.mem_filter.mp he).2

/-- Every other key reads as before. -/
theorem Tbl.get_set_ne {α : Type} [DecidableEq α] (d : α) (t : Tbl α) {k j : Nat} (v : α) (h : j ≠ k) :
    Tbl.get d (Tbl.set d t k v) j = Tbl.get d t j := by
  unfold Tbl.set
  split
  · exact Tbl.get_del_ne d t h
  · rw [Tbl.get_ins_ne d _ v h, Tbl.get_del_ne d t h]

theorem Tbl.get_set {α : Type} [DecidableEq α] (d : α) (t : Tbl α) (k j : Nat) (v : α) :
    Tbl.get d (Tbl.set d t k v) j = if j = k then v else Tbl.get d t j := by
  split
  · next h => subst h; exact Tbl.get_set_same d t j v
  · next h => exact Tbl.get_set_ne d t v h

theorem Tbl.del_ins {α : Type} (t : Tbl α) (k : Nat) (v : α) : Tbl.del (Tbl.ins k v t) k = Tbl.del t k := by
  induction t with
  | nil => simp [Tbl.ins, Tbl.del]
  | cons e r ih =>
    obtain ⟨k', v'⟩ := e
    unfold Tbl.ins
    split
    · simp [Tbl.del]
    · by_cases h : k' = k <;> simpa [Tbl.del, h] using ih

theorem Tbl.del_del {α : Type} (t : Tbl α) (k : Nat) : Tbl.del (Tbl.del t k) k = Tbl.del t k := by
  simp [Tbl.del, List.filter_filter]

/-- Of two settings of one key the later one stands. -/
@[simp] theorem Tbl.set_set {α : Type} [DecidableEq α] (d : α) (t : Tbl α) (k : Nat) (v w : α) :
    Tbl.set d (Tbl.set d t k v) k w = Tbl.set d t k w := by
  have h : Tbl.del (Tbl.set d t k v) k = Tbl.del t k := by
    unfold Tbl.set
    split
    · exact Tbl.del_del t k
    · rw [Tbl.del_ins, Tbl.del_del]
  simp only [Tbl.set] at h ⊢
  rw [h]

/-! Reads of memory. -/

@[simp] theorem Memory.read_write_same (m : Memory) (k : Nat) (v : Byte) : (m.write k v).read k = v :=
  Tbl.get_set_same 0 m k v

theorem Memory.read_write_ne (m : Memory) {k j : Nat} (v : Byte) (h : j ≠ k) : (m.write k v).read j = m.read j :=
  Tbl.get_set_ne 0 m v h

/-- A byte outside the written range reads as before. -/
theorem Memory.read_writeL_outside (l : List Byte) (m : Memory) (k j : Nat) (h : j < k ∨ k + l.length ≤ j) :
    (m.writeL k l).read j = m.read j := by
  induction l generalizing m k with
  | nil => rfl
  | cons b r ih =>
    simp only [List.length_cons] at h
    rw [Memory.writeL, ih _ _ (by omega), Memory.read_write_ne _ _ (by omega)]

/-- A byte of the written range reads as what was written. -/
theorem Memory.read_writeL_inside (l : List Byte) (m : Memory) (k i : Nat) (h : i < l.length) :
    (m.writeL k l).read (k + i) = l[i] := by
  induction l generalizing m k i with
  | nil => simp at h
  | cons b r ih =>
    rw [Memory.writeL]
    cases i with
    | zero => rw [Memory.read_writeL_outside _ _ _ _ (by omega)]; simp
    | succ i =>
      have := ih (m.write k b) (k + 1) i (by simpa using h)
      rw [show k + 1 + i = k + (i + 1) by omega] at this
      simpa using this

/-! The canonical form. -/

theorem Memory.rising_cons (a : Nat) (l : List Nat) : Memory.rising (a :: l) = true ↔ (∀ b ∈ l, a < b) ∧ Memory.rising l = true := by
  induction l generalizing a with
  | nil => simp [Memory.rising]
  | cons b r ih =>
    simp only [Memory.rising, Bool.and_eq_true, decide_eq_true_eq]
    rw [ih b]
    constructor
    · rintro ⟨h, hb, hr⟩
      refine ⟨fun c hc => ?_, hb, hr⟩
      rcases List.mem_cons.mp hc with rfl | hc
      · exact h
      · exact lt_trans h (hb c hc)
    · rintro ⟨h, hb, hr⟩
      exact ⟨h b (by simp), hb, hr⟩

/-- The canonical form, said by induction. -/
theorem Memory.wf_cons (c : Host.Cell) (m : Memory) :
    Memory.wf (c :: m) = true ↔ (∀ e ∈ m, c.1 < e.1) ∧ c.2 ≠ 0 ∧ Memory.wf m = true := by
  simp only [Memory.wf, List.map_cons, Bool.and_eq_true, List.all_cons, decide_eq_true_eq]
  rw [Memory.rising_cons]
  simp only [List.mem_map, forall_exists_index, and_imp, forall_apply_eq_imp_iff₂]
  tauto

theorem Memory.wf_filter (p : Host.Cell → Bool) (m : Memory) (h : Memory.wf m = true) : Memory.wf (m.filter p) = true := by
  induction m with
  | nil => rfl
  | cons c r ih =>
    rw [Memory.wf_cons] at h
    rw [List.filter_cons]
    split
    · rw [Memory.wf_cons]
      exact ⟨fun e he => h.1 e (List.mem_of_mem_filter he), h.2.1, ih h.2.2⟩
    · exact ih h.2.2

theorem Memory.mem_ins (k : Nat) (v : Byte) (m : Memory) (e : Host.Cell) (h : e ∈ Tbl.ins k v m) : e = (k, v) ∨ e ∈ m := by
  induction m with
  | nil => simpa [Tbl.ins] using h
  | cons c r ih =>
    obtain ⟨k', v'⟩ := c
    unfold Tbl.ins at h
    split at h
    · simpa using h
    · rcases List.mem_cons.mp h with rfl | h
      · simp
      · rcases ih h with rfl | h
        · simp
        · simp [h]

theorem Memory.wf_ins (k : Nat) (v : Byte) (m : Memory) (hv : v ≠ 0) (hk : ∀ e ∈ m, e.1 ≠ k) (h : Memory.wf m = true) :
    Memory.wf (Tbl.ins k v m) = true := by
  induction m with
  | nil => simpa [Tbl.ins, Memory.wf, Memory.rising] using hv
  | cons c r ih =>
    obtain ⟨k', v'⟩ := c
    have h' := (Memory.wf_cons _ _).mp h
    unfold Tbl.ins
    split
    · next hlt =>
      rw [Memory.wf_cons]
      refine ⟨fun e he => ?_, hv, h⟩
      rcases List.mem_cons.mp he with rfl | he
      · exact hlt
      · exact lt_trans hlt (h'.1 e he)
    · next hlt =>
      rw [Memory.wf_cons]
      refine ⟨fun e he => ?_, h'.2.1, ih (fun e he => hk e (by simp [he])) h'.2.2⟩
      rcases Memory.mem_ins k v r e he with rfl | he
      · exact lt_of_le_of_ne (Nat.le_of_not_lt hlt) (hk (k', v') (by simp))
      · exact h'.1 e he

/-- Writing a byte keeps the canonical form. -/
theorem Memory.wf_write (m : Memory) (k : Nat) (v : Byte) (h : Memory.wf m = true) : Memory.wf (m.write k v) = true := by
  unfold Memory.write Tbl.set Tbl.del
  split
  · exact Memory.wf_filter _ m h
  · next hv => exact Memory.wf_ins k v _ hv (fun e he => by simpa using (List.mem_filter.mp he).2) (Memory.wf_filter _ m h)

/-- Writing bytes keeps the canonical form. -/
theorem Memory.wf_writeL (l : List Byte) (m : Memory) (k : Nat) (h : Memory.wf m = true) : Memory.wf (m.writeL k l) = true := by
  induction l generalizing m k with
  | nil => exact h
  | cons b r ih => exact ih _ _ (Memory.wf_write m k b h)

/-- Clearing a range keeps the canonical form. -/
theorem Memory.wf_clear (m : Memory) (k n : Nat) (h : Memory.wf m = true) : Memory.wf (m.clear k n) = true := Memory.wf_filter _ m h

/-- Putting cells in keeps the canonical form. -/
theorem Memory.wf_putCells (l : List Host.Cell) (m : Memory) (h : Memory.wf m = true) : Memory.wf (m.putCells l) = true := by
  induction l generalizing m with
  | nil => exact h
  | cons c r ih => exact ih _ (Memory.wf_write m c.1 c.2 h)

/-- Copying a range keeps the canonical form. -/
theorem Memory.wf_copy (m : Memory) (src dst n : Nat) (h : Memory.wf m = true) : Memory.wf (m.copy src dst n) = true :=
  Memory.wf_putCells _ _ (Memory.wf_clear m dst n h)

/-- A byte of a cleared range reads as 0. -/
theorem Memory.read_clear (m : Memory) (k n j : Nat) : (m.clear k n).read j = if k ≤ j ∧ j < k + n then 0 else m.read j := by
  unfold Memory.clear Memory.read
  induction m with
  | nil => simp [Tbl.get]
  | cons c r ih =>
    obtain ⟨a, v⟩ := c
    rw [List.filter_cons]
    by_cases ha : a = j
    · subst ha
      by_cases hin : k ≤ a ∧ a < k + n
      · have : ¬(a < k ∨ k + n ≤ a) := by omega
        simpa [this, hin] using ih
      · have : a < k ∨ k + n ≤ a := by omega
        simp [this, Tbl.get, hin]
    · split
      · simpa [Tbl.get, ha] using ih
      · simpa [Tbl.get, ha] using ih

end Sys2Proof.Machine
end

