-- ==== Sys2Proof/Laws/State.lean ====
section
/-! SUPPORT. State.lean: what each accessor of the state and of a strand leaves and what it changes, one lemma a field. -/

namespace Sys2Proof.Machine

/-! setStrand changes the field strands alone. -/

@[simp] theorem State.setStrand_mem (s : State) (u : Nat) (t : Strand) : (s.setStrand u t).mem = s.mem := rfl
@[simp] theorem State.setStrand_frames (s : State) (u : Nat) (t : Strand) : (s.setStrand u t).frames = s.frames := rfl
@[simp] theorem State.setStrand_cores (s : State) (u : Nat) (t : Strand) : (s.setStrand u t).cores = s.cores := rfl
@[simp] theorem State.setStrand_dies (s : State) (u : Nat) (t : Strand) : (s.setStrand u t).dies = s.dies := rfl
@[simp] theorem State.setStrand_parts (s : State) (u : Nat) (t : Strand) : (s.setStrand u t).parts = s.parts := rfl
@[simp] theorem State.setStrand_counters (s : State) (u : Nat) (t : Strand) : (s.setStrand u t).counters = s.counters := rfl
@[simp] theorem State.setStrand_act (s : State) (u : Nat) (t : Strand) : (s.setStrand u t).act = s.act := rfl
@[simp] theorem State.setStrand_kslow (s : State) (u : Nat) (t : Strand) : (s.setStrand u t).kslow = s.kslow := rfl
@[simp] theorem State.setStrand_errs (s : State) (u : Nat) (t : Strand) : (s.setStrand u t).errs = s.errs := rfl
@[simp] theorem State.setStrand_unassigned (s : State) (u : Nat) (t : Strand) : (s.setStrand u t).unassigned = s.unassigned := rfl
@[simp] theorem State.setStrand_seq (s : State) (u : Nat) (t : Strand) : (s.setStrand u t).seq = s.seq := rfl
@[simp] theorem State.setStrand_epoch (s : State) (u : Nat) (t : Strand) : (s.setStrand u t).epoch = s.epoch := rfl
@[simp] theorem State.setStrand_fused (s : State) (u : Nat) (t : Strand) : (s.setStrand u t).fused = s.fused := rfl
@[simp] theorem State.setStrand_stage (s : State) (u : Nat) (t : Strand) : (s.setStrand u t).stage = s.stage := rfl
@[simp] theorem State.setStrand_warmed (s : State) (u : Nat) (t : Strand) : (s.setStrand u t).warmed = s.warmed := rfl
@[simp] theorem State.setStrand_failCode (s : State) (u : Nat) (t : Strand) : (s.setStrand u t).failCode = s.failCode := rfl
@[simp] theorem State.setStrand_version (s : State) (u : Nat) (t : Strand) : (s.setStrand u t).version = s.version := rfl
@[simp] theorem State.setStrand_failed (s : State) (u : Nat) (t : Strand) : (s.setStrand u t).failed = s.failed := rfl
@[simp] theorem State.setStrand_firmware (s : State) (u : Nat) (t : Strand) : (s.setStrand u t).firmware = s.firmware := rfl
@[simp] theorem State.setStrand_expansion (s : State) (u : Nat) (t : Strand) : (s.setStrand u t).expansion = s.expansion := rfl
@[simp] theorem State.setStrand_powered (s : State) (u : Nat) (t : Strand) : (s.setStrand u t).powered = s.powered := rfl
@[simp] theorem State.setStrand_epochAt (s : State) (u : Nat) (t : Strand) : (s.setStrand u t).epochAt = s.epochAt := rfl
@[simp] theorem State.setStrand_readingAt (s : State) (u : Nat) (t : Strand) : (s.setStrand u t).readingAt = s.readingAt := rfl
@[simp] theorem State.setStrand_cyc0 (s : State) (u : Nat) (t : Strand) : (s.setStrand u t).cyc0 = s.cyc0 := rfl
@[simp] theorem State.setStrand_cyc1 (s : State) (u : Nat) (t : Strand) : (s.setStrand u t).cyc1 = s.cyc1 := rfl
@[simp] theorem State.setStrand_response (s : State) (u : Nat) (t : Strand) : (s.setStrand u t).response = s.response := rfl
@[simp] theorem State.setStrand_result (s : State) (u : Nat) (t : Strand) : (s.setStrand u t).result = s.result := rfl
@[simp] theorem State.setStrand_msix (s : State) (u : Nat) (t : Strand) : (s.setStrand u t).msix = s.msix := rfl
@[simp] theorem State.setStrand_answer (s : State) (u : Nat) (t : Strand) : (s.setStrand u t).answer = s.answer := rfl
@[simp] theorem State.setStrand_peerOut (s : State) (u : Nat) (t : Strand) : (s.setStrand u t).peerOut = s.peerOut := rfl
@[simp] theorem State.setStrand_creditsUsed (s : State) (u : Nat) (t : Strand) : (s.setStrand u t).creditsUsed = s.creditsUsed := rfl
@[simp] theorem State.setStrand_signals (s : State) (u : Nat) (t : Strand) : (s.setStrand u t).signals = s.signals := rfl
@[simp] theorem State.setStrand_class3 (s : State) (u : Nat) (t : Strand) : (s.setStrand u t).class3 = s.class3 := rfl
@[simp] theorem State.setStrand_class3At (s : State) (u : Nat) (t : Strand) : (s.setStrand u t).class3At = s.class3At := rfl
@[simp] theorem State.setStrand_links (s : State) (u : Nat) (t : Strand) : (s.setStrand u t).links = s.links := rfl
@[simp] theorem State.setStrand_carried (s : State) (u : Nat) (t : Strand) : (s.setStrand u t).carried = s.carried := rfl
@[simp] theorem State.setStrand_moved (s : State) (u : Nat) (t : Strand) : (s.setStrand u t).moved = s.moved := rfl
@[simp] theorem State.setStrand_requests (s : State) (u : Nat) (t : Strand) : (s.setStrand u t).requests = s.requests := rfl
@[simp] theorem State.setStrand_owned (s : State) (u : Nat) (t : Strand) : (s.setStrand u t).owned = s.owned := rfl
@[simp] theorem State.setStrand_ownedFrom (s : State) (u : Nat) (t : Strand) : (s.setStrand u t).ownedFrom = s.ownedFrom := rfl
@[simp] theorem State.setStrand_retired (s : State) (u : Nat) (t : Strand) : (s.setStrand u t).retired = s.retired := rfl
@[simp] theorem State.setStrand_testing (s : State) (u : Nat) (t : Strand) : (s.setStrand u t).testing = s.testing := rfl
@[simp] theorem State.setStrand_ckpts (s : State) (u : Nat) (t : Strand) : (s.setStrand u t).ckpts = s.ckpts := rfl
@[simp] theorem State.setStrand_agenda (s : State) (u : Nat) (t : Strand) : (s.setStrand u t).agenda = s.agenda := rfl
@[simp] theorem State.setStrand_turn (s : State) (u : Nat) (t : Strand) : (s.setStrand u t).turn = s.turn := rfl
@[simp] theorem State.setStrand_cur (s : State) (u : Nat) (t : Strand) : (s.setStrand u t).cur = s.cur := rfl
@[simp] theorem State.setStrand_next (s : State) (u : Nat) (t : Strand) : (s.setStrand u t).next = s.next := rfl
@[simp] theorem State.setStrand_gord (s : State) (u : Nat) (t : Strand) : (s.setStrand u t).gord = s.gord := rfl
@[simp] theorem State.setStrand_clock (s : State) (u : Nat) (t : Strand) : (s.setStrand u t).clock = s.clock := rfl

/-! setFrame changes the field frames alone. -/

@[simp] theorem State.setFrame_mem (s : State) (u : Nat) (f : Frame) : (s.setFrame u f).mem = s.mem := rfl
@[simp] theorem State.setFrame_strands (s : State) (u : Nat) (f : Frame) : (s.setFrame u f).strands = s.strands := rfl
@[simp] theorem State.setFrame_cores (s : State) (u : Nat) (f : Frame) : (s.setFrame u f).cores = s.cores := rfl
@[simp] theorem State.setFrame_dies (s : State) (u : Nat) (f : Frame) : (s.setFrame u f).dies = s.dies := rfl
@[simp] theorem State.setFrame_parts (s : State) (u : Nat) (f : Frame) : (s.setFrame u f).parts = s.parts := rfl
@[simp] theorem State.setFrame_counters (s : State) (u : Nat) (f : Frame) : (s.setFrame u f).counters = s.counters := rfl
@[simp] theorem State.setFrame_act (s : State) (u : Nat) (f : Frame) : (s.setFrame u f).act = s.act := rfl
@[simp] theorem State.setFrame_kslow (s : State) (u : Nat) (f : Frame) : (s.setFrame u f).kslow = s.kslow := rfl
@[simp] theorem State.setFrame_errs (s : State) (u : Nat) (f : Frame) : (s.setFrame u f).errs = s.errs := rfl
@[simp] theorem State.setFrame_unassigned (s : State) (u : Nat) (f : Frame) : (s.setFrame u f).unassigned = s.unassigned := rfl
@[simp] theorem State.setFrame_seq (s : State) (u : Nat) (f : Frame) : (s.setFrame u f).seq = s.seq := rfl
@[simp] theorem State.setFrame_epoch (s : State) (u : Nat) (f : Frame) : (s.setFrame u f).epoch = s.epoch := rfl
@[simp] theorem State.setFrame_fused (s : State) (u : Nat) (f : Frame) : (s.setFrame u f).fused = s.fused := rfl
@[simp] theorem State.setFrame_stage (s : State) (u : Nat) (f : Frame) : (s.setFrame u f).stage = s.stage := rfl
@[simp] theorem State.setFrame_warmed (s : State) (u : Nat) (f : Frame) : (s.setFrame u f).warmed = s.warmed := rfl
@[simp] theorem State.setFrame_failCode (s : State) (u : Nat) (f : Frame) : (s.setFrame u f).failCode = s.failCode := rfl
@[simp] theorem State.setFrame_version (s : State) (u : Nat) (f : Frame) : (s.setFrame u f).version = s.version := rfl
@[simp] theorem State.setFrame_failed (s : State) (u : Nat) (f : Frame) : (s.setFrame u f).failed = s.failed := rfl
@[simp] theorem State.setFrame_firmware (s : State) (u : Nat) (f : Frame) : (s.setFrame u f).firmware = s.firmware := rfl
@[simp] theorem State.setFrame_expansion (s : State) (u : Nat) (f : Frame) : (s.setFrame u f).expansion = s.expansion := rfl
@[simp] theorem State.setFrame_powered (s : State) (u : Nat) (f : Frame) : (s.setFrame u f).powered = s.powered := rfl
@[simp] theorem State.setFrame_epochAt (s : State) (u : Nat) (f : Frame) : (s.setFrame u f).epochAt = s.epochAt := rfl
@[simp] theorem State.setFrame_readingAt (s : State) (u : Nat) (f : Frame) : (s.setFrame u f).readingAt = s.readingAt := rfl
@[simp] theorem State.setFrame_cyc0 (s : State) (u : Nat) (f : Frame) : (s.setFrame u f).cyc0 = s.cyc0 := rfl
@[simp] theorem State.setFrame_cyc1 (s : State) (u : Nat) (f : Frame) : (s.setFrame u f).cyc1 = s.cyc1 := rfl
@[simp] theorem State.setFrame_response (s : State) (u : Nat) (f : Frame) : (s.setFrame u f).response = s.response := rfl
@[simp] theorem State.setFrame_result (s : State) (u : Nat) (f : Frame) : (s.setFrame u f).result = s.result := rfl
@[simp] theorem State.setFrame_msix (s : State) (u : Nat) (f : Frame) : (s.setFrame u f).msix = s.msix := rfl
@[simp] theorem State.setFrame_answer (s : State) (u : Nat) (f : Frame) : (s.setFrame u f).answer = s.answer := rfl
@[simp] theorem State.setFrame_peerOut (s : State) (u : Nat) (f : Frame) : (s.setFrame u f).peerOut = s.peerOut := rfl
@[simp] theorem State.setFrame_creditsUsed (s : State) (u : Nat) (f : Frame) : (s.setFrame u f).creditsUsed = s.creditsUsed := rfl
@[simp] theorem State.setFrame_signals (s : State) (u : Nat) (f : Frame) : (s.setFrame u f).signals = s.signals := rfl
@[simp] theorem State.setFrame_class3 (s : State) (u : Nat) (f : Frame) : (s.setFrame u f).class3 = s.class3 := rfl
@[simp] theorem State.setFrame_class3At (s : State) (u : Nat) (f : Frame) : (s.setFrame u f).class3At = s.class3At := rfl
@[simp] theorem State.setFrame_links (s : State) (u : Nat) (f : Frame) : (s.setFrame u f).links = s.links := rfl
@[simp] theorem State.setFrame_carried (s : State) (u : Nat) (f : Frame) : (s.setFrame u f).carried = s.carried := rfl
@[simp] theorem State.setFrame_moved (s : State) (u : Nat) (f : Frame) : (s.setFrame u f).moved = s.moved := rfl
@[simp] theorem State.setFrame_requests (s : State) (u : Nat) (f : Frame) : (s.setFrame u f).requests = s.requests := rfl
@[simp] theorem State.setFrame_owned (s : State) (u : Nat) (f : Frame) : (s.setFrame u f).owned = s.owned := rfl
@[simp] theorem State.setFrame_ownedFrom (s : State) (u : Nat) (f : Frame) : (s.setFrame u f).ownedFrom = s.ownedFrom := rfl
@[simp] theorem State.setFrame_retired (s : State) (u : Nat) (f : Frame) : (s.setFrame u f).retired = s.retired := rfl
@[simp] theorem State.setFrame_testing (s : State) (u : Nat) (f : Frame) : (s.setFrame u f).testing = s.testing := rfl
@[simp] theorem State.setFrame_ckpts (s : State) (u : Nat) (f : Frame) : (s.setFrame u f).ckpts = s.ckpts := rfl
@[simp] theorem State.setFrame_agenda (s : State) (u : Nat) (f : Frame) : (s.setFrame u f).agenda = s.agenda := rfl
@[simp] theorem State.setFrame_turn (s : State) (u : Nat) (f : Frame) : (s.setFrame u f).turn = s.turn := rfl
@[simp] theorem State.setFrame_cur (s : State) (u : Nat) (f : Frame) : (s.setFrame u f).cur = s.cur := rfl
@[simp] theorem State.setFrame_next (s : State) (u : Nat) (f : Frame) : (s.setFrame u f).next = s.next := rfl
@[simp] theorem State.setFrame_gord (s : State) (u : Nat) (f : Frame) : (s.setFrame u f).gord = s.gord := rfl
@[simp] theorem State.setFrame_clock (s : State) (u : Nat) (f : Frame) : (s.setFrame u f).clock = s.clock := rfl

/-! setCore changes the field cores alone. -/

@[simp] theorem State.setCore_mem (s : State) (c : Nat) (k : Core) : (s.setCore c k).mem = s.mem := rfl
@[simp] theorem State.setCore_strands (s : State) (c : Nat) (k : Core) : (s.setCore c k).strands = s.strands := rfl
@[simp] theorem State.setCore_frames (s : State) (c : Nat) (k : Core) : (s.setCore c k).frames = s.frames := rfl
@[simp] theorem State.setCore_dies (s : State) (c : Nat) (k : Core) : (s.setCore c k).dies = s.dies := rfl
@[simp] theorem State.setCore_parts (s : State) (c : Nat) (k : Core) : (s.setCore c k).parts = s.parts := rfl
@[simp] theorem State.setCore_counters (s : State) (c : Nat) (k : Core) : (s.setCore c k).counters = s.counters := rfl
@[simp] theorem State.setCore_act (s : State) (c : Nat) (k : Core) : (s.setCore c k).act = s.act := rfl
@[simp] theorem State.setCore_kslow (s : State) (c : Nat) (k : Core) : (s.setCore c k).kslow = s.kslow := rfl
@[simp] theorem State.setCore_errs (s : State) (c : Nat) (k : Core) : (s.setCore c k).errs = s.errs := rfl
@[simp] theorem State.setCore_unassigned (s : State) (c : Nat) (k : Core) : (s.setCore c k).unassigned = s.unassigned := rfl
@[simp] theorem State.setCore_seq (s : State) (c : Nat) (k : Core) : (s.setCore c k).seq = s.seq := rfl
@[simp] theorem State.setCore_epoch (s : State) (c : Nat) (k : Core) : (s.setCore c k).epoch = s.epoch := rfl
@[simp] theorem State.setCore_fused (s : State) (c : Nat) (k : Core) : (s.setCore c k).fused = s.fused := rfl
@[simp] theorem State.setCore_stage (s : State) (c : Nat) (k : Core) : (s.setCore c k).stage = s.stage := rfl
@[simp] theorem State.setCore_warmed (s : State) (c : Nat) (k : Core) : (s.setCore c k).warmed = s.warmed := rfl
@[simp] theorem State.setCore_failCode (s : State) (c : Nat) (k : Core) : (s.setCore c k).failCode = s.failCode := rfl
@[simp] theorem State.setCore_version (s : State) (c : Nat) (k : Core) : (s.setCore c k).version = s.version := rfl
@[simp] theorem State.setCore_failed (s : State) (c : Nat) (k : Core) : (s.setCore c k).failed = s.failed := rfl
@[simp] theorem State.setCore_firmware (s : State) (c : Nat) (k : Core) : (s.setCore c k).firmware = s.firmware := rfl
@[simp] theorem State.setCore_expansion (s : State) (c : Nat) (k : Core) : (s.setCore c k).expansion = s.expansion := rfl
@[simp] theorem State.setCore_powered (s : State) (c : Nat) (k : Core) : (s.setCore c k).powered = s.powered := rfl
@[simp] theorem State.setCore_epochAt (s : State) (c : Nat) (k : Core) : (s.setCore c k).epochAt = s.epochAt := rfl
@[simp] theorem State.setCore_readingAt (s : State) (c : Nat) (k : Core) : (s.setCore c k).readingAt = s.readingAt := rfl
@[simp] theorem State.setCore_cyc0 (s : State) (c : Nat) (k : Core) : (s.setCore c k).cyc0 = s.cyc0 := rfl
@[simp] theorem State.setCore_cyc1 (s : State) (c : Nat) (k : Core) : (s.setCore c k).cyc1 = s.cyc1 := rfl
@[simp] theorem State.setCore_response (s : State) (c : Nat) (k : Core) : (s.setCore c k).response = s.response := rfl
@[simp] theorem State.setCore_result (s : State) (c : Nat) (k : Core) : (s.setCore c k).result = s.result := rfl
@[simp] theorem State.setCore_msix (s : State) (c : Nat) (k : Core) : (s.setCore c k).msix = s.msix := rfl
@[simp] theorem State.setCore_answer (s : State) (c : Nat) (k : Core) : (s.setCore c k).answer = s.answer := rfl
@[simp] theorem State.setCore_peerOut (s : State) (c : Nat) (k : Core) : (s.setCore c k).peerOut = s.peerOut := rfl
@[simp] theorem State.setCore_creditsUsed (s : State) (c : Nat) (k : Core) : (s.setCore c k).creditsUsed = s.creditsUsed := rfl
@[simp] theorem State.setCore_signals (s : State) (c : Nat) (k : Core) : (s.setCore c k).signals = s.signals := rfl
@[simp] theorem State.setCore_class3 (s : State) (c : Nat) (k : Core) : (s.setCore c k).class3 = s.class3 := rfl
@[simp] theorem State.setCore_class3At (s : State) (c : Nat) (k : Core) : (s.setCore c k).class3At = s.class3At := rfl
@[simp] theorem State.setCore_links (s : State) (c : Nat) (k : Core) : (s.setCore c k).links = s.links := rfl
@[simp] theorem State.setCore_carried (s : State) (c : Nat) (k : Core) : (s.setCore c k).carried = s.carried := rfl
@[simp] theorem State.setCore_moved (s : State) (c : Nat) (k : Core) : (s.setCore c k).moved = s.moved := rfl
@[simp] theorem State.setCore_requests (s : State) (c : Nat) (k : Core) : (s.setCore c k).requests = s.requests := rfl
@[simp] theorem State.setCore_owned (s : State) (c : Nat) (k : Core) : (s.setCore c k).owned = s.owned := rfl
@[simp] theorem State.setCore_ownedFrom (s : State) (c : Nat) (k : Core) : (s.setCore c k).ownedFrom = s.ownedFrom := rfl
@[simp] theorem State.setCore_retired (s : State) (c : Nat) (k : Core) : (s.setCore c k).retired = s.retired := rfl
@[simp] theorem State.setCore_testing (s : State) (c : Nat) (k : Core) : (s.setCore c k).testing = s.testing := rfl
@[simp] theorem State.setCore_ckpts (s : State) (c : Nat) (k : Core) : (s.setCore c k).ckpts = s.ckpts := rfl
@[simp] theorem State.setCore_agenda (s : State) (c : Nat) (k : Core) : (s.setCore c k).agenda = s.agenda := rfl
@[simp] theorem State.setCore_turn (s : State) (c : Nat) (k : Core) : (s.setCore c k).turn = s.turn := rfl
@[simp] theorem State.setCore_cur (s : State) (c : Nat) (k : Core) : (s.setCore c k).cur = s.cur := rfl
@[simp] theorem State.setCore_next (s : State) (c : Nat) (k : Core) : (s.setCore c k).next = s.next := rfl
@[simp] theorem State.setCore_gord (s : State) (c : Nat) (k : Core) : (s.setCore c k).gord = s.gord := rfl
@[simp] theorem State.setCore_clock (s : State) (c : Nat) (k : Core) : (s.setCore c k).clock = s.clock := rfl

/-! setDie changes the field dies alone. -/

@[simp] theorem State.setDie_mem (s : State) (d : Nat) (x : Die) : (s.setDie d x).mem = s.mem := rfl
@[simp] theorem State.setDie_strands (s : State) (d : Nat) (x : Die) : (s.setDie d x).strands = s.strands := rfl
@[simp] theorem State.setDie_frames (s : State) (d : Nat) (x : Die) : (s.setDie d x).frames = s.frames := rfl
@[simp] theorem State.setDie_cores (s : State) (d : Nat) (x : Die) : (s.setDie d x).cores = s.cores := rfl
@[simp] theorem State.setDie_parts (s : State) (d : Nat) (x : Die) : (s.setDie d x).parts = s.parts := rfl
@[simp] theorem State.setDie_counters (s : State) (d : Nat) (x : Die) : (s.setDie d x).counters = s.counters := rfl
@[simp] theorem State.setDie_act (s : State) (d : Nat) (x : Die) : (s.setDie d x).act = s.act := rfl
@[simp] theorem State.setDie_kslow (s : State) (d : Nat) (x : Die) : (s.setDie d x).kslow = s.kslow := rfl
@[simp] theorem State.setDie_errs (s : State) (d : Nat) (x : Die) : (s.setDie d x).errs = s.errs := rfl
@[simp] theorem State.setDie_unassigned (s : State) (d : Nat) (x : Die) : (s.setDie d x).unassigned = s.unassigned := rfl
@[simp] theorem State.setDie_seq (s : State) (d : Nat) (x : Die) : (s.setDie d x).seq = s.seq := rfl
@[simp] theorem State.setDie_epoch (s : State) (d : Nat) (x : Die) : (s.setDie d x).epoch = s.epoch := rfl
@[simp] theorem State.setDie_fused (s : State) (d : Nat) (x : Die) : (s.setDie d x).fused = s.fused := rfl
@[simp] theorem State.setDie_stage (s : State) (d : Nat) (x : Die) : (s.setDie d x).stage = s.stage := rfl
@[simp] theorem State.setDie_warmed (s : State) (d : Nat) (x : Die) : (s.setDie d x).warmed = s.warmed := rfl
@[simp] theorem State.setDie_failCode (s : State) (d : Nat) (x : Die) : (s.setDie d x).failCode = s.failCode := rfl
@[simp] theorem State.setDie_version (s : State) (d : Nat) (x : Die) : (s.setDie d x).version = s.version := rfl
@[simp] theorem State.setDie_failed (s : State) (d : Nat) (x : Die) : (s.setDie d x).failed = s.failed := rfl
@[simp] theorem State.setDie_firmware (s : State) (d : Nat) (x : Die) : (s.setDie d x).firmware = s.firmware := rfl
@[simp] theorem State.setDie_expansion (s : State) (d : Nat) (x : Die) : (s.setDie d x).expansion = s.expansion := rfl
@[simp] theorem State.setDie_powered (s : State) (d : Nat) (x : Die) : (s.setDie d x).powered = s.powered := rfl
@[simp] theorem State.setDie_epochAt (s : State) (d : Nat) (x : Die) : (s.setDie d x).epochAt = s.epochAt := rfl
@[simp] theorem State.setDie_readingAt (s : State) (d : Nat) (x : Die) : (s.setDie d x).readingAt = s.readingAt := rfl
@[simp] theorem State.setDie_cyc0 (s : State) (d : Nat) (x : Die) : (s.setDie d x).cyc0 = s.cyc0 := rfl
@[simp] theorem State.setDie_cyc1 (s : State) (d : Nat) (x : Die) : (s.setDie d x).cyc1 = s.cyc1 := rfl
@[simp] theorem State.setDie_response (s : State) (d : Nat) (x : Die) : (s.setDie d x).response = s.response := rfl
@[simp] theorem State.setDie_result (s : State) (d : Nat) (x : Die) : (s.setDie d x).result = s.result := rfl
@[simp] theorem State.setDie_msix (s : State) (d : Nat) (x : Die) : (s.setDie d x).msix = s.msix := rfl
@[simp] theorem State.setDie_answer (s : State) (d : Nat) (x : Die) : (s.setDie d x).answer = s.answer := rfl
@[simp] theorem State.setDie_peerOut (s : State) (d : Nat) (x : Die) : (s.setDie d x).peerOut = s.peerOut := rfl
@[simp] theorem State.setDie_creditsUsed (s : State) (d : Nat) (x : Die) : (s.setDie d x).creditsUsed = s.creditsUsed := rfl
@[simp] theorem State.setDie_signals (s : State) (d : Nat) (x : Die) : (s.setDie d x).signals = s.signals := rfl
@[simp] theorem State.setDie_class3 (s : State) (d : Nat) (x : Die) : (s.setDie d x).class3 = s.class3 := rfl
@[simp] theorem State.setDie_class3At (s : State) (d : Nat) (x : Die) : (s.setDie d x).class3At = s.class3At := rfl
@[simp] theorem State.setDie_links (s : State) (d : Nat) (x : Die) : (s.setDie d x).links = s.links := rfl
@[simp] theorem State.setDie_carried (s : State) (d : Nat) (x : Die) : (s.setDie d x).carried = s.carried := rfl
@[simp] theorem State.setDie_moved (s : State) (d : Nat) (x : Die) : (s.setDie d x).moved = s.moved := rfl
@[simp] theorem State.setDie_requests (s : State) (d : Nat) (x : Die) : (s.setDie d x).requests = s.requests := rfl
@[simp] theorem State.setDie_owned (s : State) (d : Nat) (x : Die) : (s.setDie d x).owned = s.owned := rfl
@[simp] theorem State.setDie_ownedFrom (s : State) (d : Nat) (x : Die) : (s.setDie d x).ownedFrom = s.ownedFrom := rfl
@[simp] theorem State.setDie_retired (s : State) (d : Nat) (x : Die) : (s.setDie d x).retired = s.retired := rfl
@[simp] theorem State.setDie_testing (s : State) (d : Nat) (x : Die) : (s.setDie d x).testing = s.testing := rfl
@[simp] theorem State.setDie_ckpts (s : State) (d : Nat) (x : Die) : (s.setDie d x).ckpts = s.ckpts := rfl
@[simp] theorem State.setDie_agenda (s : State) (d : Nat) (x : Die) : (s.setDie d x).agenda = s.agenda := rfl
@[simp] theorem State.setDie_turn (s : State) (d : Nat) (x : Die) : (s.setDie d x).turn = s.turn := rfl
@[simp] theorem State.setDie_cur (s : State) (d : Nat) (x : Die) : (s.setDie d x).cur = s.cur := rfl
@[simp] theorem State.setDie_next (s : State) (d : Nat) (x : Die) : (s.setDie d x).next = s.next := rfl
@[simp] theorem State.setDie_gord (s : State) (d : Nat) (x : Die) : (s.setDie d x).gord = s.gord := rfl
@[simp] theorem State.setDie_clock (s : State) (d : Nat) (x : Die) : (s.setDie d x).clock = s.clock := rfl

/-! setPart changes the field parts alone. -/

@[simp] theorem State.setPart_mem (s : State) (p : Nat) (x : Part) : (s.setPart p x).mem = s.mem := rfl
@[simp] theorem State.setPart_strands (s : State) (p : Nat) (x : Part) : (s.setPart p x).strands = s.strands := rfl
@[simp] theorem State.setPart_frames (s : State) (p : Nat) (x : Part) : (s.setPart p x).frames = s.frames := rfl
@[simp] theorem State.setPart_cores (s : State) (p : Nat) (x : Part) : (s.setPart p x).cores = s.cores := rfl
@[simp] theorem State.setPart_dies (s : State) (p : Nat) (x : Part) : (s.setPart p x).dies = s.dies := rfl
@[simp] theorem State.setPart_counters (s : State) (p : Nat) (x : Part) : (s.setPart p x).counters = s.counters := rfl
@[simp] theorem State.setPart_act (s : State) (p : Nat) (x : Part) : (s.setPart p x).act = s.act := rfl
@[simp] theorem State.setPart_kslow (s : State) (p : Nat) (x : Part) : (s.setPart p x).kslow = s.kslow := rfl
@[simp] theorem State.setPart_errs (s : State) (p : Nat) (x : Part) : (s.setPart p x).errs = s.errs := rfl
@[simp] theorem State.setPart_unassigned (s : State) (p : Nat) (x : Part) : (s.setPart p x).unassigned = s.unassigned := rfl
@[simp] theorem State.setPart_seq (s : State) (p : Nat) (x : Part) : (s.setPart p x).seq = s.seq := rfl
@[simp] theorem State.setPart_epoch (s : State) (p : Nat) (x : Part) : (s.setPart p x).epoch = s.epoch := rfl
@[simp] theorem State.setPart_fused (s : State) (p : Nat) (x : Part) : (s.setPart p x).fused = s.fused := rfl
@[simp] theorem State.setPart_stage (s : State) (p : Nat) (x : Part) : (s.setPart p x).stage = s.stage := rfl
@[simp] theorem State.setPart_warmed (s : State) (p : Nat) (x : Part) : (s.setPart p x).warmed = s.warmed := rfl
@[simp] theorem State.setPart_failCode (s : State) (p : Nat) (x : Part) : (s.setPart p x).failCode = s.failCode := rfl
@[simp] theorem State.setPart_version (s : State) (p : Nat) (x : Part) : (s.setPart p x).version = s.version := rfl
@[simp] theorem State.setPart_failed (s : State) (p : Nat) (x : Part) : (s.setPart p x).failed = s.failed := rfl
@[simp] theorem State.setPart_firmware (s : State) (p : Nat) (x : Part) : (s.setPart p x).firmware = s.firmware := rfl
@[simp] theorem State.setPart_expansion (s : State) (p : Nat) (x : Part) : (s.setPart p x).expansion = s.expansion := rfl
@[simp] theorem State.setPart_powered (s : State) (p : Nat) (x : Part) : (s.setPart p x).powered = s.powered := rfl
@[simp] theorem State.setPart_epochAt (s : State) (p : Nat) (x : Part) : (s.setPart p x).epochAt = s.epochAt := rfl
@[simp] theorem State.setPart_readingAt (s : State) (p : Nat) (x : Part) : (s.setPart p x).readingAt = s.readingAt := rfl
@[simp] theorem State.setPart_cyc0 (s : State) (p : Nat) (x : Part) : (s.setPart p x).cyc0 = s.cyc0 := rfl
@[simp] theorem State.setPart_cyc1 (s : State) (p : Nat) (x : Part) : (s.setPart p x).cyc1 = s.cyc1 := rfl
@[simp] theorem State.setPart_response (s : State) (p : Nat) (x : Part) : (s.setPart p x).response = s.response := rfl
@[simp] theorem State.setPart_result (s : State) (p : Nat) (x : Part) : (s.setPart p x).result = s.result := rfl
@[simp] theorem State.setPart_msix (s : State) (p : Nat) (x : Part) : (s.setPart p x).msix = s.msix := rfl
@[simp] theorem State.setPart_answer (s : State) (p : Nat) (x : Part) : (s.setPart p x).answer = s.answer := rfl
@[simp] theorem State.setPart_peerOut (s : State) (p : Nat) (x : Part) : (s.setPart p x).peerOut = s.peerOut := rfl
@[simp] theorem State.setPart_creditsUsed (s : State) (p : Nat) (x : Part) : (s.setPart p x).creditsUsed = s.creditsUsed := rfl
@[simp] theorem State.setPart_signals (s : State) (p : Nat) (x : Part) : (s.setPart p x).signals = s.signals := rfl
@[simp] theorem State.setPart_class3 (s : State) (p : Nat) (x : Part) : (s.setPart p x).class3 = s.class3 := rfl
@[simp] theorem State.setPart_class3At (s : State) (p : Nat) (x : Part) : (s.setPart p x).class3At = s.class3At := rfl
@[simp] theorem State.setPart_links (s : State) (p : Nat) (x : Part) : (s.setPart p x).links = s.links := rfl
@[simp] theorem State.setPart_carried (s : State) (p : Nat) (x : Part) : (s.setPart p x).carried = s.carried := rfl
@[simp] theorem State.setPart_moved (s : State) (p : Nat) (x : Part) : (s.setPart p x).moved = s.moved := rfl
@[simp] theorem State.setPart_requests (s : State) (p : Nat) (x : Part) : (s.setPart p x).requests = s.requests := rfl
@[simp] theorem State.setPart_owned (s : State) (p : Nat) (x : Part) : (s.setPart p x).owned = s.owned := rfl
@[simp] theorem State.setPart_ownedFrom (s : State) (p : Nat) (x : Part) : (s.setPart p x).ownedFrom = s.ownedFrom := rfl
@[simp] theorem State.setPart_retired (s : State) (p : Nat) (x : Part) : (s.setPart p x).retired = s.retired := rfl
@[simp] theorem State.setPart_testing (s : State) (p : Nat) (x : Part) : (s.setPart p x).testing = s.testing := rfl
@[simp] theorem State.setPart_ckpts (s : State) (p : Nat) (x : Part) : (s.setPart p x).ckpts = s.ckpts := rfl
@[simp] theorem State.setPart_agenda (s : State) (p : Nat) (x : Part) : (s.setPart p x).agenda = s.agenda := rfl
@[simp] theorem State.setPart_turn (s : State) (p : Nat) (x : Part) : (s.setPart p x).turn = s.turn := rfl
@[simp] theorem State.setPart_cur (s : State) (p : Nat) (x : Part) : (s.setPart p x).cur = s.cur := rfl
@[simp] theorem State.setPart_next (s : State) (p : Nat) (x : Part) : (s.setPart p x).next = s.next := rfl
@[simp] theorem State.setPart_gord (s : State) (p : Nat) (x : Part) : (s.setPart p x).gord = s.gord := rfl
@[simp] theorem State.setPart_clock (s : State) (p : Nat) (x : Part) : (s.setPart p x).clock = s.clock := rfl

/-! setMe changes the field strands alone. -/

@[simp] theorem State.setMe_mem (s : State) (t : Strand) : (s.setMe t).mem = s.mem := rfl
@[simp] theorem State.setMe_frames (s : State) (t : Strand) : (s.setMe t).frames = s.frames := rfl
@[simp] theorem State.setMe_cores (s : State) (t : Strand) : (s.setMe t).cores = s.cores := rfl
@[simp] theorem State.setMe_dies (s : State) (t : Strand) : (s.setMe t).dies = s.dies := rfl
@[simp] theorem State.setMe_parts (s : State) (t : Strand) : (s.setMe t).parts = s.parts := rfl
@[simp] theorem State.setMe_counters (s : State) (t : Strand) : (s.setMe t).counters = s.counters := rfl
@[simp] theorem State.setMe_act (s : State) (t : Strand) : (s.setMe t).act = s.act := rfl
@[simp] theorem State.setMe_kslow (s : State) (t : Strand) : (s.setMe t).kslow = s.kslow := rfl
@[simp] theorem State.setMe_errs (s : State) (t : Strand) : (s.setMe t).errs = s.errs := rfl
@[simp] theorem State.setMe_unassigned (s : State) (t : Strand) : (s.setMe t).unassigned = s.unassigned := rfl
@[simp] theorem State.setMe_seq (s : State) (t : Strand) : (s.setMe t).seq = s.seq := rfl
@[simp] theorem State.setMe_epoch (s : State) (t : Strand) : (s.setMe t).epoch = s.epoch := rfl
@[simp] theorem State.setMe_fused (s : State) (t : Strand) : (s.setMe t).fused = s.fused := rfl
@[simp] theorem State.setMe_stage (s : State) (t : Strand) : (s.setMe t).stage = s.stage := rfl
@[simp] theorem State.setMe_warmed (s : State) (t : Strand) : (s.setMe t).warmed = s.warmed := rfl
@[simp] theorem State.setMe_failCode (s : State) (t : Strand) : (s.setMe t).failCode = s.failCode := rfl
@[simp] theorem State.setMe_version (s : State) (t : Strand) : (s.setMe t).version = s.version := rfl
@[simp] theorem State.setMe_failed (s : State) (t : Strand) : (s.setMe t).failed = s.failed := rfl
@[simp] theorem State.setMe_firmware (s : State) (t : Strand) : (s.setMe t).firmware = s.firmware := rfl
@[simp] theorem State.setMe_expansion (s : State) (t : Strand) : (s.setMe t).expansion = s.expansion := rfl
@[simp] theorem State.setMe_powered (s : State) (t : Strand) : (s.setMe t).powered = s.powered := rfl
@[simp] theorem State.setMe_epochAt (s : State) (t : Strand) : (s.setMe t).epochAt = s.epochAt := rfl
@[simp] theorem State.setMe_readingAt (s : State) (t : Strand) : (s.setMe t).readingAt = s.readingAt := rfl
@[simp] theorem State.setMe_cyc0 (s : State) (t : Strand) : (s.setMe t).cyc0 = s.cyc0 := rfl
@[simp] theorem State.setMe_cyc1 (s : State) (t : Strand) : (s.setMe t).cyc1 = s.cyc1 := rfl
@[simp] theorem State.setMe_response (s : State) (t : Strand) : (s.setMe t).response = s.response := rfl
@[simp] theorem State.setMe_result (s : State) (t : Strand) : (s.setMe t).result = s.result := rfl
@[simp] theorem State.setMe_msix (s : State) (t : Strand) : (s.setMe t).msix = s.msix := rfl
@[simp] theorem State.setMe_answer (s : State) (t : Strand) : (s.setMe t).answer = s.answer := rfl
@[simp] theorem State.setMe_peerOut (s : State) (t : Strand) : (s.setMe t).peerOut = s.peerOut := rfl
@[simp] theorem State.setMe_creditsUsed (s : State) (t : Strand) : (s.setMe t).creditsUsed = s.creditsUsed := rfl
@[simp] theorem State.setMe_signals (s : State) (t : Strand) : (s.setMe t).signals = s.signals := rfl
@[simp] theorem State.setMe_class3 (s : State) (t : Strand) : (s.setMe t).class3 = s.class3 := rfl
@[simp] theorem State.setMe_class3At (s : State) (t : Strand) : (s.setMe t).class3At = s.class3At := rfl
@[simp] theorem State.setMe_links (s : State) (t : Strand) : (s.setMe t).links = s.links := rfl
@[simp] theorem State.setMe_carried (s : State) (t : Strand) : (s.setMe t).carried = s.carried := rfl
@[simp] theorem State.setMe_moved (s : State) (t : Strand) : (s.setMe t).moved = s.moved := rfl
@[simp] theorem State.setMe_requests (s : State) (t : Strand) : (s.setMe t).requests = s.requests := rfl
@[simp] theorem State.setMe_owned (s : State) (t : Strand) : (s.setMe t).owned = s.owned := rfl
@[simp] theorem State.setMe_ownedFrom (s : State) (t : Strand) : (s.setMe t).ownedFrom = s.ownedFrom := rfl
@[simp] theorem State.setMe_retired (s : State) (t : Strand) : (s.setMe t).retired = s.retired := rfl
@[simp] theorem State.setMe_testing (s : State) (t : Strand) : (s.setMe t).testing = s.testing := rfl
@[simp] theorem State.setMe_ckpts (s : State) (t : Strand) : (s.setMe t).ckpts = s.ckpts := rfl
@[simp] theorem State.setMe_agenda (s : State) (t : Strand) : (s.setMe t).agenda = s.agenda := rfl
@[simp] theorem State.setMe_turn (s : State) (t : Strand) : (s.setMe t).turn = s.turn := rfl
@[simp] theorem State.setMe_cur (s : State) (t : Strand) : (s.setMe t).cur = s.cur := rfl
@[simp] theorem State.setMe_next (s : State) (t : Strand) : (s.setMe t).next = s.next := rfl
@[simp] theorem State.setMe_gord (s : State) (t : Strand) : (s.setMe t).gord = s.gord := rfl
@[simp] theorem State.setMe_clock (s : State) (t : Strand) : (s.setMe t).clock = s.clock := rfl

/-! endRun changes the field cores alone. -/

@[simp] theorem State.endRun_mem (s : State) (c : Nat) : (s.endRun c).mem = s.mem := rfl
@[simp] theorem State.endRun_strands (s : State) (c : Nat) : (s.endRun c).strands = s.strands := rfl
@[simp] theorem State.endRun_frames (s : State) (c : Nat) : (s.endRun c).frames = s.frames := rfl
@[simp] theorem State.endRun_dies (s : State) (c : Nat) : (s.endRun c).dies = s.dies := rfl
@[simp] theorem State.endRun_parts (s : State) (c : Nat) : (s.endRun c).parts = s.parts := rfl
@[simp] theorem State.endRun_counters (s : State) (c : Nat) : (s.endRun c).counters = s.counters := rfl
@[simp] theorem State.endRun_act (s : State) (c : Nat) : (s.endRun c).act = s.act := rfl
@[simp] theorem State.endRun_kslow (s : State) (c : Nat) : (s.endRun c).kslow = s.kslow := rfl
@[simp] theorem State.endRun_errs (s : State) (c : Nat) : (s.endRun c).errs = s.errs := rfl
@[simp] theorem State.endRun_unassigned (s : State) (c : Nat) : (s.endRun c).unassigned = s.unassigned := rfl
@[simp] theorem State.endRun_seq (s : State) (c : Nat) : (s.endRun c).seq = s.seq := rfl
@[simp] theorem State.endRun_epoch (s : State) (c : Nat) : (s.endRun c).epoch = s.epoch := rfl
@[simp] theorem State.endRun_fused (s : State) (c : Nat) : (s.endRun c).fused = s.fused := rfl
@[simp] theorem State.endRun_stage (s : State) (c : Nat) : (s.endRun c).stage = s.stage := rfl
@[simp] theorem State.endRun_warmed (s : State) (c : Nat) : (s.endRun c).warmed = s.warmed := rfl
@[simp] theorem State.endRun_failCode (s : State) (c : Nat) : (s.endRun c).failCode = s.failCode := rfl
@[simp] theorem State.endRun_version (s : State) (c : Nat) : (s.endRun c).version = s.version := rfl
@[simp] theorem State.endRun_failed (s : State) (c : Nat) : (s.endRun c).failed = s.failed := rfl
@[simp] theorem State.endRun_firmware (s : State) (c : Nat) : (s.endRun c).firmware = s.firmware := rfl
@[simp] theorem State.endRun_expansion (s : State) (c : Nat) : (s.endRun c).expansion = s.expansion := rfl
@[simp] theorem State.endRun_powered (s : State) (c : Nat) : (s.endRun c).powered = s.powered := rfl
@[simp] theorem State.endRun_epochAt (s : State) (c : Nat) : (s.endRun c).epochAt = s.epochAt := rfl
@[simp] theorem State.endRun_readingAt (s : State) (c : Nat) : (s.endRun c).readingAt = s.readingAt := rfl
@[simp] theorem State.endRun_cyc0 (s : State) (c : Nat) : (s.endRun c).cyc0 = s.cyc0 := rfl
@[simp] theorem State.endRun_cyc1 (s : State) (c : Nat) : (s.endRun c).cyc1 = s.cyc1 := rfl
@[simp] theorem State.endRun_response (s : State) (c : Nat) : (s.endRun c).response = s.response := rfl
@[simp] theorem State.endRun_result (s : State) (c : Nat) : (s.endRun c).result = s.result := rfl
@[simp] theorem State.endRun_msix (s : State) (c : Nat) : (s.endRun c).msix = s.msix := rfl
@[simp] theorem State.endRun_answer (s : State) (c : Nat) : (s.endRun c).answer = s.answer := rfl
@[simp] theorem State.endRun_peerOut (s : State) (c : Nat) : (s.endRun c).peerOut = s.peerOut := rfl
@[simp] theorem State.endRun_creditsUsed (s : State) (c : Nat) : (s.endRun c).creditsUsed = s.creditsUsed := rfl
@[simp] theorem State.endRun_signals (s : State) (c : Nat) : (s.endRun c).signals = s.signals := rfl
@[simp] theorem State.endRun_class3 (s : State) (c : Nat) : (s.endRun c).class3 = s.class3 := rfl
@[simp] theorem State.endRun_class3At (s : State) (c : Nat) : (s.endRun c).class3At = s.class3At := rfl
@[simp] theorem State.endRun_links (s : State) (c : Nat) : (s.endRun c).links = s.links := rfl
@[simp] theorem State.endRun_carried (s : State) (c : Nat) : (s.endRun c).carried = s.carried := rfl
@[simp] theorem State.endRun_moved (s : State) (c : Nat) : (s.endRun c).moved = s.moved := rfl
@[simp] theorem State.endRun_requests (s : State) (c : Nat) : (s.endRun c).requests = s.requests := rfl
@[simp] theorem State.endRun_owned (s : State) (c : Nat) : (s.endRun c).owned = s.owned := rfl
@[simp] theorem State.endRun_ownedFrom (s : State) (c : Nat) : (s.endRun c).ownedFrom = s.ownedFrom := rfl
@[simp] theorem State.endRun_retired (s : State) (c : Nat) : (s.endRun c).retired = s.retired := rfl
@[simp] theorem State.endRun_testing (s : State) (c : Nat) : (s.endRun c).testing = s.testing := rfl
@[simp] theorem State.endRun_ckpts (s : State) (c : Nat) : (s.endRun c).ckpts = s.ckpts := rfl
@[simp] theorem State.endRun_agenda (s : State) (c : Nat) : (s.endRun c).agenda = s.agenda := rfl
@[simp] theorem State.endRun_turn (s : State) (c : Nat) : (s.endRun c).turn = s.turn := rfl
@[simp] theorem State.endRun_cur (s : State) (c : Nat) : (s.endRun c).cur = s.cur := rfl
@[simp] theorem State.endRun_next (s : State) (c : Nat) : (s.endRun c).next = s.next := rfl
@[simp] theorem State.endRun_gord (s : State) (c : Nat) : (s.endRun c).gord = s.gord := rfl
@[simp] theorem State.endRun_clock (s : State) (c : Nat) : (s.endRun c).clock = s.clock := rfl

/-! What was set is read back; the others are as before. -/

@[simp] theorem State.strand_setStrand_same (s : State) (u : Nat) (t : Strand) : (s.setStrand u t).strand u = t := Tbl.get_set_same _ _ _ _
theorem State.strand_setStrand_ne (s : State) (u : Nat) (t : Strand) (j : Nat) (h : j ≠ u) : (s.setStrand u t).strand j = s.strand j := Tbl.get_set_ne _ _ _ h
@[simp] theorem State.frame_setFrame_same (s : State) (u : Nat) (f : Frame) : (s.setFrame u f).frame u = f := Tbl.get_set_same _ _ _ _
theorem State.frame_setFrame_ne (s : State) (u : Nat) (f : Frame) (j : Nat) (h : j ≠ u) : (s.setFrame u f).frame j = s.frame j := Tbl.get_set_ne _ _ _ h
@[simp] theorem State.core_setCore_same (s : State) (c : Nat) (k : Core) : (s.setCore c k).core c = k := Tbl.get_set_same _ _ _ _
theorem State.core_setCore_ne (s : State) (c : Nat) (k : Core) (j : Nat) (h : j ≠ c) : (s.setCore c k).core j = s.core j := Tbl.get_set_ne _ _ _ h
@[simp] theorem State.die_setDie_same (s : State) (d : Nat) (x : Die) : (s.setDie d x).die d = x := Tbl.get_set_same _ _ _ _
theorem State.die_setDie_ne (s : State) (d : Nat) (x : Die) (j : Nat) (h : j ≠ d) : (s.setDie d x).die j = s.die j := Tbl.get_set_ne _ _ _ h
@[simp] theorem State.part_setPart_same (s : State) (p : Nat) (x : Part) : (s.setPart p x).part p = x := Tbl.get_set_same _ _ _ _
theorem State.part_setPart_ne (s : State) (p : Nat) (x : Part) (j : Nat) (h : j ≠ p) : (s.setPart p x).part j = s.part j := Tbl.get_set_ne _ _ _ h

/-! An accessor of another field reads as before. -/

@[simp] theorem State.frame_setStrand (s : State) (u : Nat) (t : Strand) (j : Nat) : (s.setStrand u t).frame j = s.frame j := rfl
@[simp] theorem State.core_setStrand (s : State) (u : Nat) (t : Strand) (j : Nat) : (s.setStrand u t).core j = s.core j := rfl
@[simp] theorem State.die_setStrand (s : State) (u : Nat) (t : Strand) (j : Nat) : (s.setStrand u t).die j = s.die j := rfl
@[simp] theorem State.part_setStrand (s : State) (u : Nat) (t : Strand) (j : Nat) : (s.setStrand u t).part j = s.part j := rfl
@[simp] theorem State.strand_setFrame (s : State) (u : Nat) (f : Frame) (j : Nat) : (s.setFrame u f).strand j = s.strand j := rfl
@[simp] theorem State.core_setFrame (s : State) (u : Nat) (f : Frame) (j : Nat) : (s.setFrame u f).core j = s.core j := rfl
@[simp] theorem State.die_setFrame (s : State) (u : Nat) (f : Frame) (j : Nat) : (s.setFrame u f).die j = s.die j := rfl
@[simp] theorem State.part_setFrame (s : State) (u : Nat) (f : Frame) (j : Nat) : (s.setFrame u f).part j = s.part j := rfl
@[simp] theorem State.strand_setCore (s : State) (c : Nat) (k : Core) (j : Nat) : (s.setCore c k).strand j = s.strand j := rfl
@[simp] theorem State.frame_setCore (s : State) (c : Nat) (k : Core) (j : Nat) : (s.setCore c k).frame j = s.frame j := rfl
@[simp] theorem State.die_setCore (s : State) (c : Nat) (k : Core) (j : Nat) : (s.setCore c k).die j = s.die j := rfl
@[simp] theorem State.part_setCore (s : State) (c : Nat) (k : Core) (j : Nat) : (s.setCore c k).part j = s.part j := rfl
@[simp] theorem State.strand_setDie (s : State) (d : Nat) (x : Die) (j : Nat) : (s.setDie d x).strand j = s.strand j := rfl
@[simp] theorem State.frame_setDie (s : State) (d : Nat) (x : Die) (j : Nat) : (s.setDie d x).frame j = s.frame j := rfl
@[simp] theorem State.core_setDie (s : State) (d : Nat) (x : Die) (j : Nat) : (s.setDie d x).core j = s.core j := rfl
@[simp] theorem State.part_setDie (s : State) (d : Nat) (x : Die) (j : Nat) : (s.setDie d x).part j = s.part j := rfl
@[simp] theorem State.strand_setPart (s : State) (p : Nat) (x : Part) (j : Nat) : (s.setPart p x).strand j = s.strand j := rfl
@[simp] theorem State.frame_setPart (s : State) (p : Nat) (x : Part) (j : Nat) : (s.setPart p x).frame j = s.frame j := rfl
@[simp] theorem State.core_setPart (s : State) (p : Nat) (x : Part) (j : Nat) : (s.setPart p x).core j = s.core j := rfl
@[simp] theorem State.die_setPart (s : State) (p : Nat) (x : Part) (j : Nat) : (s.setPart p x).die j = s.die j := rfl
@[simp] theorem State.frame_setMe (s : State) (t : Strand) (j : Nat) : (s.setMe t).frame j = s.frame j := rfl
@[simp] theorem State.core_setMe (s : State) (t : Strand) (j : Nat) : (s.setMe t).core j = s.core j := rfl
@[simp] theorem State.die_setMe (s : State) (t : Strand) (j : Nat) : (s.setMe t).die j = s.die j := rfl
@[simp] theorem State.part_setMe (s : State) (t : Strand) (j : Nat) : (s.setMe t).part j = s.part j := rfl
@[simp] theorem State.strand_endRun (s : State) (c : Nat) (j : Nat) : (s.endRun c).strand j = s.strand j := rfl
@[simp] theorem State.frame_endRun (s : State) (c : Nat) (j : Nat) : (s.endRun c).frame j = s.frame j := rfl
@[simp] theorem State.die_endRun (s : State) (c : Nat) (j : Nat) : (s.endRun c).die j = s.die j := rfl
@[simp] theorem State.part_endRun (s : State) (c : Nat) (j : Nat) : (s.endRun c).part j = s.part j := rfl

@[simp] theorem State.me_setMe (s : State) (t : Strand) : (s.setMe t).me = t := Tbl.get_set_same _ _ _ _
@[simp] theorem State.setMe_setMe (s : State) (t r : Strand) : (s.setMe t).setMe r = s.setMe r := by
  simp [State.setMe, State.setStrand]
@[simp] theorem State.strand_setMe_same (s : State) (t : Strand) : (s.setMe t).strand s.cur = t := Tbl.get_set_same _ _ _ _
theorem State.strand_setMe_ne (s : State) (t : Strand) (j : Nat) (h : j ≠ s.cur) : (s.setMe t).strand j = s.strand j := Tbl.get_set_ne _ _ _ h
theorem State.me_eq (s : State) : s.me = s.strand s.cur := rfl
@[simp] theorem State.me_setCore (s : State) (c : Nat) (k : Core) : (s.setCore c k).me = s.me := rfl
@[simp] theorem State.me_setPart (s : State) (p : Nat) (x : Part) : (s.setPart p x).me = s.me := rfl
@[simp] theorem State.me_setFrame (s : State) (u : Nat) (f : Frame) : (s.setFrame u f).me = s.me := rfl
@[simp] theorem State.me_endRun (s : State) (c : Nat) : (s.endRun c).me = s.me := rfl

/-! Registers of a strand. -/

@[simp] theorem Strand.s_zero (t : Strand) : t.s 0 = 0 := by simp [Strand.s]
/-- A write to S0 is discarded. -/
@[simp] theorem Strand.setS_zero (t : Strand) (v : W64) : t.setS 0 v = t := by simp [Strand.setS]
/-- A scalar written reads back, unless it is S0. -/
theorem Strand.s_setS_same (t : Strand) (r : SCode) (v : W64) (h : r ≠ 0) : (t.setS r v).s r = v := by
  unfold Strand.s Strand.setS
  rw [if_neg h, if_neg h]
  exact Tbl.get_set_same _ _ _ _
/-- Every other scalar is as before. -/
theorem Strand.s_setS_ne (t : Strand) (r q : SCode) (v : W64) (h : q ≠ r) : (t.setS r v).s q = t.s q := by
  have hn : q.toNat ≠ r.toNat := fun e => h (BitVec.eq_of_toNat_eq e)
  unfold Strand.s Strand.setS
  split
  · rfl
  · split
    · rfl
    · exact Tbl.get_set_ne _ _ _ hn
@[simp] theorem Strand.base_setBase_same (t : Strand) (r : BCode) (v : W80) : (t.setBase r v).base r = v := Tbl.get_set_same _ _ _ _
theorem Strand.base_setBase_ne (t : Strand) (r q : BCode) (v : W80) (h : q ≠ r) : (t.setBase r v).base q = t.base q :=
  Tbl.get_set_ne _ _ _ fun e => h (BitVec.eq_of_toNat_eq e)
/-- A map register written reads back, unless it is P0. -/
theorem Strand.mapReg_setMapReg_same (t : Strand) (c : MCode) (m : LaneMap) (h : c ≠ 0) : (t.setMapReg c m).mapReg c = m := by
  unfold Strand.mapReg Strand.setMapReg
  rw [if_neg h, if_neg h]
  exact Tbl.get_set_same _ _ _ _
/-- P0 is never written. -/
@[simp] theorem Strand.setMapReg_zero (t : Strand) (m : LaneMap) : t.setMapReg 0 m = t := by simp [Strand.setMapReg]
@[simp] theorem Strand.setS_life (t : Strand) (c : SCode) (w : W64) : (t.setS c w).life = t.life := by unfold Strand.setS; split <;> rfl
@[simp] theorem Strand.setMapReg_life (t : Strand) (c : MCode) (m : LaneMap) : (t.setMapReg c m).life = t.life := by unfold Strand.setMapReg; split <;> rfl
@[simp] theorem Strand.setBase_life (t : Strand) (c : BCode) (w : W80) : (t.setBase c w).life = t.life := rfl
@[simp] theorem Strand.setS_part (t : Strand) (c : SCode) (w : W64) : (t.setS c w).part = t.part := by unfold Strand.setS; split <;> rfl
@[simp] theorem Strand.setMapReg_part (t : Strand) (c : MCode) (m : LaneMap) : (t.setMapReg c m).part = t.part := by unfold Strand.setMapReg; split <;> rfl
@[simp] theorem Strand.setBase_part (t : Strand) (c : BCode) (w : W80) : (t.setBase c w).part = t.part := rfl
@[simp] theorem Strand.setS_frame (t : Strand) (c : SCode) (w : W64) : (t.setS c w).frame = t.frame := by unfold Strand.setS; split <;> rfl
@[simp] theorem Strand.setMapReg_frame (t : Strand) (c : MCode) (m : LaneMap) : (t.setMapReg c m).frame = t.frame := by unfold Strand.setMapReg; split <;> rfl
@[simp] theorem Strand.setBase_frame (t : Strand) (c : BCode) (w : W80) : (t.setBase c w).frame = t.frame := rfl
@[simp] theorem Strand.setS_core (t : Strand) (c : SCode) (w : W64) : (t.setS c w).core = t.core := by unfold Strand.setS; split <;> rfl
@[simp] theorem Strand.setMapReg_core (t : Strand) (c : MCode) (m : LaneMap) : (t.setMapReg c m).core = t.core := by unfold Strand.setMapReg; split <;> rfl
@[simp] theorem Strand.setBase_core (t : Strand) (c : BCode) (w : W80) : (t.setBase c w).core = t.core := rfl
@[simp] theorem Strand.setS_slot (t : Strand) (c : SCode) (w : W64) : (t.setS c w).slot = t.slot := by unfold Strand.setS; split <;> rfl
@[simp] theorem Strand.setMapReg_slot (t : Strand) (c : MCode) (m : LaneMap) : (t.setMapReg c m).slot = t.slot := by unfold Strand.setMapReg; split <;> rfl
@[simp] theorem Strand.setBase_slot (t : Strand) (c : BCode) (w : W80) : (t.setBase c w).slot = t.slot := rfl
@[simp] theorem Strand.setS_priv (t : Strand) (c : SCode) (w : W64) : (t.setS c w).priv = t.priv := by unfold Strand.setS; split <;> rfl
@[simp] theorem Strand.setMapReg_priv (t : Strand) (c : MCode) (m : LaneMap) : (t.setMapReg c m).priv = t.priv := by unfold Strand.setMapReg; split <;> rfl
@[simp] theorem Strand.setBase_priv (t : Strand) (c : BCode) (w : W80) : (t.setBase c w).priv = t.priv := rfl
@[simp] theorem Strand.setS_sidx (t : Strand) (c : SCode) (w : W64) : (t.setS c w).sidx = t.sidx := by unfold Strand.setS; split <;> rfl
@[simp] theorem Strand.setMapReg_sidx (t : Strand) (c : MCode) (m : LaneMap) : (t.setMapReg c m).sidx = t.sidx := by unfold Strand.setMapReg; split <;> rfl
@[simp] theorem Strand.setBase_sidx (t : Strand) (c : BCode) (w : W80) : (t.setBase c w).sidx = t.sidx := rfl
@[simp] theorem Strand.setS_ext (t : Strand) (c : SCode) (w : W64) : (t.setS c w).ext = t.ext := by unfold Strand.setS; split <;> rfl
@[simp] theorem Strand.setMapReg_ext (t : Strand) (c : MCode) (m : LaneMap) : (t.setMapReg c m).ext = t.ext := by unfold Strand.setMapReg; split <;> rfl
@[simp] theorem Strand.setBase_ext (t : Strand) (c : BCode) (w : W80) : (t.setBase c w).ext = t.ext := rfl
@[simp] theorem Strand.setS_span (t : Strand) (c : SCode) (w : W64) : (t.setS c w).span = t.span := by unfold Strand.setS; split <;> rfl
@[simp] theorem Strand.setMapReg_span (t : Strand) (c : MCode) (m : LaneMap) : (t.setMapReg c m).span = t.span := by unfold Strand.setMapReg; split <;> rfl
@[simp] theorem Strand.setBase_span (t : Strand) (c : BCode) (w : W80) : (t.setBase c w).span = t.span := rfl
@[simp] theorem Strand.setS_v (t : Strand) (c : SCode) (w : W64) : (t.setS c w).v = t.v := by unfold Strand.setS; split <;> rfl
@[simp] theorem Strand.setMapReg_v (t : Strand) (c : MCode) (m : LaneMap) : (t.setMapReg c m).v = t.v := by unfold Strand.setMapReg; split <;> rfl
@[simp] theorem Strand.setBase_v (t : Strand) (c : BCode) (w : W80) : (t.setBase c w).v = t.v := rfl
@[simp] theorem Strand.setS_q (t : Strand) (c : SCode) (w : W64) : (t.setS c w).q = t.q := by unfold Strand.setS; split <;> rfl
@[simp] theorem Strand.setMapReg_q (t : Strand) (c : MCode) (m : LaneMap) : (t.setMapReg c m).q = t.q := by unfold Strand.setMapReg; split <;> rfl
@[simp] theorem Strand.setBase_q (t : Strand) (c : BCode) (w : W80) : (t.setBase c w).q = t.q := rfl
@[simp] theorem Strand.setMapReg_sr (t : Strand) (c : MCode) (m : LaneMap) : (t.setMapReg c m).sr = t.sr := by unfold Strand.setMapReg; split <;> rfl
@[simp] theorem Strand.setBase_sr (t : Strand) (c : BCode) (w : W80) : (t.setBase c w).sr = t.sr := rfl
@[simp] theorem Strand.setS_b (t : Strand) (c : SCode) (w : W64) : (t.setS c w).b = t.b := by unfold Strand.setS; split <;> rfl
@[simp] theorem Strand.setMapReg_b (t : Strand) (c : MCode) (m : LaneMap) : (t.setMapReg c m).b = t.b := by unfold Strand.setMapReg; split <;> rfl
@[simp] theorem Strand.setS_f (t : Strand) (c : SCode) (w : W64) : (t.setS c w).f = t.f := by unfold Strand.setS; split <;> rfl
@[simp] theorem Strand.setMapReg_f (t : Strand) (c : MCode) (m : LaneMap) : (t.setMapReg c m).f = t.f := by unfold Strand.setMapReg; split <;> rfl
@[simp] theorem Strand.setBase_f (t : Strand) (c : BCode) (w : W80) : (t.setBase c w).f = t.f := rfl
@[simp] theorem Strand.setS_g (t : Strand) (c : SCode) (w : W64) : (t.setS c w).g = t.g := by unfold Strand.setS; split <;> rfl
@[simp] theorem Strand.setMapReg_g (t : Strand) (c : MCode) (m : LaneMap) : (t.setMapReg c m).g = t.g := by unfold Strand.setMapReg; split <;> rfl
@[simp] theorem Strand.setBase_g (t : Strand) (c : BCode) (w : W80) : (t.setBase c w).g = t.g := rfl
@[simp] theorem Strand.setS_disc (t : Strand) (c : SCode) (w : W64) : (t.setS c w).disc = t.disc := by unfold Strand.setS; split <;> rfl
@[simp] theorem Strand.setMapReg_disc (t : Strand) (c : MCode) (m : LaneMap) : (t.setMapReg c m).disc = t.disc := by unfold Strand.setMapReg; split <;> rfl
@[simp] theorem Strand.setBase_disc (t : Strand) (c : BCode) (w : W80) : (t.setBase c w).disc = t.disc := rfl
@[simp] theorem Strand.setS_mapdrop (t : Strand) (c : SCode) (w : W64) : (t.setS c w).mapdrop = t.mapdrop := by unfold Strand.setS; split <;> rfl
@[simp] theorem Strand.setMapReg_mapdrop (t : Strand) (c : MCode) (m : LaneMap) : (t.setMapReg c m).mapdrop = t.mapdrop := by unfold Strand.setMapReg; split <;> rfl
@[simp] theorem Strand.setBase_mapdrop (t : Strand) (c : BCode) (w : W80) : (t.setBase c w).mapdrop = t.mapdrop := rfl
@[simp] theorem Strand.setS_stray (t : Strand) (c : SCode) (w : W64) : (t.setS c w).stray = t.stray := by unfold Strand.setS; split <;> rfl
@[simp] theorem Strand.setMapReg_stray (t : Strand) (c : MCode) (m : LaneMap) : (t.setMapReg c m).stray = t.stray := by unfold Strand.setMapReg; split <;> rfl
@[simp] theorem Strand.setBase_stray (t : Strand) (c : BCode) (w : W80) : (t.setBase c w).stray = t.stray := rfl
@[simp] theorem Strand.setS_runcut (t : Strand) (c : SCode) (w : W64) : (t.setS c w).runcut = t.runcut := by unfold Strand.setS; split <;> rfl
@[simp] theorem Strand.setMapReg_runcut (t : Strand) (c : MCode) (m : LaneMap) : (t.setMapReg c m).runcut = t.runcut := by unfold Strand.setMapReg; split <;> rfl
@[simp] theorem Strand.setBase_runcut (t : Strand) (c : BCode) (w : W80) : (t.setBase c w).runcut = t.runcut := rfl
@[simp] theorem Strand.setS_batchstat (t : Strand) (c : SCode) (w : W64) : (t.setS c w).batchstat = t.batchstat := by unfold Strand.setS; split <;> rfl
@[simp] theorem Strand.setMapReg_batchstat (t : Strand) (c : MCode) (m : LaneMap) : (t.setMapReg c m).batchstat = t.batchstat := by unfold Strand.setMapReg; split <;> rfl
@[simp] theorem Strand.setBase_batchstat (t : Strand) (c : BCode) (w : W80) : (t.setBase c w).batchstat = t.batchstat := rfl
@[simp] theorem Strand.setS_idem (t : Strand) (c : SCode) (w : W64) : (t.setS c w).idem = t.idem := by unfold Strand.setS; split <;> rfl
@[simp] theorem Strand.setMapReg_idem (t : Strand) (c : MCode) (m : LaneMap) : (t.setMapReg c m).idem = t.idem := by unfold Strand.setMapReg; split <;> rfl
@[simp] theorem Strand.setBase_idem (t : Strand) (c : BCode) (w : W80) : (t.setBase c w).idem = t.idem := rfl
@[simp] theorem Strand.setS_handler (t : Strand) (c : SCode) (w : W64) : (t.setS c w).handler = t.handler := by unfold Strand.setS; split <;> rfl
@[simp] theorem Strand.setMapReg_handler (t : Strand) (c : MCode) (m : LaneMap) : (t.setMapReg c m).handler = t.handler := by unfold Strand.setMapReg; split <;> rfl
@[simp] theorem Strand.setBase_handler (t : Strand) (c : BCode) (w : W80) : (t.setBase c w).handler = t.handler := rfl
@[simp] theorem Strand.setS_absvec (t : Strand) (c : SCode) (w : W64) : (t.setS c w).absvec = t.absvec := by unfold Strand.setS; split <;> rfl
@[simp] theorem Strand.setMapReg_absvec (t : Strand) (c : MCode) (m : LaneMap) : (t.setMapReg c m).absvec = t.absvec := by unfold Strand.setMapReg; split <;> rfl
@[simp] theorem Strand.setBase_absvec (t : Strand) (c : BCode) (w : W80) : (t.setBase c w).absvec = t.absvec := rfl
@[simp] theorem Strand.setS_trapcode (t : Strand) (c : SCode) (w : W64) : (t.setS c w).trapcode = t.trapcode := by unfold Strand.setS; split <;> rfl
@[simp] theorem Strand.setMapReg_trapcode (t : Strand) (c : MCode) (m : LaneMap) : (t.setMapReg c m).trapcode = t.trapcode := by unfold Strand.setMapReg; split <;> rfl
@[simp] theorem Strand.setBase_trapcode (t : Strand) (c : BCode) (w : W80) : (t.setBase c w).trapcode = t.trapcode := rfl
@[simp] theorem Strand.setS_trappc (t : Strand) (c : SCode) (w : W64) : (t.setS c w).trappc = t.trappc := by unfold Strand.setS; split <;> rfl
@[simp] theorem Strand.setMapReg_trappc (t : Strand) (c : MCode) (m : LaneMap) : (t.setMapReg c m).trappc = t.trappc := by unfold Strand.setMapReg; split <;> rfl
@[simp] theorem Strand.setBase_trappc (t : Strand) (c : BCode) (w : W80) : (t.setBase c w).trappc = t.trappc := rfl
@[simp] theorem Strand.setS_prio (t : Strand) (c : SCode) (w : W64) : (t.setS c w).prio = t.prio := by unfold Strand.setS; split <;> rfl
@[simp] theorem Strand.setMapReg_prio (t : Strand) (c : MCode) (m : LaneMap) : (t.setMapReg c m).prio = t.prio := by unfold Strand.setMapReg; split <;> rfl
@[simp] theorem Strand.setBase_prio (t : Strand) (c : BCode) (w : W80) : (t.setBase c w).prio = t.prio := rfl
@[simp] theorem Strand.setS_pegquota (t : Strand) (c : SCode) (w : W64) : (t.setS c w).pegquota = t.pegquota := by unfold Strand.setS; split <;> rfl
@[simp] theorem Strand.setMapReg_pegquota (t : Strand) (c : MCode) (m : LaneMap) : (t.setMapReg c m).pegquota = t.pegquota := by unfold Strand.setMapReg; split <;> rfl
@[simp] theorem Strand.setBase_pegquota (t : Strand) (c : BCode) (w : W80) : (t.setBase c w).pegquota = t.pegquota := rfl
@[simp] theorem Strand.setS_pc (t : Strand) (c : SCode) (w : W64) : (t.setS c w).pc = t.pc := by unfold Strand.setS; split <;> rfl
@[simp] theorem Strand.setMapReg_pc (t : Strand) (c : MCode) (m : LaneMap) : (t.setMapReg c m).pc = t.pc := by unfold Strand.setMapReg; split <;> rfl
@[simp] theorem Strand.setBase_pc (t : Strand) (c : BCode) (w : W80) : (t.setBase c w).pc = t.pc := rfl
@[simp] theorem Strand.setS_slotEnd (t : Strand) (c : SCode) (w : W64) : (t.setS c w).slotEnd = t.slotEnd := by unfold Strand.setS; split <;> rfl
@[simp] theorem Strand.setMapReg_slotEnd (t : Strand) (c : MCode) (m : LaneMap) : (t.setMapReg c m).slotEnd = t.slotEnd := by unfold Strand.setMapReg; split <;> rfl
@[simp] theorem Strand.setBase_slotEnd (t : Strand) (c : BCode) (w : W80) : (t.setBase c w).slotEnd = t.slotEnd := rfl
@[simp] theorem Strand.setS_stack (t : Strand) (c : SCode) (w : W64) : (t.setS c w).stack = t.stack := by unfold Strand.setS; split <;> rfl
@[simp] theorem Strand.setMapReg_stack (t : Strand) (c : MCode) (m : LaneMap) : (t.setMapReg c m).stack = t.stack := by unfold Strand.setMapReg; split <;> rfl
@[simp] theorem Strand.setBase_stack (t : Strand) (c : BCode) (w : W80) : (t.setBase c w).stack = t.stack := rfl
@[simp] theorem Strand.setS_evicted (t : Strand) (c : SCode) (w : W64) : (t.setS c w).evicted = t.evicted := by unfold Strand.setS; split <;> rfl
@[simp] theorem Strand.setMapReg_evicted (t : Strand) (c : MCode) (m : LaneMap) : (t.setMapReg c m).evicted = t.evicted := by unfold Strand.setMapReg; split <;> rfl
@[simp] theorem Strand.setBase_evicted (t : Strand) (c : BCode) (w : W80) : (t.setBase c w).evicted = t.evicted := rfl
@[simp] theorem Strand.setS_written (t : Strand) (c : SCode) (w : W64) : (t.setS c w).written = t.written := by unfold Strand.setS; split <;> rfl
@[simp] theorem Strand.setMapReg_written (t : Strand) (c : MCode) (m : LaneMap) : (t.setMapReg c m).written = t.written := by unfold Strand.setMapReg; split <;> rfl
@[simp] theorem Strand.setBase_written (t : Strand) (c : BCode) (w : W80) : (t.setBase c w).written = t.written := rfl
@[simp] theorem Strand.setS_ord (t : Strand) (c : SCode) (w : W64) : (t.setS c w).ord = t.ord := by unfold Strand.setS; split <;> rfl
@[simp] theorem Strand.setMapReg_ord (t : Strand) (c : MCode) (m : LaneMap) : (t.setMapReg c m).ord = t.ord := by unfold Strand.setMapReg; split <;> rfl
@[simp] theorem Strand.setBase_ord (t : Strand) (c : BCode) (w : W80) : (t.setBase c w).ord = t.ord := rfl
@[simp] theorem Strand.setS_sq (t : Strand) (c : SCode) (w : W64) : (t.setS c w).sq = t.sq := by unfold Strand.setS; split <;> rfl
@[simp] theorem Strand.setMapReg_sq (t : Strand) (c : MCode) (m : LaneMap) : (t.setMapReg c m).sq = t.sq := by unfold Strand.setMapReg; split <;> rfl
@[simp] theorem Strand.setBase_sq (t : Strand) (c : BCode) (w : W80) : (t.setBase c w).sq = t.sq := rfl
@[simp] theorem Strand.setS_fences (t : Strand) (c : SCode) (w : W64) : (t.setS c w).fences = t.fences := by unfold Strand.setS; split <;> rfl
@[simp] theorem Strand.setMapReg_fences (t : Strand) (c : MCode) (m : LaneMap) : (t.setMapReg c m).fences = t.fences := by unfold Strand.setMapReg; split <;> rfl
@[simp] theorem Strand.setBase_fences (t : Strand) (c : BCode) (w : W80) : (t.setBase c w).fences = t.fences := rfl
@[simp] theorem Strand.setS_rets (t : Strand) (c : SCode) (w : W64) : (t.setS c w).rets = t.rets := by unfold Strand.setS; split <;> rfl
@[simp] theorem Strand.setMapReg_rets (t : Strand) (c : MCode) (m : LaneMap) : (t.setMapReg c m).rets = t.rets := by unfold Strand.setMapReg; split <;> rfl
@[simp] theorem Strand.setBase_rets (t : Strand) (c : BCode) (w : W80) : (t.setBase c w).rets = t.rets := rfl
@[simp] theorem Strand.setS_copy (t : Strand) (c : SCode) (w : W64) : (t.setS c w).copy = t.copy := by unfold Strand.setS; split <;> rfl
@[simp] theorem Strand.setMapReg_copy (t : Strand) (c : MCode) (m : LaneMap) : (t.setMapReg c m).copy = t.copy := by unfold Strand.setMapReg; split <;> rfl
@[simp] theorem Strand.setBase_copy (t : Strand) (c : BCode) (w : W80) : (t.setBase c w).copy = t.copy := rfl
@[simp] theorem Strand.setS_mx (t : Strand) (c : SCode) (w : W64) : (t.setS c w).mx = t.mx := by unfold Strand.setS; split <;> rfl
@[simp] theorem Strand.setMapReg_mx (t : Strand) (c : MCode) (m : LaneMap) : (t.setMapReg c m).mx = t.mx := by unfold Strand.setMapReg; split <;> rfl
@[simp] theorem Strand.setBase_mx (t : Strand) (c : BCode) (w : W80) : (t.setBase c w).mx = t.mx := rfl
@[simp] theorem Strand.setS_meets (t : Strand) (c : SCode) (w : W64) : (t.setS c w).meets = t.meets := by unfold Strand.setS; split <;> rfl
@[simp] theorem Strand.setMapReg_meets (t : Strand) (c : MCode) (m : LaneMap) : (t.setMapReg c m).meets = t.meets := by unfold Strand.setMapReg; split <;> rfl
@[simp] theorem Strand.setBase_meets (t : Strand) (c : BCode) (w : W80) : (t.setBase c w).meets = t.meets := rfl
@[simp] theorem Strand.setS_twin (t : Strand) (c : SCode) (w : W64) : (t.setS c w).twin = t.twin := by unfold Strand.setS; split <;> rfl
@[simp] theorem Strand.setMapReg_twin (t : Strand) (c : MCode) (m : LaneMap) : (t.setMapReg c m).twin = t.twin := by unfold Strand.setMapReg; split <;> rfl
@[simp] theorem Strand.setBase_twin (t : Strand) (c : BCode) (w : W80) : (t.setBase c w).twin = t.twin := rfl
@[simp] theorem Strand.setS_shadow (t : Strand) (c : SCode) (w : W64) : (t.setS c w).shadow = t.shadow := by unfold Strand.setS; split <;> rfl
@[simp] theorem Strand.setMapReg_shadow (t : Strand) (c : MCode) (m : LaneMap) : (t.setMapReg c m).shadow = t.shadow := by unfold Strand.setMapReg; split <;> rfl
@[simp] theorem Strand.setBase_shadow (t : Strand) (c : BCode) (w : W80) : (t.setBase c w).shadow = t.shadow := rfl
@[simp] theorem Strand.setS_ckDue (t : Strand) (c : SCode) (w : W64) : (t.setS c w).ckDue = t.ckDue := by unfold Strand.setS; split <;> rfl
@[simp] theorem Strand.setMapReg_ckDue (t : Strand) (c : MCode) (m : LaneMap) : (t.setMapReg c m).ckDue = t.ckDue := by unfold Strand.setMapReg; split <;> rfl
@[simp] theorem Strand.setBase_ckDue (t : Strand) (c : BCode) (w : W80) : (t.setBase c w).ckDue = t.ckDue := rfl
@[simp] theorem Strand.setS_sMark (t : Strand) (c : SCode) (w : W64) : (t.setS c w).sMark = t.sMark := by unfold Strand.setS; split <;> rfl
@[simp] theorem Strand.setMapReg_sMark (t : Strand) (c : MCode) (m : LaneMap) : (t.setMapReg c m).sMark = t.sMark := by unfold Strand.setMapReg; split <;> rfl
@[simp] theorem Strand.setBase_sMark (t : Strand) (c : BCode) (w : W80) : (t.setBase c w).sMark = t.sMark := rfl

/-! Traffic: what the links carry changes the four counts of traffic alone. -/

/-- From `s` to `t` nothing has changed but the counts of traffic. -/
def State.SameButTraffic (s t : State) : Prop :=
  t = { s with class3 := t.class3, carried := t.carried, moved := t.moved, requests := t.requests }

theorem State.sameButTraffic_refl (s : State) : s.SameButTraffic s := rfl

theorem State.sameButTraffic_trans {s t w : State} (h : s.SameButTraffic t) (g : t.SameButTraffic w) : s.SameButTraffic w := by
  unfold State.SameButTraffic at h g ⊢
  rw [h] at g
  exact g

/-- A field that is no count of traffic is the same. -/
theorem State.SameButTraffic.field {α : Sort _} {s t : State} (h : s.SameButTraffic t) (f : State → α)
    (hf : ∀ (s : State) a b c d, f { s with class3 := a, carried := b, moved := c, requests := d } = f s) : f t = f s :=
  (congrArg f h).trans (hf s _ _ _ _)

/-- So does one access to a line (R12, R170, R364). -/
theorem State.sameButTraffic_reach (s : State) (part die k n cls : Nat) : s.SameButTraffic (s.reach part die k n cls) := by
  unfold State.reach State.cross State.carry State.request
  split <;> split <;> rfl

/-- And an access to a window, line by line. -/
theorem State.sameButTraffic_carryWindow (s : State) (part die o n cls : Nat) : s.SameButTraffic (s.carryWindow part die o n cls) := by
  unfold State.carryWindow
  generalize linesOf o n = l
  generalize hf : (fun (s : State) (e : Nat × Nat) => s.reach part die (windowKey (s.part part) e.1) e.2 cls) = f
  have hs (s : State) (e : Nat × Nat) : s.SameButTraffic (f s e) := hf ▸ State.sameButTraffic_reach s part die _ e.2 cls
  clear hf
  induction l generalizing s with
  | nil => exact rfl
  | cons e r ih => exact State.sameButTraffic_trans (hs s e) (ih (f s e))

theorem State.sameButTraffic_carryBacking (s : State) (t : Strand) (l : List Nat) : s.SameButTraffic (s.carryBacking t l) :=
  State.sameButTraffic_carryWindow s _ _ _ _ _

@[simp] theorem State.carryBacking_mem (s : State) (t : Strand) (l : List Nat) : (s.carryBacking t l).mem = s.mem :=
  (State.sameButTraffic_carryBacking s t l).field State.mem (fun _ _ _ _ _ => rfl)
@[simp] theorem State.carryBacking_strands (s : State) (t : Strand) (l : List Nat) : (s.carryBacking t l).strands = s.strands :=
  (State.sameButTraffic_carryBacking s t l).field State.strands (fun _ _ _ _ _ => rfl)
@[simp] theorem State.carryBacking_cores (s : State) (t : Strand) (l : List Nat) : (s.carryBacking t l).cores = s.cores :=
  (State.sameButTraffic_carryBacking s t l).field State.cores (fun _ _ _ _ _ => rfl)
@[simp] theorem State.carryBacking_frames (s : State) (t : Strand) (l : List Nat) : (s.carryBacking t l).frames = s.frames :=
  (State.sameButTraffic_carryBacking s t l).field State.frames (fun _ _ _ _ _ => rfl)
@[simp] theorem State.carryBacking_parts (s : State) (t : Strand) (l : List Nat) : (s.carryBacking t l).parts = s.parts :=
  (State.sameButTraffic_carryBacking s t l).field State.parts (fun _ _ _ _ _ => rfl)
@[simp] theorem State.carryBacking_act (s : State) (t : Strand) (l : List Nat) : (s.carryBacking t l).act = s.act :=
  (State.sameButTraffic_carryBacking s t l).field State.act (fun _ _ _ _ _ => rfl)
@[simp] theorem State.carryBacking_clock (s : State) (t : Strand) (l : List Nat) : (s.carryBacking t l).clock = s.clock :=
  (State.sameButTraffic_carryBacking s t l).field State.clock (fun _ _ _ _ _ => rfl)
@[simp] theorem State.carryBacking_cur (s : State) (t : Strand) (l : List Nat) : (s.carryBacking t l).cur = s.cur :=
  (State.sameButTraffic_carryBacking s t l).field State.cur (fun _ _ _ _ _ => rfl)
@[simp] theorem State.carryBacking_strand (s : State) (t : Strand) (l : List Nat) (u : Nat) : (s.carryBacking t l).strand u = s.strand u := by
  simp [State.strand]
@[simp] theorem State.carryBacking_core (s : State) (t : Strand) (l : List Nat) (c : Nat) : (s.carryBacking t l).core c = s.core c := by
  simp [State.core]
@[simp] theorem State.carryBacking_me (s : State) (t : Strand) (l : List Nat) : (s.carryBacking t l).me = s.me := by
  simp [State.me_eq]

/-- Nothing is carried for no register. -/
@[simp] theorem State.carryBacking_nil (s : State) (t : Strand) : s.carryBacking t [] = s := rfl

/-- No register of a strand has left since that strand. -/
@[simp] theorem Strand.leftSince_self (t : Strand) : t.leftSince t = [] :=
  List.filter_eq_nil_iff.2 (fun r hr => by simp [hr])

/-- Nor where the evicted registers are the same. -/
theorem Strand.leftSince_same {t old : Strand} (h : t.evicted = old.evicted) : t.leftSince old = [] :=
  List.filter_eq_nil_iff.2 (fun r hr => by simp [← h, hr])

/-- Traffic does not depend on the strands. -/
theorem State.reach_setStrand (s : State) (u : Nat) (r : Strand) (part die k n cls : Nat) :
    (s.setStrand u r).reach part die k n cls = (s.reach part die k n cls).setStrand u r := by
  unfold State.reach State.cross State.carry State.request
  split <;> split <;> rfl

theorem State.carryBacking_setStrand (s : State) (u : Nat) (r t : Strand) (l : List Nat) :
    (s.setStrand u r).carryBacking t l = (s.carryBacking t l).setStrand u r := by
  unfold State.carryBacking State.carryWindow
  generalize linesOf t.bkOff (32 * sumOf t.regPegs l) = m
  induction m generalizing s with
  | nil => rfl
  | cons e q ih =>
    simp only [List.foldl_cons]
    rw [← ih, ← State.reach_setStrand]
    rfl

end Sys2Proof.Machine
end

