-- ==== Sys2Proof/Laws/Issue.lean ====
section
/-! SUPPORT. Issue.lean: what the issue of an instruction can do: the parts of an issue that leave everything but the strand's place in the schedule, and the three ways an instruction ends: it goes on, it transfers control, it raises a fault. -/

namespace Sys2Proof.Machine

/-! Quiet changes. -/

theorem Quiet.refl (u c : Nat) (s : State) : Quiet u c s s := ⟨fun _ => rfl, rfl, fun _ _ => rfl, fun _ _ => rfl, rfl⟩

theorem Quiet.trans {u c : Nat} {s t w : State} (h : Quiet u c s t) (g : Quiet u c t w) : Quiet u c s w where
  memory k := (g.memory k).trans (h.memory k)
  rest := by
    have hr := h.rest
    have gr := g.rest
    rw [hr] at gr
    exact gr
  strands v hv := (g.strands v hv).trans (h.strands v hv)
  cores d hd := (g.cores d hd).trans (h.cores d hd)
  own := g.own.trans h.own

/-- A strand set is quiet but for that strand. -/
theorem quiet_setStrand (u c : Nat) (s : State) (t : Strand) : Quiet u c s (s.setStrand u t) :=
  ⟨fun _ => rfl, rfl, fun v hv => State.strand_setStrand_ne s u t v hv, fun _ _ => rfl, rfl⟩

/-- The end of a run is quiet. -/
theorem quiet_endRun (u c : Nat) (s : State) : Quiet u c s (s.endRun c) :=
  ⟨fun _ => rfl, rfl, fun _ _ => rfl, fun d hd => Tbl.get_set_ne _ _ _ hd, by
    simp [State.core, State.endRun, State.setCore, Core.still]⟩

/-- So is one set with the clock of readiness. -/
theorem quiet_setStrand_clock (u c n : Nat) (s : State) (t : Strand) : Quiet u c s { s.setStrand u t with clock := n } :=
  ⟨fun _ => rfl, rfl, fun _ hv => Tbl.get_set_ne _ _ _ hv, fun _ _ => rfl, rfl⟩

theorem strand_setStrand_clock (u n : Nat) (s : State) (t : Strand) : State.strand { s.setStrand u t with clock := n } u = t :=
  Tbl.get_set_same _ _ _ _

/-- Becoming Ready is quiet, and changes only the strand's place in the schedule. -/
theorem quiet_makeReady (u c : Nat) (s : State) :
    Quiet u c s (s.makeReady u) ∧ ((s.makeReady u).strand u).still = (s.strand u).still := by
  unfold State.makeReady
  dsimp only
  split
  · refine ⟨quiet_setStrand u c s _, ?_⟩
    rw [State.strand_setStrand_same]
    rfl
  · split
    · refine ⟨quiet_setStrand u c s _, ?_⟩
      rw [State.strand_setStrand_same]
      rfl
    · refine ⟨quiet_setStrand_clock u c _ s _, ?_⟩
      rw [strand_setStrand_clock]
      rfl

/-- The charge of an instruction is quiet and touches no strand (R343). -/
theorem quiet_charge (s : State) (w : Nat) : Quiet s.cur s.me.core s (charge s w) ∧ (charge s w).strands = s.strands ∧ (charge s w).cur = s.cur := by
  refine ⟨⟨fun _ => rfl, rfl, fun _ _ => rfl, fun d hd => Tbl.get_set_ne _ _ _ hd, ?_⟩, rfl, rfl⟩
  exact (congrArg Core.still (Tbl.get_set_same _ _ _ _)).trans rfl

@[simp] theorem State.spilled_mem (w s : State) (r : Strand) : (w.spilled s r).mem = w.mem := State.carryBacking_mem w r _
@[simp] theorem State.spilled_strands (w s : State) (r : Strand) : (w.spilled s r).strands = w.strands := State.carryBacking_strands w r _
@[simp] theorem State.spilled_cores (w s : State) (r : Strand) : (w.spilled s r).cores = w.cores := State.carryBacking_cores w r _
@[simp] theorem State.spilled_frames (w s : State) (r : Strand) : (w.spilled s r).frames = w.frames := State.carryBacking_frames w r _
@[simp] theorem State.spilled_parts (w s : State) (r : Strand) : (w.spilled s r).parts = w.parts := State.carryBacking_parts w r _
@[simp] theorem State.spilled_cur (w s : State) (r : Strand) : (w.spilled s r).cur = w.cur := State.carryBacking_cur w r _
@[simp] theorem State.spilled_me (w s : State) (r : Strand) : (w.spilled s r).me = w.me := State.carryBacking_me w r _
@[simp] theorem State.spilled_strand (w s : State) (r : Strand) (u : Nat) : (w.spilled s r).strand u = w.strand u := State.carryBacking_strand w r _ u
@[simp] theorem State.spilled_core (w s : State) (r : Strand) (c : Nat) : (w.spilled s r).core c = w.core c := State.carryBacking_core w r _ c

/-- Where no register has been evicted nothing is carried. -/
theorem State.spilled_same (w : State) {s : State} {r : Strand} (h : r.evicted = s.me.evicted) : w.spilled s r = w := by
  rw [State.spilled, Strand.leftSince_same h, State.carryBacking_nil]

/-- What the evicted registers cost on the links does not depend on the strand that is set. -/
theorem State.spilled_setMe (w s : State) (r q : Strand) : (w.setMe q).spilled s r = (w.spilled s r).setMe q := by
  show (w.setStrand w.cur q).carryBacking r (r.leftSince s.me) = (w.spilled s r).setStrand (w.spilled s r).cur q
  rw [State.carryBacking_setStrand, State.spilled_cur]
  rfl

/-- The charge of an instruction whose strand has become `r` (R343, R364). -/
theorem spend_setMe (s : State) (r : Strand) (w : Nat) : spend s (s.setMe r) w = charge ((s.spilled s r).setMe r) w := by
  rw [← State.spilled_setMe]
  unfold spend State.spilled
  rw [State.me_setMe]

/-- A change of the schedule alone. -/
def Settles (u c : Nat) (s t : State) : Prop := Quiet u c s t ∧ (t.strand u).still = (s.strand u).still

theorem Settles.refl (u c : Nat) (s : State) : Settles u c s s := ⟨Quiet.refl u c s, rfl⟩

theorem Settles.trans {u c : Nat} {s t w : State} (h : Settles u c s t) (g : Settles u c t w) : Settles u c s w :=
  ⟨h.1.trans g.1, g.2.trans h.2⟩

theorem settles_makeReady (u c : Nat) (s : State) : Settles u c s (s.makeReady u) := quiet_makeReady u c s
theorem settles_endRun (u c : Nat) (s : State) : Settles u c s (s.endRun c) := ⟨quiet_endRun u c s, rfl⟩

theorem settles_charge (s : State) (w : Nat) : Settles s.cur s.me.core s (charge s w) :=
  ⟨(quiet_charge s w).1, rfl⟩

theorem settles_parkMe (s : State) (p : Park) (m : Bool) : Settles s.cur s.me.core s (parkMe s p m) := by
  refine Settles.trans (t := s.setMe { s.me with life := .parked p, sMark := m }) ⟨quiet_setStrand _ _ _ _, ?_⟩ (settles_endRun _ _ _)
  rw [State.strand_setMe_same]
  rfl

theorem settles_endMine (s : State) : Settles s.cur s.me.core s (endMine s) :=
  (settles_endRun s.cur s.me.core s).trans (settles_makeReady s.cur s.me.core _)

/-- What follows an issue changes the schedule alone (R41, R158, R159). -/
theorem settles_afterIssue (s : State) (h : Head) : Settles s.cur s.me.core s (afterIssue s h) := by
  unfold afterIssue
  dsimp only
  split
  · exact settles_parkMe s .marker false
  · split
    · exact settles_endMine s
    · split
      · split
        · exact settles_parkMe s _ false
        · have hc : (s.setMe { s.me with runcut := satAdd s.me.runcut 1 }).me.core = s.me.core := by simp
          have h2 := settles_endMine (s.setMe { s.me with runcut := satAdd s.me.runcut 1 })
          rw [hc] at h2
          refine Settles.trans ⟨quiet_setStrand _ _ _ _, ?_⟩ h2
          exact (congrArg Strand.still (State.strand_setMe_same s _)).trans rfl
      · exact Settles.refl _ _ s

/-! Issue. -/

/-- Where no value of an LDB or PLDM is waited for, none is read (R156). -/
theorem unlock_eq {i : Instr} {s : State} (h : Unlocked i s) : unlock s i = some s := by
  have hf : s.me.locks.filter (s.me.waitsFor i) = [] := List.filter_eq_nil_iff.2 (fun r hr => by simp [h r hr])
  simp [unlock, hf, readLocks]

/-- An instruction that takes no park, of a strand that is no copy of a braced pair, does what its meaning answers, with room made for the maps it writes. -/
theorem issue_share {i : Instr} {s : State} (h : Issues i s) (hd : Head) (body : State → Res) :
    issue i hd s body = .next (finish s hd (settleRoom s i (body s))) := by
  obtain ⟨hr, hp, ⟨ht, hs, hk⟩, hu⟩ := h
  have htake : takeCheckpoint s = s := by simp [takeCheckpoint, hk]
  unfold issue
  rw [if_neg (by simp [hr]), unlock_eq hu]
  simp only [issueNow, hp, htake]
  rw [if_neg (by simp [comparePoint, ht]), hs]
  simp [giveShadow, ht]

/-- Only CMP faults for room without a vector destination, and it writes a map. -/
theorem faultsOnRoom_writes {i : Instr} (hw : writesMap i = false) : faultsOnRoom i = false := by
  unfold faultsOnRoom
  split
  · exact absurd hw (by simp [writesMap])
  · rfl

/-- Where no map is written, room changes nothing (R79, R80). -/
theorem settleRoom_plain {i : Instr} {s : State} (hw : writesMap i = false) (r : Res) : settleRoom s i r = r := by
  cases r <;> simp [settleRoom, faultsOnRoom_writes hw, hw]

/-- A fault stands whatever the maps. -/
@[simp] theorem settleRoom_trap (s : State) (i : Instr) (c : Code) (d : Nat) : settleRoom s i (.trap c d) = .trap c d := rfl

/-- A map-writing instruction for whose maps there is room goes on with the strand in which the room was made (R79). -/
theorem settleRoom_done {i : Instr} {s : State} {r w : Strand} (hx : (faultsOnRoom i && s.me.sourcesExhaust (operOf i)) = false)
    (hw : writesMap i = true) (h : r.mapRoom i = .ok w) (k : Nat) : settleRoom s i (.done (s.setMe r) k) = .done (s.setMe w) k := by
  simp [settleRoom, hx, hw, Res.share, h]

/-- So does one that transfers control. -/
theorem settleRoom_jump {i : Instr} {s : State} {r w : Strand} (hx : (faultsOnRoom i && s.me.sourcesExhaust (operOf i)) = false)
    (hw : writesMap i = true) (h : r.mapRoom i = .ok w) (pc : PC) (k : Nat) : settleRoom s i (.jump (s.setMe r) pc k) = .jump (s.setMe w) pc k := by
  simp [settleRoom, hx, hw, Res.share, h]

/-- Where the backing area does not hold what must leave for its maps, CMP raises PEG-EXHAUSTED (R80, R102). -/
theorem settleRoom_full {i : Instr} {s : State} {r : Strand} (hf : faultsOnRoom i = true)
    (h : r.mapRoom i = .full) (k : Nat) : settleRoom s i (.done (s.setMe r) k) = .trap .pegExhausted 0 := by
  have hw : writesMap i = true := by
    cases hw : writesMap i
    · simp [faultsOnRoom_writes hw] at hf
    · rfl
  by_cases hx : s.me.sourcesExhaust (operOf i) = true <;> simp [settleRoom, hw, Res.share, h, hf, hx]

/-- Any other instruction writes its maps all the same (log 81). -/
theorem settleRoom_over {i : Instr} {s : State} {r : Strand} (hf : faultsOnRoom i = false) (hw : writesMap i = true)
    (h : r.mapRoom i = .full) (k : Nat) : settleRoom s i (.done (s.setMe r) k) = .done (s.setMe r) k := by
  simp [settleRoom, hf, hw, Res.share, h]

/-- Maps that fit their share need no room (R79). -/
theorem Strand.mapRoom_fit {t : Strand} (h : t.mapsFit = true) (i : Instr) : t.mapRoom i = .ok t := by
  simp [Strand.mapRoom, h]

/-- An instruction that takes no park and writes no map does what its meaning answers. -/
theorem issue_eq {i : Instr} {s : State} (h : Issues i s) (hw : writesMap i = false) (hd : Head) (body : State → Res) :
    issue i hd s body = .next (finish s hd (body s)) := by
  rw [issue_share h, settleRoom_plain hw]

/-- A CMP whose sources exceed the quota, or cannot come back, raises PEG-EXHAUSTED, whatever else its meaning answers but a fault (R80, R102). -/
theorem settleRoom_exhaust {i : Instr} {s : State} (h : (faultsOnRoom i && s.me.sourcesExhaust (operOf i)) = true) (r : Res)
    (hr : ∀ c d, r ≠ .trap c d) : settleRoom s i r = .trap .pegExhausted 0 := by
  cases r <;> simp_all [settleRoom]

/-- Making room changes which registers are evicted and nothing else (R78). -/
theorem Strand.makeRoom_eq {t w : Strand} {keep gone : List Nat} {pegs maps : Nat} (h : t.makeRoom keep gone pegs maps = .ok w) :
    w = { t with evicted := w.evicted } := by
  unfold Strand.makeRoom at h
  dsimp only at h
  split at h
  · split at h
    · cases h; rfl
    · split at h
      · cases h; rfl
      · cases h
  · split at h <;> cases h

/-- So does room for the maps (R79). -/
theorem Strand.mapRoom_eq {t w : Strand} {i : Instr} (h : t.mapRoom i = .ok w) : w = { t with evicted := w.evicted } := by
  unfold Strand.mapRoom at h
  split at h
  · cases h; rfl
  · exact Strand.makeRoom_eq h

theorem Strand.fitMaps_eq (t : Strand) : t.fitMaps = { t with evicted := t.fitMaps.evicted } := by
  unfold Strand.fitMaps
  split
  · rfl
  · split
    · next h => exact Strand.makeRoom_eq h
    · rfl

/-- An instruction that goes on: its answer's strand, then the schedule. -/
theorem completes_of_done (s : State) (h : Head) (r : Strand) (k : Nat) (hc : r.core = s.me.core) :
    Completes h.cls h.n s (finish s h (.done (s.setMe r) k)) r := by
  unfold finish Completes
  dsimp only
  rw [spend_setMe]
  have hw : (s.spilled s r).cur = s.cur := State.spilled_cur s s r
  generalize s.spilled s r = w at *
  have e1 := settles_charge (w.setMe r) (weight s h.op * k)
  simp only [State.setMe_cur, State.me_setMe, hc] at e1
  have e0 := quiet_setStrand w.cur s.me.core w r
  have hme : (charge (w.setMe r) (weight s h.op * k)).me = r := by
    show (charge (w.setMe r) _).strand _ = r
    exact State.strand_setMe_same w r
  rw [hme]
  have e2 := quiet_setStrand w.cur s.me.core (charge (w.setMe r) (weight s h.op * k)) ((r.issued h).advance h.n)
  have e3 := settles_afterIssue ((charge (w.setMe r) (weight s h.op * k)).setMe ((r.issued h).advance h.n)) h
  have hcur : (charge (w.setMe r) (weight s h.op * k)).cur = w.cur := rfl
  have hcore : ((r.issued h).advance h.n).core = s.me.core := by
    rw [← hc]; simp only [Strand.advance]; split <;> rfl
  simp only [State.setMe_cur, State.me_setMe, hcur, hcore] at e3
  rw [← hw]
  refine ⟨(e0.trans e1.1).trans (Quiet.trans e2 e3.1), e3.2.trans ?_⟩
  rw [show w.cur = (charge (w.setMe r) (weight s h.op * k)).cur from rfl, State.strand_setMe_same]
  rfl

/-- An instruction that transfers control. -/
theorem transfers_of_jump (s : State) (h : Head) (r : Strand) (pc : PC) (k : Nat) (hp : h.cls = .plain) (hc : r.core = s.me.core) :
    Transfers s (finish s h (.jump (s.setMe r) pc k)) r pc := by
  unfold finish Transfers
  dsimp only
  rw [spend_setMe]
  have h0 : (s.spilled s r).cur = s.cur := State.spilled_cur s s r
  generalize s.spilled s r = v at *
  have e1 := settles_charge (v.setMe r) (weight s h.op * k)
  simp only [State.setMe_cur, State.me_setMe, hc] at e1
  have e0 := quiet_setStrand v.cur s.me.core v r
  have hme : (charge (v.setMe r) (weight s h.op * k)).me = r := State.strand_setMe_same v r
  have hcore : ((r.issued h).goto pc).core = s.me.core := hc
  rw [hme, ← h0]
  generalize hw : charge (v.setMe r) (weight s h.op * k) = w at *
  have hcur : w.cur = v.cur := by rw [← hw]; rfl
  have e2 := quiet_setStrand w.cur s.me.core w ((r.issued h).goto pc)
  have e3 : Settles w.cur s.me.core (w.setMe ((r.issued h).goto pc))
      (if h.k.s && decide ((w.setMe ((r.issued h).goto pc)).me.rets ≠ []) then parkMe (w.setMe ((r.issued h).goto pc)) .marker false
        else endMine (w.setMe ((r.issued h).goto pc))) := by
    have p1 := settles_parkMe (w.setMe ((r.issued h).goto pc)) .marker false
    have p2 := settles_endMine (w.setMe ((r.issued h).goto pc))
    simp only [State.setMe_cur, State.me_setMe, hcore] at p1 p2
    split
    · exact p1
    · exact p2
  rw [hcur] at e2 e3
  refine ⟨(e0.trans e1.1).trans (Quiet.trans (by rw [← hcur] at e2 ⊢; exact e2) e3.1), e3.2.trans ?_⟩
  rw [← hcur, State.strand_setMe_same, Strand.counted]
  simp only [Strand.issued, hp]

/-- Taking an exception whose handler is there: the strand takes it and stands Ready; nothing else changes but the traffic of what it evicts (R321, R364). -/
theorem takeFault_eq (s : State) (c : Code) (d : Nat) (a resume dest : PC) (h : trapTarget s s.me c = some dest) :
    Quiet s.cur s.me.core (s.spilled s (s.me.take c d a resume dest).fitMaps) (takeFault s s.cur c d a resume) ∧
      ((takeFault s s.cur c d a resume).strand s.cur).still = (s.me.take c d a resume dest).fitMaps.still := by
  unfold takeFault
  dsimp only
  rw [← State.me_eq, h]
  dsimp only
  generalize (s.me.take c d a resume dest).fitMaps = t
  have e0 := quiet_setStrand s.cur s.me.core (s.spilled s t) t
  have hs : ((s.spilled s t).setStrand s.cur t).strand s.cur = t := State.strand_setStrand_same _ _ _
  have hv : s.setEvicting s.cur t = (s.spilled s t).setStrand s.cur t := rfl
  rw [hv]
  generalize hw : (s.spilled s t).setStrand s.cur t = w at *
  have hk : Settles s.cur s.me.core w (if (w.core s.me.core).running = some s.cur then w.endRun s.me.core else w) := by
    split
    · exact settles_endRun _ _ _
    · exact Settles.refl _ _ _
  have hm := settles_makeReady s.cur s.me.core (if (w.core s.me.core).running = some s.cur then w.endRun s.me.core else w)
  have ht := hk.trans hm
  exact ⟨e0.trans ht.1, ht.2.trans (by rw [hs])⟩

/-- An instruction that raises a fault that has its handler. -/
theorem raises_of_trap (s : State) (h : Head) (c : Code) (d : Nat) (dest : PC) (hc : c ≠ .trap ∧ c ≠ .bkpt) (ht : trapTarget s s.me c = some dest) :
    Raises s (finish s h (.trap c d)) c d s.me.pc dest := by
  unfold finish Raises
  dsimp only
  rw [if_neg (by simp [hc.1, hc.2])]
  exact takeFault_eq s c d s.me.pc s.me.pc dest ht

/-! One step: what the noting of frame counts leaves alone (R269). -/

@[simp] theorem noteCounts_mem (s : State) : (noteCounts s).mem = s.mem := rfl
@[simp] theorem noteCounts_strands (s : State) : (noteCounts s).strands = s.strands := rfl
@[simp] theorem noteCounts_frames (s : State) : (noteCounts s).frames = s.frames := rfl
@[simp] theorem noteCounts_cores (s : State) : (noteCounts s).cores = s.cores := rfl
@[simp] theorem noteCounts_dies (s : State) : (noteCounts s).dies = s.dies := rfl
@[simp] theorem noteCounts_counters (s : State) : (noteCounts s).counters = s.counters := rfl
@[simp] theorem noteCounts_act (s : State) : (noteCounts s).act = s.act := rfl
@[simp] theorem noteCounts_kslow (s : State) : (noteCounts s).kslow = s.kslow := rfl
@[simp] theorem noteCounts_errs (s : State) : (noteCounts s).errs = s.errs := rfl
@[simp] theorem noteCounts_unassigned (s : State) : (noteCounts s).unassigned = s.unassigned := rfl
@[simp] theorem noteCounts_seq (s : State) : (noteCounts s).seq = s.seq := rfl
@[simp] theorem noteCounts_epoch (s : State) : (noteCounts s).epoch = s.epoch := rfl
@[simp] theorem noteCounts_fused (s : State) : (noteCounts s).fused = s.fused := rfl
@[simp] theorem noteCounts_stage (s : State) : (noteCounts s).stage = s.stage := rfl
@[simp] theorem noteCounts_warmed (s : State) : (noteCounts s).warmed = s.warmed := rfl
@[simp] theorem noteCounts_failCode (s : State) : (noteCounts s).failCode = s.failCode := rfl
@[simp] theorem noteCounts_version (s : State) : (noteCounts s).version = s.version := rfl
@[simp] theorem noteCounts_failed (s : State) : (noteCounts s).failed = s.failed := rfl
@[simp] theorem noteCounts_firmware (s : State) : (noteCounts s).firmware = s.firmware := rfl
@[simp] theorem noteCounts_expansion (s : State) : (noteCounts s).expansion = s.expansion := rfl
@[simp] theorem noteCounts_powered (s : State) : (noteCounts s).powered = s.powered := rfl
@[simp] theorem noteCounts_epochAt (s : State) : (noteCounts s).epochAt = s.epochAt := rfl
@[simp] theorem noteCounts_readingAt (s : State) : (noteCounts s).readingAt = s.readingAt := rfl
@[simp] theorem noteCounts_cyc0 (s : State) : (noteCounts s).cyc0 = s.cyc0 := rfl
@[simp] theorem noteCounts_cyc1 (s : State) : (noteCounts s).cyc1 = s.cyc1 := rfl
@[simp] theorem noteCounts_response (s : State) : (noteCounts s).response = s.response := rfl
@[simp] theorem noteCounts_result (s : State) : (noteCounts s).result = s.result := rfl
@[simp] theorem noteCounts_msix (s : State) : (noteCounts s).msix = s.msix := rfl
@[simp] theorem noteCounts_answer (s : State) : (noteCounts s).answer = s.answer := rfl
@[simp] theorem noteCounts_peerOut (s : State) : (noteCounts s).peerOut = s.peerOut := rfl
@[simp] theorem noteCounts_creditsUsed (s : State) : (noteCounts s).creditsUsed = s.creditsUsed := rfl
@[simp] theorem noteCounts_signals (s : State) : (noteCounts s).signals = s.signals := rfl
@[simp] theorem noteCounts_class3 (s : State) : (noteCounts s).class3 = s.class3 := rfl
@[simp] theorem noteCounts_class3At (s : State) : (noteCounts s).class3At = s.class3At := rfl
@[simp] theorem noteCounts_links (s : State) : (noteCounts s).links = s.links := rfl
@[simp] theorem noteCounts_carried (s : State) : (noteCounts s).carried = s.carried := rfl
@[simp] theorem noteCounts_moved (s : State) : (noteCounts s).moved = s.moved := rfl
@[simp] theorem noteCounts_requests (s : State) : (noteCounts s).requests = s.requests := rfl
@[simp] theorem noteCounts_owned (s : State) : (noteCounts s).owned = s.owned := rfl
@[simp] theorem noteCounts_ownedFrom (s : State) : (noteCounts s).ownedFrom = s.ownedFrom := rfl
@[simp] theorem noteCounts_retired (s : State) : (noteCounts s).retired = s.retired := rfl
@[simp] theorem noteCounts_testing (s : State) : (noteCounts s).testing = s.testing := rfl
@[simp] theorem noteCounts_ckpts (s : State) : (noteCounts s).ckpts = s.ckpts := rfl
@[simp] theorem noteCounts_agenda (s : State) : (noteCounts s).agenda = s.agenda := rfl
@[simp] theorem noteCounts_turn (s : State) : (noteCounts s).turn = s.turn := rfl
@[simp] theorem noteCounts_cur (s : State) : (noteCounts s).cur = s.cur := rfl
@[simp] theorem noteCounts_next (s : State) : (noteCounts s).next = s.next := rfl
@[simp] theorem noteCounts_gord (s : State) : (noteCounts s).gord = s.gord := rfl
@[simp] theorem noteCounts_clock (s : State) : (noteCounts s).clock = s.clock := rfl

/-- A step goes on to `w` exactly when its choice acts and `w` is what it leaves, with the frame counts noted. -/
theorem step_next {s w : State} : step s = .next w ↔ ∃ t, choose s = .next t ∧ w = noteCounts t := by
  unfold step
  cases h : choose s with
  | next t => simp [eq_comm]
  | fault f => simp
  | refused r => simp

end Sys2Proof.Machine
end

