-- ==== Sys2Proof/Tests/Slice0.lean ====
section
/-! SUPPORT. Slice0.lean: tests: WellFormed refuses ill-formed terms, words decode to their instructions, states meet the hypotheses of the statements, single steps give what the spec says. -/

set_option Elab.async false

namespace Sys2Proof.Tests

open Sys2Proof Sys2Proof.Machine Sys2Proof.Claim

/-- No marks. -/
abbrev plain : Marks := Claim.plain

/-! WellFormed refuses an ill-formed term for each of its checks, and accepts its well-formed neighbour. The first component says whether the frame runs on a core pair. -/

/-- Register codes (R45 to R47). -/
def wfCodes : List (Bool × Instr × Instr) :=
  [(false, .popc plain 1 124 0, .popc plain 1 123 0), (false, .mov plain .s64 2 5 0, .mov plain .s64 2 4 0), (false, .mov plain .s64 2 120 0, .mov plain .s64 2 118 0),
    (false, .popc plain 120 1 0, .popc plain 119 1 0), (false, .mov plain .s64 3 4 0, .mov plain .s64 2 4 0), (false, .popc plain 1 2 96, .popc plain 1 2 95),
    (false, .pmov plain 0 1 0, .pmov plain 1 1 0), (false, .pmov plain 96 1 0, .pmov plain 95 1 0), (false, .if_ plain 96 1, .if_ plain 95 1), (false, .brk plain 127, .brk plain 0),
    (false, .bra plain (.any 96) 1, .bra plain (.any 95) 1), (false, .pmap plain 1 120 0, .pmap plain 1 119 0), (false, .cmp plain .s32 .eq 3 3 1 2 0, .cmp plain .s32 .eq 3 4 1 2 0),
    (false, .fcmp plain .f32 .eq 3 97 1 2 0, .fcmp plain .f32 .eq 3 0 1 2 0), (false, .sel plain .b32 1 2 3 96 0, .sel plain .b32 1 2 3 0 0), (false, .thin plain .b32 1 2 96 0, .thin plain .b32 1 2 0 0),
    (false, .shfl plain (.idx 124) 1 2 0, .shfl plain (.idx 120) 1 2 0), (false, .pldm plain .spad 0 1 0, .pldm plain .spad 1 1 0), (false, .xpull plain 1 2 1 0, .xpull plain 1 0 3 0)]

theorem test_wf_codes : wfCodes.all (fun e => !WellFormed e.1 e.2.1 && WellFormed e.1 e.2.2) = true := by decide

/-- Types (R48, R82, R94, R100, R101, R103, R105, R125, R172, R199, R205). -/
def wfTypes : List (Bool × Instr × Instr) :=
  [(false, .add plain .b32 false 1 2 3 0, .add plain .n32 false 1 2 3 0), (false, .xor_ plain .s32 1 2 3 0, .xor_ plain .b32 1 2 3 0), (false, .mov plain .n32 1 2 0, .mov plain .b32 1 2 0),
    (false, .mulh plain .s64 2 4 6 0, .mulh plain .n32 2 4 6 0), (false, .fadd plain .s32 1 2 3 0, .fadd plain .f16 1 2 3 0), (false, .lds plain .f32 .rlx .strand .spad 1 2 0, .lds plain .n16 .rlx .strand .spad 1 2 0),
    (false, .atoms plain .add .s64 .rlx .strand .spad 1 2 3 0 0, .atoms plain .add .n32 .rlx .strand .spad 1 2 3 0 0), (false, .mrd plain .b32 1 2 3 0 0 0, .mrd plain .s16 1 2 3 0 0 0),
    (false, .red plain .and .s32 1 2 0, .red plain .and .b32 1 2 0), (false, .red plain .fadd .f16 1 2 0, .red plain .fadd .f32 1 2 0), (false, .neg plain .n32 false 1 2 0, .neg plain .s32 false 1 2 0),
    (false, .movi plain .f16 1 0 65536, .movi plain .f16 1 0 65535), (false, .movi plain .s8 1 0 0, .movi plain .b32 1 0 0), (false, .cvt plain .s32 .bpn 1 2 0, .cvt plain .s32 .f32 1 2 0),
    (false, .cvt plain .f32ord .n32 1 2 0, .cvt plain .f32ord .n16 1 2 0), (false, .redidx plain true .b32 1 2 0, .redidx plain true .f32 1 2 0), (false, .vget plain .n32 1 2 3 0 0, .vget plain .s32 1 2 3 0 0),
    (false, .mma plain .f16 false false .rlx .strand .spad 1 2 3 0 0 4 5 6 0, .mma plain .bf16 false false .rlx .strand .spad 1 2 3 0 0 4 5 6 0)]

theorem test_wf_types : wfTypes.all (fun e => !WellFormed e.1 e.2.1 && WellFormed e.1 e.2.2) = true := by decide

/-- Orderings, scopes, spaces and the rest (R49, R171, R172, R199, R205, R243, R248, R250, R294). -/
def wfRest : List (Bool × Instr × Instr) :=
  [(false, .lds plain .b32 .rlx .strand .spadp 1 2 0, .lds plain .b32 .rlx .strand .vault 1 2 0), (false, .lds plain .b32 .rel .frame .spad 1 2 0, .lds plain .b32 .acq .frame .spad 1 2 0),
    (false, .sts plain .b32 .acq .frame .spad 1 2 0, .sts plain .b32 .rel .frame .spad 1 2 0), (false, .lds plain .b32 .acq .strand .spad 1 2 0, .lds plain .b32 .rlx .strand .spad 1 2 0),
    (false, .sts plain .b32 .rlx .die .spad 1 2 0, .sts plain .b32 .rel .die .spad 1 2 0), (false, .fence plain .rlx .frame, .fence plain .acq .frame), (false, .fence plain .ar .strand, .fence plain .ar .frame),
    (false, .meet plain .arr 1 0 17, .meet plain .arr 1 0 16), (false, .atom plain .add .b32 .rlx .strand .spad false 1 2 3 4 0 0, .atom plain .add .b32 .rlx .strand .spad false 0 2 3 4 0 0),
    (false, .atom plain .cas .b32 .rlx .strand .spad true 1 2 3 5 0 0, .atom plain .cas .b32 .rlx .strand .spad true 1 2 3 4 0 0), (false, .atoms plain .add .b32 .rlx .strand .spad 1 2 3 4 0, .atoms plain .cas .b32 .rlx .strand .spad 1 2 3 4 0),
    (false, .cpy plain .b8 .rlx .strand (.queue 0) (.far 1 2) 3 0 none, .cpy plain .b4 .rlx .strand (.queue 0) (.far 1 2) 3 0 none),
    (false, .cpy plain .b4 .rlx .strand (.near .spad 1 2) (.far 1 2) 3 0 (some (5, true)), .cpy plain .b4 .rlx .strand (.far 1 1 2) (.far 1 2) 3 0 (some (5, true))),
    (false, .cpy plain .b4 .rlx .strand (.near .spad 1 120) (.far 1 2) 3 0 none, .cpy plain .b4 .rlx .strand (.near .spad 1 119) (.far 1 2) 3 0 none),
    (false, .cpy plain .b4 .rlx .strand (.near .spad 1 2) (.near .spadp 2) 3 0 none, .cpy plain .b4 .rlx .strand (.near .spad 1 2) (.near .vault 2) 3 0 none),
    (true, .cpgather plain (.spad 1) .rlx .strand .vault 1 2 3 4 5 0 0 none, .cpgather plain (.spad 1) .rlx .strand .spadp 1 2 3 4 5 0 0 none), (true, .sort plain .rlx .strand .vault 1 2 3 4 0, .sort plain .rlx .strand .spadp 1 2 3 4 0),
    (false, .malloc plain 1 2 17, .malloc plain 1 2 16), (true, .mma plain .bf16 false false .rlx .strand .spadp 1 2 3 0 0 4 5 6 0, .mma plain .bf16 false false .rlx .strand .vault 1 2 3 0 0 4 5 6 0),
    (true, .xctlSnap plain .vault 1 2 0, .xctlSnap plain .spadp 1 2 0), (false, .ovld plain .vault .acq .strand 1 2 3 0 0 0, .ovld plain .vault .acq .frame 1 2 3 0 0 0),
    (false, .spawn plain .spadp 1 2 0 0, .spawn plain .spad 1 2 0 0), (false, .mst plain .f32 .rel .strand .spad 1 2 3 4 0 0, .mst plain .f32 .rel .frame .spad 1 2 3 4 0 0),
    (false, .xdisp plain .rlx .frame 1 2 3 4, .xdisp plain .rlx .strand 1 2 3 4)]

theorem test_wf_rest : wfRest.all (fun e => !WellFormed e.1 e.2.1 && WellFormed e.1 e.2.2) = true := by decide


/-! Words assembled by hand from the field tables (R40 to R51) and the encoding rules of the chapters. -/

/-- Words of the control family with the instructions they stand for. -/
def controlWords : List (Nat × Instr) :=
  [(0x140003000000000, .nop plain 43980565774336), (0x1c48010, .if_ plain 9 7), (0x3fffffff400020, .else_ plain 0xFFFFFFFD), (0x34, .endif sw),
    (0x4800040, .loop plain 18), (0x3000050, .brk plain 12), (0x3400068, .cont fin 13), (0x3ffffffc000070, .endloop plain 0xFFFFFFF0),
    (0x1109080, .bra plain (.nz 33) 4), (0x12d1880, .bra plain (.none 90) 4), (0x12da080, .bra plain (.any 91) 4), (0x19000090, .call plain 100),
    (0xc280a0, .ocall plain 5 3), (0xb0, .ret plain), (0x8b0, .rett plain), (0xc0, .exit plain), (0xffc00000000000e0, .trap plain 1023),
    (0x800000000008e0, .bkpt plain 2), (0xc00000010000f0, .opinPin plain 4 3), (0xfc00000010008f0, .opinUnpin plain 4 63), (0x400000010490f0, .opinQuery plain 9 4 1)]

theorem test_decode_control : controlWords.all (fun e => decide (decodeTableWord 128 e.1 = some e.2)) = true := by decide

/-- Words of the map family with the instructions they stand for. -/
def mapWords : List (Nat × Instr) :=
  [(0x5040418100, .pand plain 3 1 2 5), (0x5040818900, .por plain 3 2 2 5), (0x5040c19100, .pxor plain 3 3 2 5), (0x5041019900, .pandn plain 3 4 2 5),
    (0x500041a100, .pnot plain 3 1 5), (0x500001a900, .pmov plain 3 0 5), (0x2400070c1420110, .pfirst plain 4 5 6 9 7), (0x2400070cfc20910, .prange plain 4 63 6 9 7),
    (0x101dc40120, .pmap plain 8 119 1), (0x1017c40130, .pcnt plain 8 95 1), (0x80001077c40140, .pfind plain 8 95 3 2 1), (0x1017c40150, .elect plain 8 95 1),
    (0x217ec50160, .thin plain .b32 10 123 11 2), (0x5821c3050170, .merge plain .n64 10 12 14 2), (0x100000060808180, .pget plain 1 2 3 4),
    (0x100000060808980, .pput plain 1 2 3 4), (0x3000808190, .pspan plain 1 2 3)]

theorem test_decode_map : mapWords.all (fun e => decide (decodeTableWord 128 e.1 = some e.2)) = true := by decide

/-- Words of the integer family with the instructions they stand for. -/
def integerWords : List (Nat × Instr) :=
  [(0x10109e014200, .add plain .n32 true 2 120 4 1), (0x10109e014210, .sub plain .n32 true 2 120 4 1), (0x10109e014220, .mul plain .n32 true 2 120 4 1),
    (0x81080c10230, .mulh plain .s32 2 3 4 1), (0x800005010c1010241, .mad plain .s64 false 2 4 6 8 1), (0x81080c10250, .min plain .s32 2 3 4 1),
    (0x101080c10260, .max plain .n32 2 3 4 1), (0x81000c10270, .neg plain .s32 false 2 3 1), (0x1080c10280, .and_ plain .b32 2 3 4 1),
    (0x1080c10290, .or_ plain .b32 2 3 4 1), (0x1080c102a0, .xor_ plain .b32 2 3 4 1), (0x1080c102c0, .shl plain .b32 2 3 4 1), (0x5810010102b0, .not_ plain .n64 2 4 1),
    (0x81080c102d0, .shr plain .s32 2 3 4 1), (0x1000c102e0, .popc plain 2 3 1), (0x1000c102f0, .clz plain 2 3 1), (0x101080c10300, .bfx plain .n32 2 3 4 1),
    (0x50000001080c10311, .bfi plain 2 3 4 5 1), (0x1c0081080c12b20, .cmp plain .s32 .ge 2 7 3 4 1), (0x180001080c10330, .sel plain .b32 2 3 4 6 1),
    (0x3f8000000000181000010341, .movi plain .f32 2 1 0x3F800000), (0x501001010350, .mov plain .s64 2 4 1), (0x1000010360, .laneid plain 2 1),
    (0x100fc10370, .bcast plain .b32 2 63 1), (0x81000c14380, .cvt plain .s8 .s32 2 3 1)]

theorem test_decode_integer : integerWords.all (fun e => decide (decodeTableWord 128 e.1 = some e.2)) = true := by decide

/-- Words of the cross family with the instructions they stand for. -/
def crossWords : List (Nat × Instr) :=
  [(0x1080c10390, .shfl plain (.idx 4) 2 3 1), (0x140001000c10b90, .shfl plain (.up 5) 2 3 1), (0x140001000c11390, .shfl plain (.down 5) 2 3 1),
    (0x140001000c11b90, .shfl plain (.xor 5) 2 3 1), (0x81000c103a0, .red plain .add .s32 2 3 1), (0x81000c10ba0, .red plain .min .s32 2 3 1),
    (0x81000c113a0, .red plain .max .s32 2 3 1), (0x1000c11ba0, .red plain .and .b32 2 3 1), (0x1000c123a0, .red plain .or .b32 2 3 1),
    (0x1000c12ba0, .red plain .xor .b32 2 3 1), (0x181000c133a0, .red plain .fadd .f32 2 3 1), (0x181000c13ba0, .red plain .fmin .f32 2 3 1),
    (0x181000c143a0, .red plain .fmax .f32 2 3 1), (0x181000c10bb0, .redidx plain true .f32 2 3 1), (0x101000c103c0, .scan plain .addi .n32 2 3 1),
    (0x101000c10bc0, .scan plain .addx .n32 2 3 1), (0x101000c113c0, .scan plain .min .n32 2 3 1), (0x101000c11bc0, .scan plain .max .n32 2 3 1),
    (0x81000c103d0, .rank plain .s32 2 3 1), (0x1805810a10103e0, .vget plain .n64 2 4 5 6 1), (0x4d0000001080c103f1, .vput plain .b32 2 3 4 1 77)]

theorem test_decode_cross : crossWords.all (fun e => decide (decodeTableWord 128 e.1 = some e.2)) = true := by decide

/-- Words of the float family with the instructions they stand for. -/
def floatWords : List (Nat × Instr) :=
  [(0x201080c10400, .fadd plain .bf16 2 3 4 1), (0x201080c10410, .fsub plain .bf16 2 3 4 1), (0x201080c10420, .fmul plain .bf16 2 3 4 1),
    (0x201080c10440, .fmin plain .bf16 2 3 4 1), (0x201080c10450, .fmax plain .bf16 2 3 4 1), (0x201080c104d0, .fdiv plain .bf16 2 3 4 1),
    (0x790000281080c10431, .fma plain .f16 2 3 4 121 1), (0x181000c10460, .fneg plain .f32 2 3 1), (0x181000c10c60, .fabs plain .f32 2 3 1),
    (0x181080c11460, .fcopysign plain .f32 2 3 4 1), (0x240181080c13c70, .fcmp plain .f32 .ord 2 9 3 4 1), (0x181000c10480, .frcp plain .f32 2 3 1),
    (0x181000c10490, .frsq plain .f32 2 3 1), (0x181000c104a0, .fsqrt plain .f32 2 3 1), (0x181000c104b0, .fexp2 plain .f32 2 3 1),
    (0x181000c104c0, .flog2 plain .f32 2 3 1)]

theorem test_decode_float : floatWords.all (fun e => decide (decodeTableWord 128 e.1 = some e.2)) = true := by decide

/-- Words of the scalar family with the instructions they stand for. -/
def scalarWords : List (Nat × Instr) :=
  [(0x28818500, .sadd plain 3 4 (.reg 5)), (0xfffffffe00818d00, .ssub plain 3 4 (.imm 0x3FFFFFFF)), (0x28819500, .sand plain 3 4 (.reg 5)),
    (0xfffffffe00819d00, .sor plain 3 4 (.imm 0x3FFFFFFF)), (0x2881a500, .sxor plain 3 4 (.reg 5)), (0xfffffffe0081ad00, .sshl plain 3 4 (.imm 0x3FFFFFFF)),
    (0x2881b500, .sshr plain 3 4 (.reg 5)), (0xfffffffe0081bd00, .ssar plain 3 4 (.imm 0x3FFFFFFF)), (0x2881c500, .smin plain 3 4 (.reg 5)),
    (0xfffffffe0081cd00, .smax plain 3 4 (.imm 0x3FFFFFFF)), (0x28818510, .smul plain 3 4 (.reg 5)), (0x1a0081cd20, .scmp plain .geu 3 4 (.imm 6)),
    (0x123456789abcdef00000000000018532, .sli plain 3 0x123456789ABCDEF0), (0x28878540, .bset plain 15 4 (.reg 5)), (0x4200408d40, .badd plain 1 2 (.imm 16)),
    (0x600419540, .bget plain 3 2 true), (0x87e00018550, .mfs plain 3 (.chweight 15)), (0x18600e00560, .mts plain .absvec 7),
    (0x10200c28570, .setf plain 5 6 (.imm 0x40)), (0xe00028580, .setg plain 5 (.imm 3))]

theorem test_decode_scalar : scalarWords.all (fun e => decide (decodeTableWord 128 e.1 = some e.2)) = true := by decide

/-- Words of the near family with the instructions they stand for. -/
def nearWords : List (Nat × Instr) :=
  [(0xfffffff00018b04040418601, .ld plain .s16 .acq .frame .vault 3 1 2 4 0xFFFFFFF0), (0x80021d03040420611, .st plain .s64 .rel .device .spad 4 1 2 3 8),
    (0x10004480000418621, .lds plain .n8 .rlx .strand .spadp 3 1 1), (0x100008580000418631, .sts plain .n64 .rlx .strand .vault 3 1 16),
    (0x42279085040418641, .atom plain .add .s32 .ar .die .vault true 3 1 2 9 5 4), (0x4018000004041be51, .atoms plain .cas .b32 .rlx .strand .spad 3 1 2 6 4),
    (0x10800000000660, .fence plain .acq .frame), (0x43c0000000028e70, .meet plain .wait 5 15 16), (0xffc0000001238680, .ldb plain .spad 7 4 1023),
    (0x88000001278e80, .stb plain .vault 15 4 2), (0x800000012f8690, .pldm plain .spad 95 4 2), (0x88000001000e90, .pstm plain .vault 0 4 2),
    (0x8001c80000a10000d1, .spawn plain .vault 4 5 7 128)]

theorem test_decode_near : nearWords.all (fun e => decide (decodeTableWord 128 e.1 = some e.2)) = true := by decide

/-- Words of the engine family with the instructions they stand for. -/
def engineWords : List (Nat × Instr) :=
  [(0xabcdc928b01c00000022004000c116c2, .cpy plain .b16 .rel .system (.far 9 10 2) (.near .vault 11) 3 4 (some (0xABCD, true))),
    (0x4d8600723c00000004002080418ed2, .cpgather plain (.vault 6) .rlx .strand .spadp 3 1 4 7 8 15 2 (some 77)),
    (0xffff000600000003e10287a1, .sort plain .rlx .strand .spad 5 4 31 6 0xFFFF), (0x30ee0, .bclose plain true 6), (0x183bef0, .wait plain true true true 7 6),
    (0xa248abcdef00118000c1618702, .ovld plain (.far 3) .acq .device 5 6 8 9 0xABCDEF 10), (0xffc0000002400720, .depDec plain 9 1023),
    (0x40000102400f20, .depAdd plain 9 1 8), (0x2419720, .depRead plain 3 9 0), (0xa1218730, .tinv plain 3 4 5), (0x400000000c10740, .malloc plain 2 3 16),
    (0xc00750, .mfree plain 3), (0x3ffc614303e8a02121c21f62, .mma plain .bf16 true true .rel .frame .vault 4 7 9 2 15 3 5 6 4095), (0x100000000c00770, .mzero plain 3 4),
    (0x85002010a0c48780, .mrd plain .bf16 9 3 5 4 33 1), (0x9008000b4c00100c08791, .mst plain .s8 .ar .frame .spadp 1 3 8 9 2 128)]

theorem test_decode_engine : engineWords.all (fun e => decide (decodeTableWord 128 e.1 = some e.2)) = true := by decide

/-- Words of the expert family with the instructions they stand for. -/
def expertWords : List (Nat × Instr) :=
  [(0x3118001628a07b0, .xdisp plain .acq .device 20 10 11 12), (0x608087c0, .xpull plain 1 2 3 0), (0x608087d0, .xctlSetbias plain 1 2 3), (0x48fd0, .xctlFlip plain 9),
    (0xffc40003e78017d0, .xctlSnap plain .spadp 30 31 1023), (0x3668e1fd0, .xctlRepl plain 28 26 27), (0x4000000080a7d0, .xctlPin plain 1 2 true),
    (0x80afd0, .xctlEvict plain 1 2), (0x18037d0, .xctlDone plain 0 6), (0x40000000003fd0, .xctlClose plain true), (0x18201ec287e0, .xbias plain 5 123 2)]

theorem test_decode_expert : expertWords.all (fun e => decide (decodeTableWord 128 e.1 = some e.2)) = true := by decide

/-! Witnesses: states and operands that meet the hypotheses of the statements. -/

/-- One running strand with extent 16 on core 0 of a pair, alone in its frame, and the device at stage 2. -/
def boot : State := { bootFrame State.reset with cur := 1, powered := true, stage := 2 }

/-- That state with the strand changed. -/
def with_ (f : Strand → Strand) : State := boot.setMe (f boot.me)

/-- The conditions of `Issues` in a form that evaluates. -/
def issues (i : Instr) (s : State) : Bool :=
  decide (s.me.life = .running) && decide (operandPark s s.me i = none) && decide (s.me.twin = none) && !s.me.shadow && !s.me.ckDue &&
    s.me.locks.all (fun r => !s.me.waitsFor i r)

theorem issues_of (i : Instr) (s : State) (h : issues i s = true) : Issues i s := by
  simp only [issues, Bool.and_eq_true, decide_eq_true_eq, Bool.not_eq_true', List.all_eq_true] at h
  exact ⟨h.1.1.1.1.1, h.1.1.1.1.2, ⟨h.1.1.1.2, h.1.1.2, h.1.2⟩, h.2⟩

/-- The conditions of `Fits` in a form that evaluates. -/
def fits (i : Instr) (x : VCode) (wide : Bool) (s : State) : Bool :=
  decide (s.me.disc ≠ 2) && (match s.me.roomFor (operOf i) x wide (s.me.operMap (operOf i)) with
    | .ok _ => true
    | .wait => false
    | .full => false)

theorem fits_of (i : Instr) (x : VCode) (wide : Bool) (s : State) (h : fits i x wide s = true) : Claim.Fits i x wide s := by
  simp only [fits, Bool.and_eq_true, decide_eq_true_eq] at h
  refine ⟨fun hd => absurd hd h.1, ?_⟩
  have h2 := h.2
  split at h2
  · exact ⟨_, by assumption⟩
  · exact absurd h2 (by decide)
  · exact absurd h2 (by decide)

/-- Lanes 0 to 15 of V1 hold 0 to 15, of V2 100, of V3 and V4 the multiples of 4 and 16; S1 = 0x100, S2 = 3. -/
def lanes : State := with_ fun t => { t with
  v := [(1, (List.range 16).map (fun l => (l, BitVec.ofNat 32 l))), (2, (List.range 16).map (fun l => (l, 100))), (3, (List.range 16).map (fun l => (l, BitVec.ofNat 32 (4 * l)))), (4, (List.range 16).map (fun l => (l, BitVec.ofNat 32 (16 * l))))], sr := [(1, 0x100), (2, 3)], p := [(1, 0x00FF), (2, 0x0F0F)] }

theorem wit_scalar : ∃ d n f, Claim.scalarResult (.smax plain 5 1 (.imm 7)) = some (d, n, f) ∧ Issues (.smax plain 5 1 (.imm 7)) lanes :=
  ⟨_, _, _, rfl, issues_of _ _ (by decide)⟩
/-- The form that writes S0. -/
theorem wit_scalar_zero : ∃ n f, Claim.scalarResult (.pcnt plain 0 1 2) = some (0, n, f) ∧ Issues (.pcnt plain 0 1 2) lanes := ⟨_, _, rfl, issues_of _ _ (by decide)⟩
theorem wit_map : ∃ x f, Claim.mapResult (.pfirst plain 3 1 2 0 2) = some (x, f) ∧ WellFormed true (.pfirst plain 3 1 2 0 2) = true ∧ Issues (.pfirst plain 3 1 2 0 2) lanes ∧ lanes.me.ext ≤ 1024 :=
  ⟨_, _, rfl, by decide, issues_of _ _ (by decide), by decide⟩
theorem wit_integer : ∃ r, Claim.integerLane (.mad plain .s64 true 4 6 8 10 1) = some r ∧ WellFormed true (.mad plain .s64 true 4 6 8 10 1) = true ∧
    Issues (.mad plain .s64 true 4 6 8 10 1) lanes ∧ Claim.Fits (.mad plain .s64 true 4 6 8 10 1) r.x r.wide lanes :=
  ⟨_, rfl, by decide, issues_of _ _ (by decide), fits_of _ _ _ _ (by decide +kernel)⟩
theorem wit_ordered_scan : ∃ r, Claim.orderedLane (.scan plain .max .s32 3 1 2) = some r ∧ WellFormed true (.scan plain .max .s32 3 1 2) = true ∧ Issues (.scan plain .max .s32 3 1 2) lanes ∧
    Claim.Fits (.scan plain .max .s32 3 1 2) r.x r.wide lanes := ⟨_, rfl, by decide, issues_of _ _ (by decide), fits_of _ _ _ _ (by decide +kernel)⟩
theorem wit_ordered : ∃ r, Claim.orderedLane (.rank plain .s32 3 1 1) = some r ∧ WellFormed true (.rank plain .s32 3 1 1) = true ∧ Issues (.rank plain .s32 3 1 1) lanes ∧
    Claim.Fits (.rank plain .s32 3 1 1) r.x r.wide lanes := ⟨_, rfl, by decide, issues_of _ _ (by decide), fits_of _ _ _ _ (by decide +kernel)⟩
theorem wit_float : ∃ r, Claim.floatLane (.fdiv plain .f32 1 1 2 0) = some r ∧ WellFormed true (.fdiv plain .f32 1 1 2 0) = true ∧ Issues (.fdiv plain .f32 1 1 2 0) lanes ∧
    Claim.Fits (.fdiv plain .f32 1 1 2 0) r.x r.wide lanes := ⟨_, rfl, by decide, issues_of _ _ (by decide), fits_of _ _ _ _ (by decide +kernel)⟩
theorem wit_lane_scalar : ∃ x f, Claim.laneScalar (.redidx plain true .s32 3 1 2) = some (x, f) ∧ WellFormed true (.redidx plain true .s32 3 1 2) = true ∧
    Issues (.redidx plain true .s32 3 1 2) lanes ∧ (lanes.me.disc = 2 → lanes.me.dropCount (operOf (.redidx plain true .s32 3 1 2)) = 0) :=
  ⟨_, _, rfl, by decide, issues_of _ _ (by decide), by decide⟩
theorem wit_comparison : ∃ x pe f, Claim.comparison (.cmp plain .s32 .lt 3 4 1 2 0) = some (x, pe, f) ∧ WellFormed true (.cmp plain .s32 .lt 3 4 1 2 0) = true ∧
    Issues (.cmp plain .s32 .lt 3 4 1 2 0) lanes ∧ (lanes.me.disc = 2 → lanes.me.dropCount (operOf (.cmp plain .s32 .lt 3 4 1 2 0)) = 0) :=
  ⟨_, _, _, rfl, by decide, issues_of _ _ (by decide), by decide⟩
/-- CMP of a register that cannot come back, and FCMP of it. -/
theorem wit_comparison_lacks : let s := lanes.setMe { lanes.me with evicted := [1], bkLen := 64, pegquota := 1 }
    (∀ i ∈ [Instr.cmp plain .s32 .lt 3 4 1 2 0, .fcmp plain .f32 .lt 3 4 1 2 0], (∃ x pe f, Claim.comparison i = some (x, pe, f)) ∧ WellFormed true i = true ∧ Issues i s ∧ s.me.disc ≠ 2 ∧ 1 ∈ (operOf i).vregs) ∧
    1 ∈ s.me.evicted ∧ faultsOnRoom (.cmp plain .s32 .lt 3 4 1 2 0) = true ∧ faultsOnRoom (.fcmp plain .f32 .lt 3 4 1 2 0) = false := by
  refine ⟨fun i hi => ?_, by decide, by decide, by decide⟩
  simp only [List.mem_cons, List.not_mem_nil, or_false] at hi
  rcases hi with rfl | rfl <;> exact ⟨⟨_, _, _, rfl⟩, by decide, issues_of _ _ (by decide +kernel), by decide, by decide⟩
theorem wit_register : (∃ f, Claim.registerFlow (.setf plain 5 1 (.imm 0)) = some f) ∧ Issues (.setf plain 5 1 (.imm 0)) lanes ∧
    (∃ f, Claim.registerFlow (.setg plain 5 (.imm 3)) = some f) ∧ Issues (.setg plain 5 (.imm 3)) lanes :=
  ⟨⟨_, rfl⟩, issues_of _ _ (by decide), ⟨_, rfl⟩, issues_of _ _ (by decide)⟩
theorem wit_special : (∃ f, Claim.specialFlow (.mfs plain 5 .partcfg) = some f) ∧ Issues (.mfs plain 5 .partcfg) lanes ∧
    (∃ f, Claim.specialFlow (.mts plain .disc 2) = some f) ∧ Issues (.mts plain .disc 2) lanes ∧ (∃ f, Claim.specialFlow (.bset plain 7 1 (.imm (-1))) = some f) ∧ Issues (.bset plain 7 1 (.imm (-1))) lanes :=
  ⟨⟨_, rfl⟩, issues_of _ _ (by decide), ⟨_, rfl⟩, issues_of _ _ (by decide), ⟨_, rfl⟩, issues_of _ _ (by decide)⟩
theorem wit_control : (∃ f, Claim.controlFlow (.if_ plain 1 4) = some f) ∧ Issues (.if_ plain 1 4) lanes ∧ (∃ f, Claim.controlFlow (.endif plain) = some f) ∧
    Issues (.endif plain) lanes := ⟨⟨_, rfl⟩, issues_of _ _ (by decide), ⟨_, rfl⟩, issues_of _ _ (by decide)⟩
/-- V1 in the backing area, with room for it to come back or without. -/
def outside (quota : Nat) : State := lanes.setMe { lanes.me with evicted := [1], bkLen := 64, pegquota := quota }
/-- An empty queue register, of two the second; a register in the backing area; a gang arrival already made, by strand 0 of a gang of strands 0 and 2. -/
theorem wit_parks : isEvent (.add plain .s32 false 1 120 123 0) = false ∧ lanes.me.life = .running ∧ NoEntry (.add plain .s32 false 1 120 123 0) lanes.me 3 ∧
    operandPark lanes lanes.me (.popc plain 1 123 0) = some (.qEmpty 3) ∧
    (∀ q, ¬NoEntry (.popc plain 5 1 0) (outside 32768).me q) ∧ Evicted (.popc plain 5 1 0) (outside 32768).me 1 ∧
    (outside 32768).me.restoreRoom ((operOf (.popc plain 5 1 0)).vregs ++ destOf (.popc plain 5 1 0)) ((outside 32768).me.lost (operOf (.popc plain 5 1 0))) ≠ .full ∧
    (outside 1).me.restoreRoom ((operOf (.popc plain 5 1 0)).vregs ++ destOf (.popc plain 5 1 0)) ((outside 1).me.lost (operOf (.popc plain 5 1 0))) = .full := by
  refine ⟨by decide, by decide, by unfold NoEntry; decide, by decide, ?_, by unfold Evicted; decide, by decide +kernel, by decide +kernel⟩
  rintro q ⟨⟨v, hv, h⟩, -⟩
  have hl : (operOf (.popc plain 5 1 0)).srcs = [⟨1, false⟩] := rfl
  rw [hl, List.mem_singleton] at hv
  subst hv
  simp at h
  omega
/-- A handler in the loaded slot 1. -/
def handled : State := with_ fun t => { t with handler := 1 * 2 ^ 14 + 40 }
theorem wit_trap : Issues (.trap plain 1023) handled ∧ (∃ d, trapTarget handled handled.me .trap = some d) ∧ Issues (.bkpt plain 0) handled ∧
    (∃ d, trapTarget handled handled.me .bkpt = some d) ∧ Issues (.trap plain 5) boot ∧ trapTarget boot boot.me .trap = none ∧ trapTarget boot boot.me .bkpt = none :=
  ⟨issues_of _ _ (by decide), ⟨_, rfl⟩, issues_of _ _ (by decide), ⟨_, rfl⟩, issues_of _ _ (by decide), by decide, by decide⟩
theorem wit_fetch_fault : boot.me.life = .running ∧ trapTarget boot boot.me .illegalOpcode = none ∧ handled.me.life = .running ∧
    (trapTarget handled handled.me .illegalOpcode).isSome = true := by decide
/-- A strand with one load outstanding. -/
def awaiting : State := with_ fun t => { t with rets := [{ ord := 0, kind := .lds, dest := 0, wide := false, ty := .b32, dests := [3], units := [⟨0, spadKey 0 16, 0, 0, 0, some 7, 0⟩], tag := ⟨0, 0, 0, 0⟩, addr := 0, insn := 0, pc := 0 }] }
/-- The strand's launch names a successor whose record asks for a pair of cores and no scratchpad: record 0 at its scratchpad bytes. -/
def leaving (succ : TaskRec) : State := boot.setPart 0 { boot.part 0 with launches := [(0, ⟨0, 1, 1, 0, 1, none, some succ, true, none⟩)] }
theorem wit_exit : Issues (.exit plain) boot ∧ boot.me.rets = [] ∧ ¬Mismatch boot ∧ Issues (.exit plain) awaiting ∧ awaiting.me.rets ≠ [] ∧
    Issues (.exit plain) (leaving 0) ∧ Mismatch (leaving 0) ∧ (leaving 0).me.rets = [] := by
  refine ⟨issues_of _ _ (by decide), by decide +kernel, ?_, issues_of _ _ (by decide), by decide, issues_of _ _ (by decide), ⟨0, by decide +kernel, by decide +kernel, .inl (by decide +kernel)⟩, by decide⟩
  rintro ⟨r, h, -⟩
  exact absurd h (by rw [show ((boot.part (boot.frame boot.me.frame).part).launch (boot.frame boot.me.frame).launch).succ = none by decide +kernel]; simp)

/-! Floating-point numbers. -/

theorem wit_rounding : IsFmt ⟨8, 23⟩ ∧ IsFmt ⟨5, 10⟩ ∧ IsFmt ⟨8, 7⟩ ∧ Claim.Finite ⟨8, 23⟩ 0xFF7FFFFF ∧ ¬Claim.Finite ⟨8, 23⟩ 0x7F800000 ∧ Nan ⟨8, 23⟩ 0x7F800001 ∧ ¬Nan ⟨8, 23⟩ 0x7F800000 ∧
    realOf ⟨8, 23⟩ 0x3F800000 = 1 ∧ realOf ⟨8, 23⟩ 0x40000000 = (2 : ℝ) ^ (1 : ℤ) ∧ realOf ⟨8, 23⟩ 0x80000000 = 0 := by
  refine ⟨.inl rfl, .inr (.inl rfl), .inr (.inr rfl), by unfold Claim.Finite; decide, by unfold Claim.Finite; decide, by unfold Nan; decide, by unfold Nan; decide, ?_, ?_, ?_⟩ <;>
    norm_num [realOf, minus, magValue, magOf]
theorem wit_float_pins : minus ⟨8, 23⟩ 0x80000001 = true ∧ 0 < magOf ⟨8, 23⟩ ((⟨8, 23⟩ : Fmt).flush false 0x80000001) ∧ magOf ⟨8, 23⟩ ((⟨8, 23⟩ : Fmt).flush true 0x80000001) = 0 := by decide
theorem wit_float_nan : Nan ⟨8, 23⟩ 0x7FC00000 ∧ Nan ⟨8, 23⟩ 0xFF800001 := by unfold Nan; decide

/-- What a strand's entry of a store queue looks like with one unit at `key`. -/
def entry (key : Nat) (op : UnitOp) : SEntry := { ord := 0, tag := ⟨0, 0, 0, 0⟩, o := .rlx, sc := .strand, kind := .units, units := [⟨0, key, op, 0, 0⟩], ikind := 1, addr := 0, aux := 0, insn := 0, pc := 0, replayed := false }

/-- Nothing of the running strand is under way. -/
def bare (s : State) : Prop := s.me.sq = [] ∧ s.me.loads = [] ∧ s.me.rets = [] ∧ (s.core s.me.core).sent = []
theorem mayRead_bare {s : State} (h : bare s) (n k len : Nat) : MayRead s s.cur n k len := by
  obtain ⟨h1, h2, h4, h3⟩ := h
  change (s.strand s.cur).sq = [] at h1
  change (s.strand s.cur).loads = [] at h2
  change (s.strand s.cur).rets = [] at h4
  change (s.core (s.strand s.cur).core).sent = [] at h3
  simp [MayRead, Unblocked, Acquired, BeforeAtomics, Left, Passes, h1, h2, h3, h4]
theorem stored_bare {s : State} (h : bare s) (n : Nat) (sc : Scope) : Stored s s.cur n sc := by
  obtain ⟨h1, -, -, h3⟩ := h
  change (s.strand s.cur).sq = [] at h1
  change (s.core (s.strand s.cur).core).sent = [] at h3
  simp [Stored, h1, h3]
theorem loaded_bare {s : State} (h : bare s) (n : Nat) : Loaded s.me n := by simp [Loaded, h.2.1]
theorem before_bare {s : State} (h : bare s) (n : Nat) (sc : Scope) : Before s s.cur n sc := by
  refine ⟨loaded_bare h n, ?_, stored_bare h n sc⟩
  change ∀ e ∈ s.me.sq, _
  rw [h.1]; simp
theorem fence_bare {s : State} (h : bare s) (o : Ordn) (sc : Scope) (n : Nat) : FenceMet s s.cur o sc n := by
  refine ⟨?_, ?_, fun _ => stored_bare h n sc⟩
  · change ∀ r ∈ s.me.rets, _
    rw [h.2.2.1]; simp
  · obtain ⟨h1, -, -, h3⟩ := h
    change (s.strand s.cur).sq = [] at h1
    change (s.core (s.strand s.cur).core).sent = [] at h3
    simp [Stepped, h1, h3]
theorem engine_bare {s : State} (h : bare s) (n : Nat) (o : Ordn) : EngineMay s s.cur n o := by
  obtain ⟨h1, h2, -, h3⟩ := h
  change (s.strand s.cur).sq = [] at h1
  change (s.core (s.strand s.cur).core).sent = [] at h3
  simp [EngineMay, h1, h3]

/-- The conditions of `NearOk` in a form that evaluates. -/
def nearOk (i : Instr) (s : State) : Bool := match nearUse i with
  | none => true
  | some (_, sp, len, unit, f) => (f s.me).all (fun a => decide (0 ≤ a.2) && decide (a.2 + len s.me ≤ nearSize s s.me sp false) && decide (a.2 % (unit : Int) = 0))
theorem nearOk_of (i : Instr) (s : State) (h : nearOk i s = true) : NearOk i s := by
  intro n sp len unit f e a ha
  simp only [nearOk, e, List.all_eq_true, Bool.and_eq_true, decide_eq_true_eq] at h
  exact ⟨(h a ha).1.1, (h a ha).1.2, (h a ha).2⟩
theorem open_of (s : State) (h : s.me.sq.length = 0) : QueueOpen s := by simp [QueueOpen, h]

theorem bare_lanes : bare lanes := by refine ⟨?_, ?_, ?_, ?_⟩ <;> decide
theorem bare_boot : bare boot := by refine ⟨?_, ?_, ?_, ?_⟩ <;> decide

theorem wit_load : let i := Instr.ld plain .b32 .rlx .strand .spad 5 1 3 0 0
    WellFormed true i = true ∧ Issues i lanes ∧ Claim.Fits i 5 false lanes ∧ lanes.me.rets.length < 32 ∧ NearOk i lanes :=
  ⟨by decide, issues_of _ _ (by decide), fits_of _ _ _ _ (by decide +kernel), by decide, nearOk_of _ _ (by decide +kernel)⟩
/-- The last word of the scratchpad half. -/
theorem wit_load_scalar : let i := Instr.lds plain .s64 .acq .frame .spad 5 0 524280
    Issues i lanes ∧ lanes.me.rets.length < 32 ∧ NearOk i lanes := ⟨issues_of _ _ (by decide), by decide, nearOk_of _ _ (by decide +kernel)⟩
theorem wit_base_load : let i := Instr.ldb plain .vault 3 1 1023
    Issues i lanes ∧ NearOk i lanes := ⟨issues_of _ _ (by decide), nearOk_of _ _ (by decide +kernel)⟩
theorem wit_map_load : let i := Instr.pldm plain .spad 7 1 0
    Issues i lanes ∧ NearOk i lanes := ⟨issues_of _ _ (by decide), nearOk_of _ _ (by decide +kernel)⟩
/-- The first address past the half, the last one in it that is not aligned, and an address below 0. -/
theorem wit_near_faults : Issues (.lds plain .b32 .rlx .strand .spad 5 0 524285) lanes ∧ (nearSize lanes lanes.me .spad false : Int) < 524285 + 4 ∧
    Issues (.sts plain .n16 .rlx .strand .spad 5 0 524285) lanes ∧ ¬(nearSize lanes lanes.me .spad false : Int) < 524285 + 2 ∧ (524285 : Int) % 2 ≠ 0 ∧
    Issues (.atoms plain .add .n32 .rlx .strand .spad 5 0 0 0 0xFFFFFFFC) lanes ∧ ((0xFFFFFFFC : W32).toInt) < 0 :=
  ⟨issues_of _ _ (by decide), by decide +kernel, issues_of _ _ (by decide), by decide +kernel, by decide, issues_of _ _ (by decide), by decide⟩
/-- A store queue of 32 entries; 32 loads outstanding. -/
def full : State := with_ fun t => { t with sr := [(1, 0x100)], v := lanes.me.v, sq := List.replicate 32 (entry 0 (.write [])) }
def loading : State := lanes.setMe { lanes.me with rets := List.replicate 32 { ord := 0, kind := .lds, dest := 0, wide := false, ty := .b32, dests := [3], units := [], tag := ⟨0, 0, 0, 0⟩, addr := 0, insn := 0, pc := 0 } }
theorem wit_waits : ¬QueueOpen full ∧ (∀ i ∈ [Instr.sts plain .b32 .rlx .strand .spad 1 0 8, .atoms plain .add .n32 .rlx .strand .spad 5 0 0 0 0, .atom plain .add .n32 .rlx .strand .spad false 0 1 3 4 0 0,
      .atom plain .add .n32 .rlx .strand .spad true 5 1 3 4 0 0], Issues i full ∧ NearOk i full) ∧ Claim.Fits (.atom plain .add .n32 .rlx .strand .spad true 5 1 3 4 0 0) 5 false full ∧
    32 ≤ loading.me.rets.length ∧ (∀ i ∈ [Instr.ld plain .b32 .rlx .strand .spad 5 1 3 0 0, .lds plain .b32 .rlx .strand .spad 5 0 8], Issues i loading ∧ NearOk i loading) ∧
    Claim.Fits (.ld plain .b32 .rlx .strand .spad 5 1 3 0 0) 5 false loading := by
  refine ⟨by unfold QueueOpen; decide +kernel, ?_, fits_of _ _ _ _ (by decide +kernel), by decide, ?_, fits_of _ _ _ _ (by decide +kernel)⟩ <;> intro i hi <;>
    simp only [List.mem_cons, List.not_mem_nil, or_false] at hi
  · rcases hi with rfl | rfl | rfl | rfl <;> exact ⟨issues_of _ _ (by decide +kernel), nearOk_of _ _ (by decide +kernel)⟩
  · rcases hi with rfl | rfl <;> exact ⟨issues_of _ _ (by decide +kernel), nearOk_of _ _ (by decide +kernel)⟩
/-- A strand whose store queue holds an atomic step on the word at address 16 of its half. -/
def stepping : State := with_ fun t => { t with ord := 1, sq := [entry (spadKey 0 16) (.atom ⟨.add, .n32, 1, 0, false⟩)] }
/-- With the value of an LDB still to be read, of 16 bytes at address 16 of the half; of a PLDM whose destination is P7. -/
def locked (k : RKind) (s : State) : State := s.setMe { s.me with locks := [{ ord := 1, kind := k, dest := 7, wide := false, ty := .b32, dests := [], units := [⟨0, spadKey 0 16, 0, 0, 0, none, 0⟩], tag := ⟨0, 0, 0, 0⟩, addr := 0, insn := 0, pc := 0 }] }
theorem not_mayRead (k : RKind) (len : Nat) (h : 0 < len) : ¬MayRead (locked k stepping) (locked k stepping).cur 1 (spadKey 0 16) len := fun hr =>
  (hr.1.1 (entry (spadKey 0 16) (.atom ⟨.add, .n32, 1, 0, false⟩)) (List.mem_singleton.2 rfl) (by decide)).1 _ (List.mem_singleton.2 rfl) _ rfl ⟨by simp, by simp only; omega⟩
/-- An instruction that needs the register waits, or has the value read. -/
theorem wit_unlock : (unlock (locked .ldb boot) (.bget plain 5 7 0)).isSome = true ∧ (unlock (locked .ldb stepping) (.bget plain 5 7 0)).isSome = false ∧ (locked .ldb boot).me.life = .running ∧
    Unlocked (.sadd plain 5 1 (.imm 1)) (locked .ldb boot) := by unfold Unlocked; decide +kernel
theorem wit_lock : ∀ k ∈ [RKind.ldb, .pldm], ∀ s ∈ [locked k boot, locked k stepping], s.works s.cur = true ∧ s.me.life.live = true ∧ s.me.ext ≤ 1024 ∧
    s.me.rets.find? (fun y => decide (y.ord = 1) && !y.kind.scalar) = none ∧ ∃ r, s.me.locks.find? (fun y => decide (y.ord = 1)) = some r ∧ r.kind = k ∧ r.dest ≠ 0 ∧ ∃ x, r.units.find? (fun y => decide (y.lane = 0)) = some x := by
  intro k hk s hs
  simp only [List.mem_cons, List.not_mem_nil, or_false] at hk hs
  rcases hk with rfl | rfl <;> rcases hs with rfl | rfl <;> exact ⟨by decide, by decide, by decide, by decide, _, rfl, rfl, by decide, _, rfl⟩
theorem wit_store : ∀ i ∈ [Instr.st plain .b32 .rlx .strand .vault 1 1 3 0 0, .sts plain .b32 .rel .die .spad 1 0 524284, .stb plain .spad 2 1 1023, .pstm plain .vault 1 1 1],
    (∃ r, Claim.storing i = some r) ∧ Issues i lanes ∧ QueueOpen lanes ∧ (lanes.me.disc = 2 → lanes.me.dropCount (operOf i) = 0) ∧ NearOk i lanes := by
  intro i hi
  simp only [List.mem_cons, List.not_mem_nil, or_false] at hi
  rcases hi with rfl | rfl | rfl | rfl <;>
    exact ⟨⟨_, rfl⟩, issues_of _ _ (by decide), open_of _ (by decide), by decide, nearOk_of _ _ (by decide +kernel)⟩
theorem wit_atom : ∀ res ∈ [false, true], let i := Instr.atom plain .cas .b32 .ar .device .vault res (if res then 6 else 0) 1 3 4 0 0
    WellFormed true i = true ∧ Issues i lanes ∧ QueueOpen lanes ∧ NearOk i lanes ∧ (res = true → Claim.Fits i (if res then 6 else 0) false lanes ∧ lanes.me.rets.length < 32) := by
  intro res hr
  simp only [List.mem_cons, List.not_mem_nil, or_false] at hr
  rcases hr with rfl | rfl <;>
    exact ⟨by decide, issues_of _ _ (by decide), open_of _ (by decide), nearOk_of _ _ (by decide +kernel), fun _ => ⟨fits_of _ _ _ _ (by decide +kernel), by decide⟩⟩
theorem wit_atom_scalar : let i := Instr.atoms plain .maxpk .n32 .rlx .frame .spad 6 1 2 0 4
    Issues i lanes ∧ QueueOpen lanes ∧ lanes.me.rets.length < 32 ∧ NearOk i lanes := ⟨issues_of _ _ (by decide), open_of _ (by decide), by decide, nearOk_of _ _ (by decide +kernel)⟩
/-- A strand past a load whose value has not come. -/
def loading1 : State := awaiting.setMe { awaiting.me with ord := 1 }
/-- FENCE with nothing under way, and behind a load. -/
theorem wit_fence : Issues (.fence plain .ar .system) boot ∧ FenceMet boot boot.cur .ar .system boot.me.ord ∧ Issues (.fence plain .acq .frame) loading1 ∧
    ¬FenceMet loading1 loading1.cur .acq .frame loading1.me.ord := by
  refine ⟨issues_of _ _ (by decide), fence_bare bare_boot _ _ _, issues_of _ _ (by decide), fun h => ?_⟩
  have := h.1 _ (show awaiting.me.rets.head (by decide) ∈ (loading1.strand loading1.cur).rets by decide) (by decide)
  exact absurd this (by decide)
/-- A strand parked at a fence, with nothing under way and behind that load. -/
theorem wit_fence_park : let s := loading1.setMe { loading1.me with life := .parked (.fence .acq .frame 1) }
    (s.strand s.cur).life = .parked (.fence .acq .frame 1) ∧ ¬FenceMet s s.cur .acq .frame 1 := by
  refine ⟨by decide, fun h => ?_⟩
  have := h.1 _ (show awaiting.me.rets.head (by decide) ∈ ((loading1.setMe { loading1.me with life := .parked (.fence .acq .frame 1) }).strand loading1.cur).rets by decide) (by decide)
  exact absurd this (by decide)
/-- A store behind a release fence that a load before it holds up. -/
def heldUp : State := loading1.setMe { loading1.me with fences := [(1, .frame)], sq := [{ entry 0 (.write []) with ord := 2 }], rets := loading1.me.rets.map (fun r => { r with units := r.units.map (fun x => { x with val := none }) }) }
theorem wit_fence_holds : (heldUp.strand heldUp.cur).sq = { entry 0 (.write []) with ord := 2 } :: [] ∧ ¬MayLeave heldUp heldUp.cur { entry 0 (.write []) with ord := 2 } := by
  refine ⟨by decide, fun h => ?_⟩
  have h1 := (h.2.1 (1, .frame) (by decide) (by decide)).1 (heldUp.me.rets.head (by decide)) (by decide) (by decide) (by decide) (by decide)
    ((heldUp.me.rets.head (by decide)).units.head (by decide)) (by decide)
  exact h1 (by decide)
/-- Two strands of one frame, the first running. -/
def pair : State := (boot.setFrame boot.me.frame { boot.frame boot.me.frame with strands := [boot.cur, 9] }).setStrand 9 { boot.me with life := .ready, sidx := 1, slot := 1 }
/-- That frame with point 3 abandoned. -/
def abandoned : State := pair.setFrame pair.me.frame { pair.frame pair.me.frame with meet := [(3, { phase := 7, arr := 0, cnt := 0, ab := true })] }
/-- That frame with the running strand's bit of point 3 already set. -/
def arrivedOnce : State := pair.setFrame pair.me.frame { pair.frame pair.me.frame with meet := [(3, { phase := 7, arr := 1, cnt := 2, ab := false })] }
theorem wit_meet : ∀ s ∈ [boot, pair, abandoned, arrivedOnce], ∀ form ∈ [MeetForm.arr, .wait, .aw], Issues (.meet plain form 2 3 2) s ∧ Loaded s.me s.me.ord ∧ Stored s s.cur s.me.ord .frame ∧ s.me.fences = [] := by
  intro s hs form hf
  have hb : bare s := by
    simp only [List.mem_cons, List.not_mem_nil, or_false] at hs
    rcases hs with rfl | rfl | rfl | rfl <;> refine ⟨?_, ?_, ?_, ?_⟩ <;> decide
  refine ⟨?_, loaded_bare hb _, stored_bare hb _ _, ?_⟩ <;> simp only [List.mem_cons, List.not_mem_nil, or_false] at hs hf
  · rcases hs with rfl | rfl | rfl | rfl <;> rcases hf with rfl | rfl | rfl <;> exact issues_of _ _ (by decide)
  · rcases hs with rfl | rfl | rfl | rfl <;> decide
theorem wit_meet_cases : boot.me.fsize < (3 : BitVec 10).toNat ∧ ((abandoned.frame abandoned.me.frame).point 3).ab = true ∧ ((pair.frame pair.me.frame).point 3).ab = false ∧
    ((arrivedOnce.frame arrivedOnce.me.frame).point 3).arr.getLsbD arrivedOnce.me.sidx = true ∧ Issues (.meet plain .arr 2 3 3) boot :=
  ⟨by decide, by decide +kernel, by decide +kernel, by decide +kernel, issues_of _ _ (by decide)⟩
/-- A vector load whose lanes 3, 4 and 5 are to return, the last not yet performed, the destination holding lane 3 only; of a pair too. -/
def returning (wide : Bool) : State := with_ fun t => { t with v := [(6, [(3, 0), (4, 0)]), (7, [(3, 0)])], rets :=
  [{ ord := 0, kind := .ld, dest := 6, wide := wide, ty := if wide then .s64 else .b32, dests := [], units := [⟨3, 0, 0, 0, 0, some 7, 0⟩, ⟨4, 0, 0, 0, 0, some 8, 0⟩, ⟨5, spadKey 0 16, 0, 0, 0, none, 0⟩], tag := ⟨0, 0, 0, 0⟩, addr := 0, insn := 0, pc := 0 }] }
theorem wit_perform : (returning false).works (returning false).cur = true ∧ (returning false).me.life.live = true ∧ (returning false).me.twin = none ∧ (returning false).me.mirror = [] ∧
    (∃ r x, (returning false).me.rets.find? (fun y => decide (y.ord = 0) && decide (y.kind.scalar = r.kind.scalar)) = some r ∧ r.kind = .ld ∧ r.units.find? (fun y => decide (y.lane = 5)) = some x ∧ x.val = none) ∧
    MayRead (returning false) (returning false).cur 0 (spadKey 0 16) 4 := by
  refine ⟨by decide, by decide, by decide, by decide, ⟨(returning false).me.rets.head (by decide), ⟨5, spadKey 0 16, 0, 0, 0, none, 0⟩, by decide, by decide, by decide, rfl⟩, ?_⟩
  have h1 : ((returning false).strand (returning false).cur).sq = [] := by decide
  have h2 : ((returning false).core ((returning false).strand (returning false).cur).core).sent = [] := by decide
  have h3 : ∀ r ∈ ((returning false).strand (returning false).cur).rets, r.ord = 0 := by decide
  have h4 : ∀ r ∈ ((returning false).strand (returning false).cur).loads, r.ord = 0 := by decide
  refine ⟨by simp [Unblocked, h1, h2], ⟨fun r hr hn => ?_, by simp [h1], by simp [h2]⟩, .inl (by simp [Left, h1]), fun r hr hn => ?_⟩
  · exact absurd hn (by simp [h3 r hr])
  · exact absurd hn (by simp [h4 r hr])
/-- A load that a step of its own strand before it holds up. -/
theorem wit_perform_waits : let s := stepping.setMe { stepping.me with rets := [{ ord := 1, kind := .lds, dest := 0, wide := false, ty := .b32, dests := [3], units := [⟨0, spadKey 0 16, 0, 0, 0, none, 0⟩], tag := ⟨0, 0, 0, 1⟩, addr := 0, insn := 0, pc := 0 }] }
    s.works s.cur = true ∧ ¬MayRead s s.cur 1 (spadKey 0 16) 4 ∧ s.me.mirror = [] := by
  refine ⟨by decide, fun h => ?_, by decide⟩
  exact (h.1.1 (entry (spadKey 0 16) (.atom ⟨.add, .n32, 1, 0, false⟩)) (List.mem_singleton.2 rfl) (by decide)).1 _ (List.mem_singleton.2 rfl) _ rfl ⟨by simp, by simp⟩
theorem wit_load_now : boot.me.sq = [] ∧ boot.me.held = [] ∧ (boot.core boot.me.core).sent = [] := by decide
/-- A strand whose store queue holds one write of four bytes at address 16 of its half. -/
def storedAt16 : State := with_ fun t => { t with ord := 1, sq := [entry (spadKey 0 16) (.write [1, 2, 3, 4])] }
/-- A core with one unit under way from its strand. -/
def under (op : UnitOp) (rep : Bool) : State := boot.setCore 0 { boot.core 0 with sent := [⟨boot.cur, { entry 0 op with units := [], replayed := rep }, ⟨0, spadKey 0 16, op, 0, 0⟩, false, 0, false⟩] }
theorem wit_seen : storedAt16.me.sq = [] ++ [entry (spadKey 0 16) (.write [1, 2, 3, 4])] ∧
    ∃ e, ((under (.write [1, 2]) false).core 0).sent = [] ++ [e] ∧ e.snap = false ∧ e.entry.replayed = false ∧ e.u.key = spadKey 0 16 ∧ e.u.op = .write [1, 2] :=
  ⟨by decide, _, rfl, rfl, rfl, rfl, rfl⟩
theorem wit_return : (∀ l ∈ [3, 4], ∀ w ∈ [false, true], ∃ r x v, (returning w).works (returning w).cur = true ∧ (returning w).me.life.live = true ∧ r.units.find? (fun y => decide (y.lane = l)) = some x ∧ x.val = some v ∧
    (returning w).me.rets.find? (fun y => decide (y.ord = 0) && !y.kind.scalar) = some r ∧ l < 1024 ∧ r.dest < 120 ∧ (r.wide = true → r.dest + 1 < 120)) ∧
    (∃ r x v, awaiting.works awaiting.cur = true ∧ r.units.find? (fun y => decide (y.lane = 0)) = some x ∧ x.val = some v ∧
      awaiting.me.rets.find? (fun y => decide (y.ord = 0) && y.kind.scalar) = some r) := by
  refine ⟨fun l hl w hw => ?_, _, _, _, by decide, rfl, rfl, rfl⟩
  simp only [List.mem_cons, List.not_mem_nil, or_false] at hl hw
  rcases hl with rfl | rfl <;> rcases hw with rfl | rfl <;> exact ⟨_, _, _, by decide, by decide, rfl, rfl, rfl, by decide, by decide, by decide⟩
/-- That value may be read. -/
theorem wit_lock_read : ∀ k ∈ [RKind.ldb, .pldm], MayRead (locked k boot) (locked k boot).cur 1 (spadKey 0 16) (if k = .ldb then 16 else 8) := by
  intro k hk
  have h1 : ((locked k boot).strand (locked k boot).cur).sq = [] := rfl
  have h2 : ((locked k boot).core ((locked k boot).strand (locked k boot).cur).core).sent = [] := rfl
  have h3 : ((locked k boot).strand (locked k boot).cur).rets = [] := rfl
  have h4 : ∀ r ∈ ((locked k boot).strand (locked k boot).cur).loads, r.ord = 1 := by
    intro r hr
    simp only [Strand.loads, h3, List.nil_append] at hr
    rw [List.mem_singleton.1 hr]
  refine ⟨by simp [Unblocked, h1, h2], by simp [Acquired, h1, h2, h3], .inl (by simp [Left, h1]), fun r hr hn => absurd hn (by simp [h4 r hr])⟩
/-- A strand whose store queue holds an entry of the kind. -/
def queued (k : SKind) : State := with_ fun t => { t with sq := [{ entry 0 (.write []) with kind := k, units := [] }] }
/-- The eight pieces of a record at the start of the scratchpad, none read. -/
def pieces : Pieces := (List.range 8).map (fun i => (spadKey 0 (16 * i), none))
/-- A SPAWN with one of its pieces to be read, and with all of them. -/
theorem wit_spawn_pieces : ∀ pick ∈ [[3], List.range 8], let a := (queued (.spawn pieces 0)).me
    let l : Pieces := pieces.zipIdx.map (fun y => if y.2 ∈ pick ∧ y.1.2 = none then (y.1.1, some []) else y.1)
    a.sq.map (·.kind) = [.spawn pieces 0] ∧ ((∃ y ∈ l, y.2 = none) ↔ pick = [3]) := by decide
theorem wit_leave : ∀ s ∈ [storedAt16, queued (.dep 5 1), queued (.snap [spadKey 0 0, spadKey 0 4] 0), queued (.spawn pieces 0)],
    ∃ e, s.me.sq = [e] ∧ mayLeave s s.cur e = true ∧ s.me.twin = none ∧ (((s.part 0).queue 0).tail - ((s.part 0).queue 0).head).toNat < 2 ^ ((s.part 0).queue 0).sz := by
  intro s hs
  simp only [List.mem_cons, List.not_mem_nil, or_false] at hs
  rcases hs with rfl | rfl | rfl | rfl <;> exact ⟨_, rfl, by decide +kernel, by decide, by decide⟩
/-- That unit replayed, with its tag in the store. -/
def replayedOnce : State := (under (.write [1, 2]) true).setPart 0 { boot.part 0 with tags := [(⟨0, 0, 0, 0⟩, 0)] }
theorem wit_write : ∃ e f g, arrivable (under (.write [1, 2]) false) 0 0 = some e ∧ e.u.op = .write [1, 2] ∧
    arrivable (under (.write [1, 2]) true) 0 0 = some g ∧ (g.tag, g.u.unit) ∉ ((under (.write [1, 2]) true).part g.tag.part).tags ∧
    arrivable replayedOnce 0 0 = some f ∧ f.u.op = .write [1, 2] ∧ f.entry.replayed = true ∧ (f.tag, f.u.unit) ∈ (replayedOnce.part f.tag.part).tags :=
  ⟨_, _, _, rfl, rfl, rfl, by decide, rfl, rfl, rfl, by decide⟩
theorem wit_step : ∀ op ∈ [AtomOp.add, .min, .max, .and, .or, .xor, .xchg, .cas, .maxpk, .minpk], ∃ e a, arrivable (under (.atom ⟨op, .n32, 1, 0, true⟩) false) 0 0 = some e ∧ e.u.op = .atom a ∧
    e.entry.replayed = false ∧ ((under (.atom ⟨op, .n32, 1, 0, true⟩) false).part e.tag.part).results.length < 4096 ∧ ((under (.atom ⟨op, .n32, 1, 0, true⟩) false).strand e.sid).twin = none := by
  intro op hop
  simp only [List.mem_cons, List.not_mem_nil, or_false] at hop
  rcases hop with rfl | rfl | rfl | rfl | rfl | rfl | rfl | rfl | rfl | rfl <;> exact ⟨_, _, rfl, rfl, rfl, by decide, by decide⟩
/-- A step replayed, with its result kept. -/
theorem wit_step_replayed : let s := (under (.atom ⟨.add, .n32, 1, 0, true⟩) true).setPart 0 { boot.part 0 with results := [((⟨0, 0, 0, 0⟩, 0), 6)] }
    ∃ e a, arrivable s 0 0 = some e ∧ e.u.op = .atom a ∧ e.entry.replayed = true ∧ (s.strand e.sid).twin = none ∧
      (s.part e.tag.part).results.find? (fun y => decide (y.1 = (e.tag, e.u.unit))) = some ((e.tag, e.u.unit), 6) := ⟨_, _, rfl, rfl, rfl, by decide, by decide⟩

/-! Runs, charges and stops of lane instructions. -/

theorem wit_runs : Claim.LaneForm (.add plain .s32 false 5 1 2 0) ∧ WellFormed true (.add plain .s32 false 5 1 2 0) = true ∧ Issues (.add plain .s32 false 5 1 2 0) lanes ∧
    (∃ t, exec (.add plain .s32 false 5 1 2 0) lanes = .next t ∧ (t.strand lanes.cur).ord = lanes.me.ord + 1) ∧
    Issues (.bra ⟨true, true⟩ .always 10) awaiting ∧ (targetPC boot boot.me 10).isSome = true ∧ Issues (.trap plain 0) handled ∧ (trapTarget handled handled.me .trap).isSome = true ∧
    (trapTarget handled (handled.strand handled.cur) .uncorrectable).isSome = false ∧ (trapTarget handled (handled.strand handled.cur) .mapDrop).isSome = true :=
  ⟨.inl ⟨_, rfl⟩, by decide, issues_of _ _ (by decide), ⟨_, rfl, by decide +kernel⟩, issues_of _ _ (by decide), by decide, issues_of _ _ (by decide), by decide, by decide, by decide⟩
/-- Under DISC 2, one lane of V1 more than V2 has; the same with V1 in a backing area that cannot give it back. -/
def uneven (n quota : Nat) : State := lanes.setMe { lanes.me with disc := n, pegquota := quota, v := [(1, (List.range 16).map (fun l => (l, 1))), (2, (List.range 15).map (fun l => (l, 1)))] }
theorem wit_lane_stops : Issues (.add plain .s32 false 5 1 2 0) (uneven 2 32768) ∧ (uneven 2 32768).me.disc = 2 ∧ Claim.dropped (.add plain .s32 false 5 1 2 0) (uneven 2 32768).me = 1 ∧
    LaneForm (.popc plain 5 1 0) ∧ (outside 1).me.life = .running ∧ (outside 1).me.twin = none ∧ (outside 1).me.shadow = false ∧ (outside 1).me.ckDue = false ∧ (outside 1).me.disc ≠ 2 ∧
    laneDest (.add plain .s32 false 5 1 2 0) = some (5, false) ∧ Issues (.add plain .s32 false 5 1 2 0) (uneven 0 4) ∧
    (uneven 0 4).me.roomFor (operOf (.add plain .s32 false 5 1 2 0)) 5 false ((uneven 0 4).me.operMap (operOf (.add plain .s32 false 5 1 2 0))) = .full :=
  ⟨issues_of _ _ (by decide), by decide, by decide +kernel, .inl ⟨_, rfl⟩, by decide, by decide, by decide, by decide, by decide, rfl, issues_of _ _ (by decide), by decide +kernel⟩
/-- A store whose maps differ; a load whose destination has no room. -/
theorem wit_near_stops : (let i := Instr.st plain .b32 .rlx .strand .spad 1 1 2 0 0
      (nearUse i).isSome = true ∧ Issues i (uneven 2 32768) ∧ Claim.dropped i (uneven 2 32768).me = 1) ∧
    let i := Instr.ld plain .b32 .rlx .strand .spad 5 0 2 0 0
    nearDest i = some (5, false) ∧ Issues i (uneven 0 3) ∧ (uneven 0 3).me.disc ≠ 2 ∧ (uneven 0 3).me.roomFor (operOf i) 5 false ((uneven 0 3).me.operMap (operOf i)) = .full :=
  ⟨⟨by decide, issues_of _ _ (by decide), by decide +kernel⟩, rfl, issues_of _ _ (by decide), by decide, by decide +kernel⟩
/-- Forms of every family that go on. -/
theorem wit_runs_on : ∀ i ∈ [Instr.sts plain .b32 .rlx .strand .spad 1 0 8, .prange plain 1 0 0 4 0, .bset plain 3 0 (.reg 1), .mfs plain 3 .strandid, .bclose plain false 3, .xctlFlip plain 3],
    Claim.RunsOn i = true ∧ WellFormed true i = true ∧ isEvent i = false ∧ Issues i lanes ∧ ∃ t, exec i lanes = .next t ∧ (t.strand lanes.cur).ord = lanes.me.ord + 1 := by
  intro i hi
  simp only [List.mem_cons, List.not_mem_nil, or_false] at hi
  rcases hi with rfl | rfl | rfl | rfl | rfl | rfl <;> exact ⟨by decide, by decide, by decide, issues_of _ _ (by decide), _, (by rfl : exec _ lanes = .next _), by decide +kernel⟩
/-- Only a register with a return outstanding could make room. -/
theorem wit_lane_waits : let s := (uneven 0 6).setMe { (uneven 0 6).me with v := (8, [(0, 1)]) :: (uneven 0 6).me.v, written := [8], bkLen := 1024, rets :=
      [{ ord := 0, kind := .ld, dest := 8, wide := false, ty := .b32, dests := [], units := [⟨0, 0, 0, 0, 0, none, 0⟩], tag := ⟨0, 0, 0, 0⟩, addr := 0, insn := 0, pc := 0 }] }
    Issues (.add plain .s32 false 5 1 2 0) s ∧ s.me.disc ≠ 2 ∧ s.me.roomFor (operOf (.add plain .s32 false 5 1 2 0)) 5 false (s.me.operMap (operOf (.add plain .s32 false 5 1 2 0))) = .wait :=
  ⟨issues_of _ _ (by decide), by decide, by decide +kernel⟩

/-- The partition with counters 0 to 15. -/
def counted (s : State) : State := s.setPart 0 { s.part 0 with rcd := { (s.part 0).rcd with ccnt := 16 } }
/-- A command of a copy channel. -/
def command (k : CmdKind) (us : List CUnit) (rd : Bool) : Cmd :=
  { ord := 0, tag := ⟨0, 0, 0, 0⟩, batch := none, kind := k, o := .rlx, sc := .strand, units := us, arrived := [], peers := [], readDone := rd, addr := 0, insn := 0, cls := 0, pc := 0 }
/-- A channel of 64 commands. -/
def crowded (s : State) : State := s.setMe { s.me with copy := { s.me.copy with cmds := List.replicate 64 (command (.cpy 4 none none) [] false) } }
/-- A counter that is the last of the partition's, one that is past them; sides that are right, out of their space, and not aligned; a full channel. -/
theorem wit_cpy : let s := counted lanes
    (∀ i ∈ [Instr.cpy plain .b4 .rlx .strand (.near .vault 0 3) (.near .spad 1) 3 0 (some (15, false)), .cpy plain .b8 .rel .system (.far 0 1 4) (.near .vault 0) 4 0 none,
        .cpy plain .b4 .rlx .strand (.queue 3) (.far 0 1) 4 0 none, .cpy plain .b4 .rlx .strand (.near .vault 0 3) (.near .spad 1) 3 0 (some (16, false))],
      WellFormed true i = true ∧ Issues i s ∧ Issues i (crowded s)) ∧ OwnCounter s 15 ∧ ¬OwnCounter s 16 ∧ s.me.disc ≠ 2 ∧ 64 ≤ (crowded s).me.copy.cmds.length ∧
    (∀ l ∈ List.range 16, outOfSpace s 4 (cpyFrom s.me (.near .spad 1) 3 l) = false ∧ outOfSpace s 4 (cpyTo s.me (.near .vault 0 3) l) = false ∧ unaligned 4 (cpyFrom s.me (.near .spad 1) 3 l) = false ∧
      unaligned 8 (cpyTo s.me (.far 0 1 4) l) = false) ∧ outOfSpace s 4 (.near .spad 524285) = true ∧ outOfSpace s 4 (.near .spad 524284) = false ∧ unaligned 4 (.near .spad 6) = true := by
  refine ⟨fun i hi => ?_, by unfold OwnCounter; decide, by unfold OwnCounter; decide, by decide, by decide, by decide +kernel, by decide +kernel, by decide +kernel, by decide⟩
  simp only [List.mem_cons, List.not_mem_nil, or_false] at hi
  rcases hi with rfl | rfl | rfl | rfl <;> exact ⟨by decide, issues_of _ _ (by decide), issues_of _ _ (by decide)⟩
/-- DISC 2 with maps that differ. -/
theorem wit_cpy_drop : let i := Instr.cpy plain .b4 .rlx .strand (.near .vault 0 2) (.near .spad 1) 1 0 none
    Issues i (uneven 2 32768) ∧ WellFormed true i = true ∧ Claim.dropped i (uneven 2 32768).me ≠ 0 := ⟨issues_of _ _ (by decide), by decide, by decide +kernel⟩
/-- Rows that are clipped (S0 = 0 rows are there) and rows that are not; destinations and strides that are not multiples of 16. -/
theorem wit_gather : ∀ i ∈ [Instr.cpgather plain (.far 0 1) .rlx .strand .spad 0 1 1 1 0 0 0 (some 15), .cpgather plain (.spad 1) .rlx .strand .vault 0 1 0 0 0 0 0 none, .cpgather plain (.spad 1) .rlx .strand .vault 2 1 0 0 0 0 0 (some 16),
      .cpgather plain (.spad 1) .rlx .strand .vault 0 1 0 2 0 0 0 none], Issues i (counted lanes) ∧ Issues i (crowded (counted lanes)) := by
  intro i hi
  simp only [List.mem_cons, List.not_mem_nil, or_false] at hi
  rcases hi with rfl | rfl | rfl | rfl <;> exact ⟨issues_of _ _ (by decide), issues_of _ _ (by decide)⟩
theorem wit_gather_rows : (∀ l ∈ List.range 16, let r := gatherRow lanes.me (.spad 1) 0 1 0 0 0 1 l
      r.2.1 + 256 ≤ nearSize lanes lanes.me .vault false ∧ r.2.2.1 = true) ∧
    (∀ l ∈ List.range 16, let r := gatherRow lanes.me (.spad 1) 0 1 1 1 0 1 l
      r.2.1 + 256 ≤ nearSize lanes lanes.me .spad false ∧ r.2.2.1 = false) ∧ (gatherRow lanes.me (.spad 1) 2 1 0 0 0 1 0).2.1 % 16 ≠ 0 ∧ (lanes.me.s 2).toNat % 16 ≠ 0 ∧ (lanes.me.s 1).toNat % 16 = 0 := by decide +kernel
/-- S1 pairs from 0x10000 to 0x20000 and a table at 0, then ranges that overlap, that pass the half, that are not aligned, and no pair at all. -/
def sorting (n tb : W64) : State := with_ fun t => { t with sr := [(1, n), (2, 0x10000), (3, 0x20000), (4, tb)] }
theorem wit_sort : (∀ n ∈ [(16 : W64), 65537, 0], ∀ tb ∈ [(0 : W64), 0x10000, 0x7FFFC, 2], ∀ s ∈ [sorting n tb, crowded (sorting n tb)], Issues (.sort plain .rlx .strand .spad 3 2 1 4 0) s) ∧
    ¬Share 0 8 0x10000 64 ∧ Share 0x10000 8 0x10000 64 ∧ ¬Share 0x7FFFC 8 0x10000 64 ∧ nearSize boot boot.me .spad false < 0x7FFFC + 8 := by
  refine ⟨fun n hn tb ht s hs => ?_, by unfold Share; decide, by unfold Share; decide, by unfold Share; decide, by decide +kernel⟩
  simp only [List.mem_cons, List.not_mem_nil, or_false] at hn ht hs
  rcases hn with rfl | rfl | rfl <;> rcases ht with rfl | rfl | rfl | rfl <;> rcases hs with rfl | rfl <;> exact issues_of _ _ (by decide)
/-- A privileged strand. -/
def privileged : State := with_ fun t => { t with priv := true, sr := [(1, 0x10000), (2, 0x20000), (3, 1)], b := [(1, 8)] }
theorem wit_tinv : Issues (.tinv plain 0 1 3) boot ∧ boot.me.priv = false ∧ Issues (.tinv plain 0 2 3) privileged ∧ privileged.me.priv = true ∧
    (privileged.me.s 2).toNat = 2 ^ 17 ∧ Issues (.tinv plain 1 1 3) privileged ∧ (privileged.me.base 1).toNat % 2 ^ 16 ≠ 0 ∧ Issues (.tinv plain 0 1 3) privileged ∧ Issues (.tinv plain 0 1 3) (crowded privileged) ∧
    privileged.me.copy.cmds.length < 64 :=
  ⟨issues_of _ _ (by decide), by decide, issues_of _ _ (by decide), by decide, by decide, issues_of _ _ (by decide), by decide, issues_of _ _ (by decide), issues_of _ _ (by decide), by decide⟩
/-- Slot 3 pinned. -/
def slots : State := boot.setCore 0 (((boot.core 0).setSlot 3 { ovid := 9, idx := 0, cnt := 0, gen := 4, pin := 1, st := .loaded }))
/-- A load over the pinned slot, one past it, one of overlay 0, one of slots past the last, one from an address that is no multiple of 256, one past the window. -/
theorem wit_ovld : (∀ i ∈ [Instr.ovld plain .vault .rlx .strand 0 0 0 2 5 1, .ovld plain (.far 2) .rlx .strand 0 0 0 63 0xFFFFFF 0, .ovld plain .vault .rlx .strand 0 0 0 2 0 1, .ovld plain .vault .rlx .strand 0 0 0 63 5 1,
      .ovld plain .vault .rlx .strand 2 0 0 4 5 1, .ovld plain .vault .rlx .strand 1 0 0 4 5 1], Issues i slots ∧ Issues i (crowded slots)) ∧ ((slots.core 0).slot 3).pin ≠ 0 ∧
    (∀ m ∈ List.range 64, m = 3 ∨ ((slots.core 0).slot m).pin = 0 ∨ m = 0) ∧ 4096 * 2 ≤ windowSize (slots.part 0) ∧ windowSize (slots.part 0) < 2 ^ 29 + 4096 := by
  refine ⟨fun i hi => ?_, by decide, by decide +kernel, by decide, by decide⟩
  simp only [List.mem_cons, List.not_mem_nil, or_false] at hi
  rcases hi with rfl | rfl | rfl | rfl | rfl | rfl <;> exact ⟨issues_of _ _ (by decide), issues_of _ _ (by decide)⟩
/-- A strand with batches closed up to 0xFFFFFFFF and all done, one in error in its ring. -/
def batches : State := with_ fun t => { t with sr := [(1, 0xFFFFFFFF), (2, 0xFFFFFFFE), (3, 0xFFFFFF00)], copy := { t.copy with cpbatch := 0xFFFFFFFF, vdone := 0xFFFFFFFF, rdone := 0xFFFFFFFF, st := [(63, 0x201)] } }
/-- The same 64 batches behind. -/
def behind : State := batches.setMe { batches.me with copy := { batches.me.copy with vdone := 0xFFFFFFBF } }
/-- A matrix channel that has been reset. -/
def resetMx (s : State) : State := s.setMe { s.me with mx := { s.me.mx with rst := true } }
theorem wit_bclose : ∀ s ∈ [batches, behind], ∀ mx ∈ [false, true], Issues (.bclose plain mx 3) s := by
  intro s hs mx hm
  simp only [List.mem_cons, List.not_mem_nil, or_false] at hs hm
  rcases hs with rfl | rfl <;> rcases hm with rfl | rfl <;> exact issues_of _ _ (by decide)
/-- A batch done with and without an error, one not done, one never closed (S0), one beyond the ring, and RST. -/
theorem wit_wait : (∀ s ∈ [batches, behind], ∀ trp ∈ [false, true], ∀ y ∈ [(0 : SCode), 1, 2, 3], Issues (.wait plain true false trp 3 y) s) ∧ Issues (.wait plain true true false 3 1) (resetMx batches) ∧
    (resetMx batches).me.mx.rst = true ∧ Tbl.get 0 batches.me.copy.st 63 = 0x201 ∧ (trapTarget batches batches.me .copyError) = none ∧ (trapTarget handled handled.me .copyError).isSome = true := by
  refine ⟨fun s hs trp ht y hy => ?_, issues_of _ _ (by decide), by decide, by decide, by decide, by decide⟩
  simp only [List.mem_cons, List.not_mem_nil, or_false] at hs ht hy
  rcases hs with rfl | rfl <;> rcases ht with rfl | rfl <;> rcases hy with rfl | rfl | rfl | rfl <;> exact issues_of _ _ (by decide)
/-- A strand with one command in its copy channel. -/
def commanded (k : CmdKind) (us : List CUnit) (rd : Bool) : State := with_ fun t => { t with ord := 1, copy := { t.copy with cmds := [command k us rd] } }
theorem bare_commanded (k : CmdKind) (us : List CUnit) (rd : Bool) : bare (commanded k us rd) := ⟨rfl, rfl, rfl, rfl⟩
theorem cmd_commanded (k : CmdKind) (us : List CUnit) (rd : Bool) : ((commanded k us rd).strand (commanded k us rd).cur).cmd 0 = some (command k us rd) := rfl
theorem some_of {α : Type} (o : Option α) (p : α → Bool) (h : o.any p = true) : ∃ a, o = some a ∧ p a = true := by
  cases o with
  | none => exact absurd h (by simp)
  | some a => exact ⟨a, rfl, by simpa using h⟩
/-- A command alone in its channel takes the units of a transfer. -/
theorem transfer_of {s : State} {c : Cmd} {pick : List Nat} {us : List CUnit} (hb : bare s) (h : (s.strand s.cur).cmd c.ord = some c) (hw : s.works s.cur = true) (ht : (s.strand s.cur).twin = none)
    (hu : us = c.units.filter (fun x => pick.contains x.unit)) (x : CUnit) (r : List CUnit) (hx : us = x :: r) (hm : MayTransfer s s.cur c us x) : Transfer s s.cur c pick us :=
  ⟨h, hw, engine_bare hb _ _, ht, hu, x, r, hx, hm⟩
/-- Units of a relaxed command that may be written together. -/
theorem mayWrites {s : State} {u : Nat} {c : Cmd} {us : List CUnit} (ho : c.o = .rlx) (h : ∀ y ∈ us, (∀ d ∈ (s.strand u).copy.cmds, d.ord < c.ord → ∀ w ∈ d.writes, locMeets w.1 w.2 y.dst y.len = false) ∧
    ∀ z ∈ c.units, z ∈ us ∨ y.unit ≤ z.unit ∨ locMeets z.dst z.len y.dst y.len = false) : ∀ y ∈ us, MayWrite s u c us y :=
  fun y hy => ⟨(h y hy).1, (h y hy).2, fun hr => by rw [ho] at hr; simp at hr⟩
/-- Two lanes of a near copy in one block. -/
def twoLanes (d : Option (List Byte)) : List CUnit := [⟨0, 0, some (.near (spadKey 0 0)), some (.near (spadKey 0 64)), 4, d⟩, ⟨1, 1, some (.near (spadKey 0 4)), some (.near (spadKey 0 68)), 4, d⟩]
/-- Near copies of two lanes in one block, with a counter or into a queue register, whose lanes are to be read. -/
theorem wit_transfer : ∀ k ∈ [CmdKind.cpy 4 none (some (1, false)), .cpy 4 (some 3) none], let s := commanded k (twoLanes none) false
    Transfer s s.cur (command k (twoLanes none) false) [0, 1] (twoLanes none) ∧ Readable s (s.strand s.cur) (twoLanes none) none ∧ ∀ x ∈ twoLanes none, x.bytes = none := by
  intro k hk
  refine ⟨transfer_of (bare_commanded _ _ _) rfl ?_ rfl ?_ _ _ rfl ?_, ?_, by decide⟩
  · simp only [List.mem_cons, List.not_mem_nil, or_false] at hk
    rcases hk with rfl | rfl <;> decide
  · simp only [command]; decide +kernel
  · simp only [List.mem_cons, List.not_mem_nil, or_false] at hk
    rcases hk with rfl | rfl <;> exact ⟨by unfold Claim.Joined; decide +kernel, by rw [if_pos (by rfl)]; decide⟩
  · intro x hx b
    simp only [twoLanes, List.mem_cons, List.not_mem_nil, or_false] at hx
    rcases hx with rfl | rfl <;> simp
/-- The first of them with its lanes read. -/
theorem wit_transfer_writes : let s := commanded (.cpy 4 none (some (1, false))) (twoLanes (some [])) false
    Transfer s s.cur (command (.cpy 4 none (some (1, false))) (twoLanes (some [])) false) [0, 1] (twoLanes (some [])) ∧ ∀ x ∈ twoLanes (some []), x.bytes ≠ none ∧ ∃ k, x.dst = some (.near k) := by
  refine ⟨transfer_of (bare_commanded _ _ _) rfl (by decide) rfl (by decide +kernel) _ _ rfl ⟨by unfold Claim.Joined; decide +kernel, ?_⟩, ?_⟩
  · rw [if_neg (by decide)]
    exact fun y hy => ⟨by revert y; decide, mayWrites rfl (by decide +kernel) y hy⟩
  · intro x hx
    simp only [twoLanes, List.mem_cons, List.not_mem_nil, or_false] at hx
    rcases hx with rfl | rfl <;> exact ⟨by simp [CUnit.bytes], _, rfl⟩
/-- The copy TLB of the core with a page of far memory at 0, readable, writable and executable, backed by the pool. -/
def mapped (s : State) : State := s.setCore 0 { s.core 0 with tlb := [⟨0, 0, 0, false, 0x383#128, 0⟩] }
/-- A copy from far memory to far memory, to be read and read. -/
theorem wit_transfer_far : ∀ d ∈ [none, some []], let us : List CUnit := [⟨0, 0, some (.far 0), some (.far 64), 4, d⟩]
    let s := mapped (commanded (.cpy 4 none none) us false)
    Transfer s s.cur (command (.cpy 4 none none) us false) [0] us ∧ (∀ x ∈ us, x.bytes = d) ∧ ∃ e, Readable s (s.strand s.cur) us (some e) ∧ Plain e ∧ eW e.leaf = true ∧
      ∀ x ∈ us, (∃ b, x.dst = some (.far b)) ∧ pageOf s (s.strand s.cur) x.dst = some e := by
  intro d hd us s
  have hp : Plain ⟨0, 0, 0, false, 0x383#128, 0⟩ := by unfold Plain; decide
  simp only [List.mem_cons, List.not_mem_nil, or_false] at hd
  refine ⟨transfer_of ⟨rfl, rfl, rfl, rfl⟩ rfl ?_ rfl ?_ _ _ rfl ⟨?_, ?_⟩, ?_, ⟨0, 0, 0, false, 0x383#128, 0⟩, ⟨hp, by decide, fun x hx => ?_⟩, hp, by decide, fun x hx => ?_⟩
  · rcases hd with rfl | rfl <;> decide
  · rcases hd with rfl | rfl <;> decide +kernel
  · intro y hy; rw [List.mem_singleton.1 hy]; exact ⟨rfl, rfl⟩
  · rcases hd with rfl | rfl
    · rw [if_pos (by rfl)]; exact fun y hy => by rw [List.mem_singleton.1 hy]; rfl
    · rw [if_neg (by decide)]
      exact fun y hy => ⟨by rw [List.mem_singleton.1 hy]; decide, mayWrites rfl (by decide +kernel) y hy⟩
  · intro x hx; rw [List.mem_singleton.1 hx]; rcases hd with rfl | rfl <;> rfl
  all_goals (rw [List.mem_singleton.1 hx]; rcases hd with rfl | rfl <;> exact ⟨⟨_, rfl⟩, by decide +kernel⟩)
/-- A row of CPGATHER whose chunks are to be read, and one that is read. -/
def row (d : Option (List Byte)) : List CUnit := (List.range 16).map (fun c => ⟨c, 0, some (.near (spadKey 0 (16 * c))), some (.near (spadKey 0 (4096 + 16 * c))), 16, d⟩)
theorem wit_gather_transfer : (let s := commanded (.gather none) (row none) false
      Transfer s s.cur (command (.gather none) (row none) false) (List.range 16) (row none) ∧ (∀ x ∈ row none, x.bytes = none) ∧ Readable s (s.strand s.cur) (row none) none) ∧
    let s := commanded (.gather none) (row (some [])) false
    Transfer s s.cur (command (.gather none) (row (some [])) false) (List.range 16) (row (some [])) ∧ ∀ x ∈ row (some []), x.bytes ≠ none ∧ ∃ k, x.dst = some (.near k) := by
  refine ⟨⟨transfer_of (bare_commanded _ _ _) rfl (by decide) rfl (by decide +kernel) _ _ rfl ?_, by decide +kernel, ?_⟩, transfer_of (bare_commanded _ _ _) rfl (by decide) rfl (by decide +kernel) _ _ rfl ?_, ?_⟩
  · rw [MayTransfer]; simp only [command]; rw [if_pos (by rfl)]; unfold Claim.Joined; decide +kernel
  · intro x hx b
    obtain ⟨c, -, rfl⟩ := List.mem_map.1 hx
    simp
  · rw [MayTransfer]; simp only [command]; rw [if_neg (by decide)]
    refine ⟨fun y hy => ⟨?_, ?_, mayWrites rfl (by decide +kernel) y hy⟩, by decide +kernel⟩ <;> (obtain ⟨c, -, rfl⟩ := List.mem_map.1 hy)
    · simp [CUnit.bytes]
    · rfl
  · intro x hx
    obtain ⟨c, -, rfl⟩ := List.mem_map.1 hx
    exact ⟨by simp [CUnit.bytes], _, rfl⟩
/-- Two pairs that a SORT is to read. -/
def twoPairs : List CUnit := [⟨0, 0, some (.near (spadKey 0 0)), none, 4, none⟩, ⟨1, 0, some (.near (spadKey 0 4)), none, 4, none⟩]
/-- A SORT of which one pair is read, or both, and one whose words are to be written. -/
theorem wit_sort_pairs : (let s := commanded (.sort (spadKey 0 0) (spadKey 0 64) (spadKey 0 128) 2 2) twoPairs false
      (s.strand s.cur).cmd 0 = some (command (.sort (spadKey 0 0) (spadKey 0 64) (spadKey 0 128) 2 2) twoPairs false) ∧ s.works s.cur = true ∧ EngineMay s s.cur 0 .rlx ∧
      twoPairs.all (fun x => [0, 1].contains x.unit) = true ∧ twoPairs.any (fun x => !([0] : List Nat).contains x.unit && x.dat.isNone) = true) ∧
    let us : List CUnit := [⟨0, 0, none, some (.near (spadKey 0 64)), 4, some [1, 2, 3, 4]⟩]
    let s := commanded (.sort (spadKey 0 0) (spadKey 0 64) (spadKey 0 128) 4 2) us true
    (∃ c, (s.strand s.cur).cmd 0 = some c ∧ (decide (c.ord = 0) && c.readDone && decide (c.units.filter (writable s s.cur c (fun _ => true)) = us)) = true) ∧ EngineMay s s.cur 0 .rlx ∧
      ∀ x ∈ us, x.dat ≠ none ∧ ∃ k, x.dst = some (.near k) := by
  refine ⟨⟨rfl, by decide, engine_bare (bare_commanded _ _ _) _ _, by decide, by decide⟩, some_of _ _ (by decide +kernel), engine_bare (bare_commanded _ _ _) _ _, fun x hx => ?_⟩
  rw [List.mem_singleton.1 hx]
  exact ⟨by simp, _, rfl⟩
/-- A command behind a store that is still queued. -/
theorem wit_engine_waits : let s := (commanded (.cpy 4 none none) [] false).setMe { (commanded (.cpy 4 none none) [] false).me with ord := 2, sq := [entry (spadKey 0 16) (.write [1])] }
    ¬EngineMay s s.cur 1 .rlx := by
  intro s h
  have := h.1 (entry (spadKey 0 16) (.write [1])) (by decide) (by decide)
  simp [entry] at this
theorem wit_tinv_steps : (let s := commanded (.tinv none 0 1 false []) [] false
      (∃ c, (s.strand s.cur).cmd 0 = some c ∧ decide (c.kind = .tinv none 0 1 false []) = true) ∧ s.works s.cur = true ∧ Before s s.cur 0 .system ∧ ∀ e ∈ s.cores, e.2.sent = []) ∧
    let s := commanded (.tinv (some 3) 0 0 true []) [] false
    (∃ c, (s.strand s.cur).cmd 0 = some c ∧ decide (c.kind = .tinv (some 3) 0 0 true []) = true) ∧ s.works s.cur = true ∧ ∀ e ∈ s.dies, ∀ w ∈ e.2.walks, w.num ∉ ([] : List Nat) :=
  ⟨⟨some_of _ _ (by decide +kernel), by decide, before_bare (bare_commanded _ _ _) 0 _, by decide⟩, some_of _ _ (by decide +kernel), by decide, by decide⟩
/-- A die with one walk, for an address with the tables that memory holds. -/
def walking (m : Memory) (r : List (W80 × Nat)) : State := { boot.setDie 0 { boot.die 0 with walks := [⟨1, 0, 2, 0, .copy boot.cur 0, 0, r⟩] } with mem := m }
/-- Tables in the pool: the root directory at 0 with the entry of ASID 2, four levels, and the last entry. -/
def tables (last : Nat) : Memory :=
  ((((State.reset.mem.writeL 32 (toBytes 16 (1 + 16 * 2 ^ 64))).writeL (16 * 2 ^ 16) (toBytes 16 (1 + 32 * 2 ^ 64))).writeL (32 * 2 ^ 16) (toBytes 16 (1 + 48 * 2 ^ 64))).writeL
    (48 * 2 ^ 16) (toBytes 16 (1 + 64 * 2 ^ 64))).writeL (64 * 2 ^ 16) (toBytes 16 last)
/-- A walk that finds no entry. -/
def absent (r : WalkRes) : Bool := match r with
  | .absent _ => true
  | _ => false
theorem absent_of (r : WalkRes) (h : absent r = true) : ∃ lv, r = .absent lv := by
  cases r <;> simp_all [absent]
/-- Room is made. -/
def made (r : RoomFor) : Bool := match r with
  | .ok _ => true
  | _ => false
theorem made_of (r : RoomFor) (h : made r = true) : ∃ b, r = .ok b := by
  cases r <;> simp_all [made]
/-- A page with its leaf in the last level, and one that is not there; with a TINV started over the page, and without. -/
theorem wit_walk : walkPage (tables (3 + 128 + 80 * 2 ^ 64)) (boot.part 0) 2 0 = .leaf (BitVec.ofNat 128 (3 + 128 + 80 * 2 ^ 64)) false ∧
    (∃ lv, walkPage (tables 0) (boot.part 0) 2 0 = .absent lv) ∧ ((walking [] []).die 0).walks[0]? = some ⟨1, 0, 2, 0, .copy boot.cur 0, 0, []⟩ ∧
    ((walking [] []).die 0).tlb.length < 32768 ∧ ((walking [] []).die 0).waits = [] ∧ (∃ r ∈ [((0 : W80), 1)], meetsRange 0 false r.1 r.2 = true) ∧ meetsRange 1 false 0 1 = false ∧
    (boot.strand boot.cur).core / 128 = 0 ∧ boot.works boot.cur = true ∧ (boot.core (boot.strand boot.cur).core).tlb = [] ∧ boot.stage = 2 := by
  refine ⟨by decide +kernel, absent_of _ (by decide +kernel), by decide, by decide, by decide, by decide +kernel, by decide +kernel, by decide, by decide, by decide, by decide⟩
theorem wit_walk_entries : ∀ x ∈ [(4, BitVec.ofNat 128 (1 + 16 * 2 ^ 64)), (0, BitVec.ofNat 128 (1 + 32 * 2 ^ 64)), (1, BitVec.ofNat 128 (1 + 48 * 2 ^ 64)), (2, BitVec.ofNat 128 (1 + 64 * 2 ^ 64)),
    (3, BitVec.ofNat 128 (3 + 128 + 80 * 2 ^ 64))], eP x.2 = true ∧ malformed x.1 x.2 = false := by decide
/-- The chunks of an overlay in far memory, all but the first sixteen read. -/
def chunks : List CUnit := (List.range 256).map (fun q => ⟨q, 0, some (.far (BitVec.ofNat 80 (16 * q))), none, 16, if q < 16 then none else some (List.replicate 16 0)⟩)
/-- An overlay load with one block to read, from an executable page: after it all is read; with one chunk picked, not all. -/
theorem wit_ovld_complete : let s := mapped (commanded (.ovld 2 1 [1]) chunks false)
    (s.strand s.cur).cmd 0 = some (command (.ovld 2 1 [1]) chunks false) ∧ s.works s.cur = true ∧ EngineMay s s.cur 0 .rlx ∧ s.me.core < 256 ∧ chunks.length = 256 * 1 ∧
    (∀ x ∈ chunks, x.len = 16 ∧ ∀ d, x.dat = some d → d.length = 16) ∧ chunks.filter (fun x => (List.range 16).contains x.unit && x.dat.isNone) = (List.range 16).map (fun q => ⟨q, 0, some (.far (BitVec.ofNat 80 (16 * q))), none, 16, none⟩) ∧
    (∀ x ∈ chunks.filter (fun x => x.dat.isNone), Claim.Joined ⟨0, 0, some (.far 0), none, 16, none⟩ x) ∧ Readable s (s.strand s.cur) (chunks.filter (fun x => x.dat.isNone)) (some ⟨0, 0, 0, false, 0x383#128, 0⟩) ∧ eX 0x383#128 = true := by
  refine ⟨rfl, by decide, engine_bare ⟨rfl, rfl, rfl, rfl⟩ _ _, by decide, by decide +kernel, fun x hx => ?_, by decide +kernel, by unfold Claim.Joined; decide +kernel, ⟨by unfold Plain; decide, by decide, fun x hx => ?_⟩, by decide⟩
  · obtain ⟨q, -, rfl⟩ := List.mem_map.1 hx
    refine ⟨rfl, fun d hd => ?_⟩
    simp only at hd
    split at hd
    · exact absurd hd (by simp)
    · rw [← Option.some.inj hd]; simp
  · have h : ∀ y ∈ chunks.filter (fun x => x.dat.isNone), pageOf (mapped (commanded (.ovld 2 1 [1]) chunks false)) ((mapped (commanded (.ovld 2 1 [1]) chunks false)).strand (commanded (.ovld 2 1 [1]) chunks false).cur) y.src =
        some ⟨0, 0, 0, false, 0x383#128, 0⟩ := by decide +kernel
    refine ⟨?_, h x hx⟩
    obtain ⟨q, -, rfl⟩ := List.mem_map.1 (List.mem_filter.1 hx).1
    exact ⟨_, rfl⟩
/-- An overlay load with all its bytes there, relaxed, and as a release with or without a store before it. -/
def overlaid (o : Ordn) (q : List SEntry) : State := with_ fun t => { t with ord := 1, sq := q, copy := { t.copy with cmds := [{ command (.ovld 2 1 [1]) ((List.range 256).map (fun q => ⟨q, 0, some (.far (BitVec.ofNat 80 (16 * q))), none, 16, some (List.replicate 16 0)⟩)) false with ord := 1, o := o }] } }
theorem wit_ovld_ready : (∀ o ∈ [Ordn.rlx, .rel], ∃ c, (overlaid o []).me.cmd 1 = some c ∧ (decide (c.ord = 1) && decide (c.o = o) && decide (c.kind = .ovld 2 1 [1]) && decide (c.units.length = 256) && c.units.all (fun x => decide (x.dat = some (List.replicate 16 0)))) = true) ∧
    ReleaseMay (overlaid .rel []) (overlaid .rel []).cur 1 ∧ ¬ReleaseMay (overlaid .rel [entry (spadKey 0 16) (.write [1])]) boot.cur 1 := by
  refine ⟨fun o ho => ?_, ⟨by simp [Loaded, Strand.loads, show ((overlaid .rel []).strand (overlaid .rel []).cur).rets = [] from rfl, show ((overlaid .rel []).strand (overlaid .rel []).cur).locks = [] from rfl],
    by simp [show ((overlaid .rel []).strand (overlaid .rel []).cur).sq = [] from rfl], by simp [show ((overlaid .rel []).core ((overlaid .rel []).strand (overlaid .rel []).cur).core).sent = [] from rfl]⟩, fun h => ?_⟩
  · simp only [List.mem_cons, List.not_mem_nil, or_false] at ho
    rcases ho with rfl | rfl <;> exact some_of _ _ (by decide +kernel)
  · exact absurd (h.2.1 (entry (spadKey 0 16) (.write [1])) (List.mem_singleton.2 rfl)) (by decide)
/-- A core with an admission load into slot 63. -/
def admitting : State := boot.setCore 0 { boot.core 0 with loads := [⟨7, 0, 63, 1, 0, [1]⟩] }
theorem wit_admission_load : ∃ l, (admitting.core 0).loads.find? (fun l => decide (l.ovid.toNat = 7)) = some l ∧ 1 ≤ l.slot ∧ l.slot + l.n ≤ 64 := ⟨_, rfl, by decide, by decide⟩
/-- A queue form of CPY whose lanes are done, of a live strand and of one that has ended. -/
def queueReady (l : Life) : State := with_ fun t => { t with life := l, ord := 1, copy := { t.copy with cmds := [{ command (.cpy 4 (some 3) none) [] true with arrived := [(0, 5)] }] } }
theorem wit_queue_entry : (∀ l ∈ [Life.ready, .gone], (∃ c, (queueReady l).me.copy.cmds.find? (fun c => decide (c.queue = some 3)) = some c ∧
      (c.readDone && c.counter.isNone && made ((queueReady l).me.makeRoom [] [] (pegsOf c.arrived.length) ((queueReady l).me.mapBytes c.arrived.map))) = true) ∧
    (queueReady l).works (queueReady l).cur = true ∧ (Tbl.get [] (queueReady l).me.q 3).length < 8) ∧ (queueReady .ready).me.life.live = true ∧ (queueReady .gone).me.life.live = false := by
  refine ⟨fun l hl => ?_, by decide, by decide⟩
  simp only [List.mem_cons, List.not_mem_nil, or_false] at hl
  rcases hl with rfl | rfl <;> exact ⟨some_of _ (fun (c : Cmd) => c.readDone && c.counter.isNone && made ((queueReady _).me.makeRoom [] [] (pegsOf c.arrived.length) ((queueReady _).me.mapBytes c.arrived.map))) (by decide +kernel),
    by decide, by decide⟩
/-- A strand parked until V119 comes back. -/
def restoring : State := with_ fun t => { t with life := .parked (.restore [119] [119, 1]), evicted := [119] }
theorem wit_restore : ∃ b, restoring.me.life = .parked (.restore [119] [119, 1]) ∧ 119 ∈ restoring.me.evicted ∧ restoring.me.restoreRoom [119, 1] ([119].filter (fun r => restoring.me.evicted.contains r)) = .ok b :=
  have ⟨b, h⟩ := made_of _ (by decide +kernel : made (restoring.me.restoreRoom [119, 1] ([119].filter (fun r => restoring.me.evicted.contains r))) = true)
  ⟨b, by decide, by decide, h⟩

/-! Banks and matrix commands. -/

/-- Bank 15 held by the frame. -/
def banked (f : Strand → Strand) : State := let s := with_ f; s.setFrame s.me.frame ((s.frame s.me.frame).setHeld 0 0x8000)
/-- Seventeen banks, one too many with bank 15 held, all the others, and none left when another request waits. -/
theorem wit_malloc : ∀ n ∈ [0, 17, 16, 15], Issues (.malloc plain 2 0 n) (banked id) ∧ popcount (((banked id).frame (banked id).me.frame).heldOn 0) = 1 ∧ ((banked id).core 0).reqs = [] := by
  intro n hn
  simp only [List.mem_cons, List.not_mem_nil, or_false] at hn
  rcases hn with rfl | rfl | rfl | rfl <;> exact ⟨issues_of _ _ (by decide), by decide +kernel, by decide⟩
theorem free_banked (b : Nat) : FreeBank (banked id) 0 b ↔ b < 15 := by
  have hp : pendingOn (banked id) 0 = [] := by decide
  constructor
  · intro h
    have h15 := h.2.1 ((banked id).me.frame, (banked id).frame (banked id).me.frame) (by decide +kernel) (by decide +kernel) (by decide +kernel)
    rcases Nat.lt_or_ge b 15 with hb | hb
    · exact hb
    · have : b = 15 := by have := h.1; omega
      subst this
      exact absurd h15 (by decide +kernel)
  · intro hb
    refine ⟨by omega, ?_, by rw [hp]; simp⟩
    have h : ∀ b ∈ List.range 15, ∀ e ∈ (banked id).frames, e.2.gone = false → ((banked id).part e.2.part).st = .live → (e.2.heldOn 0).getLsbD b = false := by decide +kernel
    exact h b (List.mem_range.2 hb)
theorem wit_enough : Enough (banked id) 0 15 ∧ ¬Enough (banked id) 0 16 := by
  refine ⟨⟨List.range 15, List.nodup_range, by simp, fun b hb => (free_banked b).2 (List.mem_range.1 hb)⟩, ?_⟩
  rintro ⟨l, hn, hl, hf⟩
  have := (List.subperm_of_subset hn (fun b hb => List.mem_range.2 ((free_banked b).1 (hf b hb)))).length_le
  simp at this
  omega
theorem wit_grant : let s := (banked id).setCore 0 { (banked id).core 0 with reqs := [⟨(banked id).cur, 15, 2⟩] }
    ∃ r, (s.core 0).reqs = r :: [] ∧ (s.strand r.sid).core = 0 := ⟨_, rfl, by decide⟩
theorem wit_mfree : let s := banked fun t => { t with sr := [(1, 0x8000), (2, 1)] }
    Issues (.mfree plain 1) s ∧ Issues (.mfree plain 2) s ∧ Issues (.mfree plain 0) s ∧ s.me.mxHeld < 16 :=
  ⟨issues_of _ _ (by decide), issues_of _ _ (by decide), issues_of _ _ (by decide), by decide⟩
/-- A strand set up for bank 15 with a dense tile of bit planes, with a mask of gang members. -/
def tiled (g : BitVec 16) : State := banked fun t => { t with g := g, sr := [(1, 128), (2, 0x7FF80)], v := [(1, [(0, 0), (63, 63)])], p := [(1, 0x8000000000000001)] }
/-- Its MMA. -/
def tileMma (gng : Bool) : Instr := .mma plain .bpn false gng .rlx .strand .spad 0 0 1 1 15 0 1 0 16
/-- Its B descriptor. -/
def tileB : BDesc := descriptor (tiled 0).me .bpn false .spad 0 1 0
/-- The latch of its frame and core open for those members, with the arrivals. -/
def latched (s : State) (arr : BitVec 16) (d : BDesc) : State := s.setFrame s.me.frame { s.frame s.me.frame with latch := [(0, ⟨true, 0, 5, arr, d⟩)] }
/-- No gang; the only member's arrival; the first arrival of two; no mask; a latch that is open for others, or with another B. -/
theorem wit_mma : (∀ gng ∈ [false, true], ∀ g ∈ [(0 : BitVec 16), 1, 5], Issues (tileMma gng) (tiled g) ∧ descriptor (tiled g).me .bpn false .spad 0 1 0 = tileB ∧
      mmaFault (tiled g) 0 15 tileB (aRows (tiled g).me (tileMma gng) 0 1 16) = none ∧ (tiled g).me.mxHeld < 16) ∧
    GangFault (tiled 0) tileB ∧ ¬GangFault (tiled 1) tileB ∧ ¬GangFault (tiled 5) tileB ∧ (arrived (tiled 1) tileB).arr = (arrived (tiled 1) tileB).gm ∧ (arrived (tiled 5) tileB).arr ≠ (arrived (tiled 5) tileB).gm ∧
    GangFault (latched (tiled 1) 4 tileB) tileB ∧ GangFault (latched (tiled 5) 4 BDesc.zero) tileB ∧ Issues (tileMma true) (latched (tiled 5) 4 BDesc.zero) := by
  refine ⟨fun gng hg g h => ?_, by unfold GangFault; decide +kernel, by unfold GangFault; decide +kernel, by unfold GangFault; decide +kernel, by decide +kernel, by decide +kernel, by unfold GangFault; decide +kernel,
    by unfold GangFault; decide +kernel, issues_of _ _ (by decide +kernel)⟩
  simp only [List.mem_cons, List.not_mem_nil, or_false] at hg h
  rcases hg with rfl | rfl <;> rcases h with rfl | rfl | rfl <;> exact ⟨issues_of _ _ (by decide +kernel), by decide +kernel, by decide +kernel, by decide⟩
/-- The faults of MMA: a bank not held, a format, A and B outside, A and B not aligned. -/
theorem wit_mma_faults : let s := tiled 0
    mmaFault s 0 14 tileB [] = some (.accRange, 0) ∧ mmaFault s 1 15 tileB [] = some (.accRange, 0) ∧ mmaFault s 0 15 { tileB with ty := .bf16 } [] = some (.format, 0) ∧
    mmaFault s 0 15 tileB [(3, 524288)] = some (.nearBounds, 3) ∧ mmaFault s 0 15 { tileB with sb := 524288 } [] = some (.nearBounds, 0) ∧ mmaFault s 0 15 tileB [(63, 8)] = some (.misaligned, 63) ∧
    mmaFault s 0 15 { tileB with sb := 64 } [] = some (.misaligned, 0) := by decide +kernel
/-- An arrival made twice. -/
def twice : State := latched (tiled 5) 1 tileB
theorem wit_gang_park : twice.me.life = .running ∧ ArrivalMade twice tileB ∧ (match mmaUse twice twice.me .bpn false .spad 0 0 1 1 15 0 1 0 16 with
    | .ok x => decide (x.2.2 = tileB)
    | _ => false) = true ∧ (operOf (tileMma true)).srcs.all (fun v => decide (v.code.toNat < 120)) = true ∧ twice.me.evicted = [] := by
  refine ⟨by decide, by unfold ArrivalMade; decide +kernel, by decide +kernel, by decide, by decide⟩
/-- A command of a matrix channel for a bank. -/
def mxCommand (b : Nat) (k : MKind) : MCmd := { ord := 0, gord := 0, tag := ⟨0, 0, 0, 0⟩, batch := none, bank := b, kind := k, o := .rlx, sc := .strand, insn := 0, pc := 0 }
/-- A matrix channel of 16 commands, and 32 loads outstanding. -/
def busyMx (s : State) : State := s.setMe { s.me with mx := { s.me.mx with cmds := List.replicate 16 (mxCommand 0 .mzero) } }
theorem wit_matrix : let s := tiled 0
    HoldsBank s 0 15 ∧ ¬HoldsBank s 0 14 ∧ ¬HoldsBank s 1 15 ∧ (∀ s' ∈ [s, busyMx s, resetMx s], Issues (.mzero plain 0 15) s' ∧ Issues (.mrd plain .s32 5 0 0 15 63 1) s' ∧ Issues (.mrd plain .s32 5 0 1 15 0 1) s' ∧
      Issues (.mst plain .f32 .rlx .strand .spad 1 0 0 0 15 256) s' ∧ Issues (.mst plain .f32 .rlx .strand .spad 2 0 0 0 15 256) s' ∧ Issues (.mst plain .f32 .rlx .strand .spad 1 0 0 0 15 8) s') ∧
    (s.me.s 0).toNat + (63 : BitVec 6).toNat < 64 ∧ 64 ≤ (s.me.s 1).toNat ∧ Claim.Fits (.mrd plain .s32 5 0 0 15 63 1) 5 false s ∧ Claim.Fits (.mrd plain .s32 5 0 0 15 63 1) 5 false (busyMx s) ∧
    128 + 63 * 256 + 64 * 4 ≤ nearSize s s.me .spad false ∧ nearSize s s.me .spad false < 0x7FF80 + 63 * 256 + 64 * 4 := by
  refine ⟨by unfold HoldsBank; decide +kernel, by unfold HoldsBank; decide +kernel, by unfold HoldsBank; decide +kernel, fun s' hs => ?_, by decide +kernel, by decide +kernel, fits_of _ _ _ _ (by decide +kernel),
    fits_of _ _ _ _ (by decide +kernel), by decide +kernel, by decide +kernel⟩
  simp only [List.mem_cons, List.not_mem_nil, or_false] at hs
  rcases hs with rfl | rfl | rfl <;> exact ⟨issues_of _ _ (by decide +kernel), issues_of _ _ (by decide +kernel), issues_of _ _ (by decide +kernel), issues_of _ _ (by decide +kernel), issues_of _ _ (by decide +kernel), issues_of _ _ (by decide +kernel)⟩
/-- MST with a scale that does not stand at a multiple of 128; MRD whose destination has no room. -/
theorem wit_matrix_stops : let s := (tiled 0).setMe { (tiled 0).me with f := 0x200, sr := [(1, 128), (2, 64)] }
    let t := (tiled 0).setMe { (tiled 0).me with pegquota := 1, v := (1, []) :: [] }
    Issues (.mst plain .f32 .rlx .strand .spad 1 2 0 0 15 256) s ∧ 1 ≤ fSCL s.me.f ∧ (s.me.s 2).toNat % 128 ≠ 0 ∧ Issues (.mrd plain .s32 5 0 0 15 63 0) t ∧
    (match t.me.roomFor (operOf (.mrd plain .s32 5 0 0 15 63 0)) 5 false (t.me.operMap (operOf (.mrd plain .s32 5 0 0 15 63 0))) with
      | .full => true
      | _ => false) = true :=
  ⟨issues_of _ _ (by decide +kernel), by decide +kernel, by decide +kernel, issues_of _ _ (by decide +kernel), by decide +kernel⟩
/-- A strand with one matrix command for bank 15. -/
def matrix (k : MKind) : State := banked fun t => { t with ord := 1, mx := { t.mx with cmds := [mxCommand 15 k] } }
theorem turn_matrix (k : MKind) : ∃ c, MxTurn (matrix k) (matrix k).cur c ∧ c.kind = k := by
  refine ⟨_, ⟨rfl, rfl, fun e he hl => ?_, fun _ _ => engine_bare ⟨rfl, rfl, rfl, rfl⟩ _ _⟩, rfl⟩
  have : pendingOn (matrix k) ((matrix k).strand (matrix k).cur).core = [((matrix k).cur, mxCommand 15 k)] := rfl
  rw [this, List.mem_singleton] at he
  subst he
  exact absurd hl (by simp)
/-- One piece of 16 bytes, read or not. -/
def piece (d : Option (List Byte)) : Pieces := [(spadKey 0 0, d)]
/-- Every kind of command at its turn: MMA still held for its gang, with A and B to be read, with A to be read, and with both; MST before and after its scales are read, and at its last element. -/
theorem wit_commit : ∀ k ∈ [MKind.mzero, .mfree 0x8000, .mma [(0, spadKey 0 0)] tileB (some 0) false (piece none) (piece none), .mma [(0, spadKey 0 0)] tileB none true (piece none) (piece none), .mma [(63, spadKey 0 0)] tileB (some 0) true (piece none) (piece none),
    .mma [(63, spadKey 0 0)] tileB (some 0) true (piece none) (piece (some [])), .mma [(63, spadKey 0 0)] tileB (some 0) true (piece (some [])) (piece (some [])), .mrd 63 .s32 0, .mst .spad 128 256 .f32 0 0 0 (piece none) [] 0,
    .mst .spad 128 256 .f32 0 0 0 (piece (some [])) [] 4095],
    (∃ c, MxTurn (matrix k) (matrix k).cur c ∧ c.kind = k) ∧ ((matrix k).strand (matrix k).cur).twin = none ∧ ∀ e ∈ gangMembers (matrix k) 0 0, e.2.2 = true := by
  intro k hk
  refine ⟨turn_matrix k, rfl, ?_⟩
  simp only [List.mem_cons, List.not_mem_nil, or_false] at hk
  rcases hk with rfl | rfl | rfl | rfl | rfl | rfl | rfl | rfl | rfl | rfl <;> decide +kernel
theorem wit_element : tileB.fmt < 2 ∧ tileB.spn = 0 ∧ (descriptor ((tiled 0).setMe { (tiled 0).me with f := 0x7000 }).me .bpn false .spad 0 1 0).pl < 8 := by decide +kernel
theorem wit_engine : pendingOn (matrix .mzero) 0 ≠ [] ∧ manages (matrix .mzero) 0 = true ∧ (matrix .mzero).me.life.onCore = true ∧ (matrix .mzero).me.life.live = true ∧
    ((matrix .mzero).frame (matrix .mzero).me.frame).heldOn 0 ≠ 0 ∧ ((matrix .mzero).frame (matrix .mzero).me.frame).gone = false ∧ ((matrix .mzero).part 0).st = .live ∧
    ∃ p, (matrix .mzero).parts.find? (fun e => decide (e.2.st ≠ .free) && (coresOf e.2.rcd.clm).contains 0) = some p := ⟨by decide, by decide, by decide, by decide, by decide +kernel, by decide +kernel, by decide, _, rfl⟩

/-- The least value of a counter's register that is in the partition's range, and the first one outside. -/
theorem wit_dep : ∀ n ∈ [0, 15, 16], Issues (.depDec plain 0 n) (counted boot) ∧ Issues (.depAdd plain 0 n 0) (counted boot) ∧ Issues (.depRead plain 1 0 n) (counted boot) := by
  intro n hn
  simp only [List.mem_cons, List.not_mem_nil, or_false] at hn
  rcases hn with rfl | rfl | rfl <;> exact ⟨issues_of _ _ (by decide), issues_of _ _ (by decide), issues_of _ _ (by decide)⟩
/-- Queue 7 and the first number that names none; a record at the last place of the scratchpad and one past it. -/
theorem wit_spawn : Issues (.spawn plain .spad 0 0 7 524160) boot ∧ Issues (.spawn plain .spad 0 1 7 0) lanes ∧ Issues (.spawn plain .spad 0 0 0 524288) boot ∧
    (lanes.me.s 1).toNat + 7 ≥ 8 ∧ QueueOpen boot ∧ ¬QueueOpen full ∧ Issues (.spawn plain .spad 0 0 7 524160) full ∧ Issues (.depDec plain 0 0) (counted full) := ⟨issues_of _ _ (by decide), issues_of _ _ (by decide), issues_of _ _ (by decide), by decide +kernel, open_of _ (by decide), by unfold QueueOpen; decide +kernel, issues_of _ _ (by decide +kernel), issues_of _ _ (by decide +kernel)⟩
/-- Core 0 without a run, two Ready strands on it, one of AGE 64. -/
def contended (age : Nat) : State := ((boot.setMe { boot.me with life := .ready }).setStrand 9 { boot.me with life := .ready, slot := 1, age := age, readyAt := 5 }).setCore 0 { boot.core 0 with running := none }
theorem wit_arbitration : (∀ a ∈ [63, 64], ((contended a).core 0).running = none ∧ ((contended a).strands.map (·.1)).Nodup ∧ Contends (contended a) 0 9 ∧ Contends (contended a) 0 boot.cur) ∧
    (boot.setCore 0 { boot.core 0 with running := none }).strands.all (fun e => decide (e.2.life ≠ .ready)) = true := by
  refine ⟨fun a ha => ?_, by decide +kernel⟩
  have hn (s : State) (u : Nat) (h : (decide ((u, s.strand u) ∈ s.strands) && decide ((s.strand u).core = 0) && decide ((s.strand u).life = .ready)) = true) : Contends s 0 u := by
    simp only [Bool.and_eq_true, decide_eq_true_eq] at h
    exact ⟨_, h.1.1, h.1.2, h.2⟩
  simp only [List.mem_cons, List.not_mem_nil, or_false] at ha
  rcases ha with rfl | rfl <;> exact ⟨by decide +kernel, by decide +kernel, hn _ _ (by decide +kernel), hn _ _ (by decide +kernel)⟩
/-- A strand with a copy command to replay, parked for it; one that still waits for its returns under S. -/
theorem wit_replays : let s := with_ fun t => { t with life := .parked .replay, copy := { t.copy with cmds := [{ command (.cpy 4 none none) [] false with replayed := true }] } }
    Replays s.me ∧ s.me.life = .parked .replay ∧ ¬(s.me.sMark = true ∧ s.me.rets ≠ []) ∧ ¬Replays boot.me ∧ ({ awaiting.me with sMark := true }).sMark = true ∧ awaiting.me.rets ≠ [] := by
  refine ⟨⟨{ command (.cpy 4 none none) [] false with replayed := true }, List.mem_singleton.2 rfl, rfl, fun h => absurd h (by decide)⟩, by decide, by decide, ?_, by decide, by decide⟩
  rintro ⟨c, hc, -⟩
  rw [show boot.me.copy.cmds = [] from rfl] at hc
  exact absurd hc (by simp)
/-- A partition with a launch queue 7 in the state given. -/
def queueAt (x : LQueue) : State := boot.setPart 0 { boot.part 0 with queues := [(7, x)] }
/-- A record: overlay 1, entry 0, 1 strand, extent 16, 1 frame. -/
def simple : TaskRec := BitVec.ofNat 1024 (2 ^ 14 + 2 ^ 76 + 15 * 2 ^ 164)
theorem wit_record : Claim.RecordFits (boot.part 0) simple ∧ recPrv simple = false ∧ ¬Claim.RecordFits (boot.part 0) 0 := by
  refine ⟨⟨by decide +kernel, by decide +kernel, by decide +kernel, by decide +kernel, by decide +kernel, by decide +kernel, by decide +kernel, by decide +kernel, by unfold Claim.Inside; decide +kernel, fun h => absurd h (by decide +kernel),
    fun h => absurd h (by decide +kernel), fun h => absurd h (by decide +kernel)⟩, by decide +kernel, fun h => ?_⟩
  exact absurd h.overlay (by decide +kernel)
theorem wit_queue : (let x := (queueAt { LQueue.zero with tail := 1 }).part 0 |>.queue 7
      x.halt = false ∧ x.stage = .fresh ∧ x.head ≠ x.tail) ∧ (((queueAt { LQueue.zero with stage := .waiting true }).part 0).queue 7).stage = .waiting true ∧
    (((queueAt { LQueue.zero with stage := .satisfied, cur := simple }).part 0).queue 7).stage = .satisfied ∧ recFc simple = 1 ∧ recFc 0 = 0 := by decide +kernel
/-- The launch of that record, its one frame still to place. -/
def launched (r : TaskRec) : State := (with_ fun t => { t with pegquota := 16 }).setPart 0 { boot.part 0 with queues := [(0, { LQueue.zero with tail := 1, stage := .launched 100, cur := r })], launches := [(100, ⟨r, 1, 1, 0, 0, some 0, none, false, none⟩)] }
theorem wit_admission : nextQueue (launched simple) 0 0 = some 0 ∧ (((launched simple).part 0).queue 0).stage = .launched 100 ∧ admissible (launched simple) 0 simple 0 0 = true ∧
    ((launched simple).part 0).rcd.brace = false ∧ recSv simple = false := by decide +kernel
/-- A record whose successor record is all zeros. -/
def followed : TaskRec := simple ||| BitVec.ofNat 1024 (2 ^ 283)
theorem wit_successor_record : nextQueue (launched followed) 0 0 = some 0 ∧ admissible (launched followed) 0 followed 0 0 = true ∧ recSv followed = true ∧
    BitVec.ofNat 1024 (Claim.little ((launched followed).mem.readN (windowKey ((launched followed).part 0) (recSucc followed)) 128)) = (0 : TaskRec) := by decide +kernel
/-- A frame that has ended and waits for its successor. -/
def ended : State := let f := boot.me.frame; (boot.setMe { boot.me with life := .gone }).setFrame f { boot.frame f with strands := [], waitsSucc := true, record := simple, cores := [0], bases := [0] }
theorem wit_successor : let f := boot.me.frame
    (ended.part 0).st = .live ∧ (ended.frame f).twin = none ∧ (ended.frame f).shadow = false ∧ (ended.frame f).strands = [] ∧ (ended.frame f).gone = false ∧ (ended.frame f).waitsSucc = true ∧
      (∀ e ∈ ended.strands, e.2.frame = f → e.2.sq = [] ∧ ∀ x ∈ (ended.core e.2.core).sent, x.sid ≠ e.1) ∧
      (∀ x ∈ (ended.frame f).cores.zipIdx, coreTakes ended simple (strandsOn simple x.2).length x.1 = true) ∧ (backingFor ended 0 simple (recStrands simple)).isSome = true := by decide +kernel

/-- A partition with expert entry 0 in the state given, under key 5, room for one descriptor and one frame of 4,096 bytes. -/
def expert (st : ErtSt) : State := boot.setPart 0 { boot.part 0 with
  rcd := { (boot.part 0).rcd with ecnt := 1, dq := 1, fsz := 2048, nfr := 1 }, ert := [(0, { Ert.zero with st := st, valid := true, key := 5, t := 1 })] }
/-- With the key in S1, a count in S2, more than 32 bits in S3. -/
def keyed (st : ErtSt) : State := (expert st).setMe { (expert st).me with sr := [(1, 5), (2, 65536), (3, 0x100000000), (4, 65537)], v := [(4, [(0, 5), (1, 6)])] }
theorem wit_expert : ∀ st ∈ [ErtSt.absent, .filling, .resident, .evicting, .pinned], Issues (.xdisp plain .rlx .strand 6 1 0 2) (keyed st) ∧
    Before (keyed st) (keyed st).cur (keyed st).me.ord .device ∧ ((keyed st).part 0).findKey 5 = some 0 ∧ (((keyed st).part 0).entry 0).st = st ∧
    Issues (.xctlSetbias plain 6 1 0) (keyed st) ∧ Issues (.xctlFlip plain 6) (keyed st) ∧ Issues (.xctlRepl plain 6 1 0) (keyed st) ∧ Issues (.xctlPin plain 6 1 true) (keyed st) ∧
    Issues (.xctlEvict plain 6 1) (keyed st) ∧ Issues (.xctlDone plain 6 1) (keyed st) := by
  intro st hs
  simp only [List.mem_cons, List.not_mem_nil, or_false] at hs
  rcases hs with rfl | rfl | rfl | rfl | rfl <;>
    exact ⟨issues_of _ _ (by decide), before_bare ⟨rfl, rfl, rfl, rfl⟩ _ _, by decide +kernel, by decide +kernel, issues_of _ _ (by decide), issues_of _ _ (by decide), issues_of _ _ (by decide), issues_of _ _ (by decide),
      issues_of _ _ (by decide), issues_of _ _ (by decide)⟩
theorem wit_expert_operands : Claim.Wide ((keyed .absent).me.s 3) ∧ ¬Claim.Wide ((keyed .absent).me.s 1) ∧ ((keyed .absent).me.s 2).toNat = 65536 ∧ ((keyed .absent).me.s 4).toNat = 65537 ∧
    0 ∈ coresOf ((keyed .absent).part 0).rcd.clm ∧ 8 ∉ coresOf ((keyed .absent).part 0).rcd.clm ∧ ((keyed .absent).part 0).findKey 6 = none := by unfold Claim.Wide; decide +kernel
theorem wit_snap : Issues (.xctlSnap plain .spad 0 0 1023) boot ∧ 4 * ((1023 : BitVec 10).toNat + 1) ≤ nearSize boot boot.me .spad false ∧ Issues (.xctlClose plain true) boot :=
  ⟨issues_of _ _ (by decide), by decide +kernel, issues_of _ _ (by decide)⟩
theorem wit_xbias : let i := Instr.xbias plain 6 4 0
    WellFormed true i = true ∧ Issues i (keyed .resident) ∧ Claim.Fits i 6 false (keyed .resident) := ⟨by decide +kernel, issues_of _ _ (by decide), fits_of _ _ _ _ (by decide +kernel)⟩
/-- Behind a store that is not performed, an expert instruction waits; so does DONE behind a load. -/
theorem wit_expert_waits : let s := (keyed .resident).setMe { (keyed .resident).me with ord := 1, sq := [entry (spadKey 0 16) (.write [1])] }
    Issues (.xctlFlip plain 6) s ∧ ¬Before s s.cur s.me.ord .device ∧ let t := (keyed .resident).setMe { (keyed .resident).me with ord := 1, rets := awaiting.me.rets }
    Issues (.xctlDone plain 6 1) t ∧ ∃ r ∈ t.me.rets, r.kind = .ld ∨ r.kind = .lds := by
  refine ⟨issues_of _ _ (by decide), fun h => ?_, issues_of _ _ (by decide), awaiting.me.rets.head (by decide), by decide +kernel, .inr (by decide)⟩
  exact absurd (h.2.1 (entry (spadKey 0 16) (.write [1])) (by decide)) (by decide)
/-- A strand parked at an XPULL, with the descriptors ready. -/
def pulling (l : List Desc) (closed : Bool) : State := let s := keyed .resident
  (s.setMe { s.me with life := .parked (.xpull 0) }).setPart 0 { s.part 0 with pulls := [s.cur], ready := l, closed := closed }
theorem wit_pull : Issues (.xpull plain 1 2 3 4) (keyed .resident) ∧ (keyed .resident).me.rets.length < 32 ∧ (∀ s ∈ [pulling [⟨5, 0, 1, false⟩] false, pulling [⟨5, 0, 1, true⟩] false, pulling [] true, pulling [] false],
    (s.part 0).pulls = [s.cur] ∧ (s.strand s.cur).life = .parked (.xpull 0) ∧ (s.strand s.cur).twin = none ∧ (s.part 0).findKey 5 = some 0 ∧ ∀ e ∈ (s.part 0).ert, e.2.waiters = []) :=
  ⟨issues_of _ _ (by decide), by decide, by decide +kernel⟩
theorem wit_deferred : let s := (expert .filling).setPart 0 { (expert .absent).part 0 with deferred := [0] }
    (s.part 0).deferred = 0 :: [] ∧ (s.part 0).framesFree = [0] := by decide +kernel
/-- A die TLB that holds the pages of an expert at far address 0. -/
def fetched : State := (expert .filling).setDie 0 { (expert .filling).die 0 with tlb := [⟨0, 0, 0, true, 0x83#128, 0⟩] }
theorem wit_fill : let p := fetched.part 0
    fetched.stage ≠ 0 ∧ ({ fetched with stage := 0 } : State).stage = 0 ∧ (p.entry 0).st = .filling ∧ (p.entry 0).defer = false ∧ (∀ k ∈ p.takes, k.1 ≠ 0) ∧
      (fillPages (p.entry 0) (expertLen (p.entry 0) (p.entry 0).fpl.toNat)).map (fun a => (fetched.die (vaultDie (p.vaultAt (p.entry 0).vcopy))).tlb.find? (fun y => y.hits 0 p.rcd.fasid (vpnOf a))) =
        (fillPages (p.entry 0) (expertLen (p.entry 0) (p.entry 0).fpl.toNat)).map (fun _ => some ⟨0, 0, 0, true, 0x83#128, 0⟩) ∧ eRd 0x83#128 = true ∧ eBk 0x83#128 ≠ 2 := by decide +kernel
theorem wit_entry_events : (((expert .evicting).part 0).entry 0).st = .evicting ∧ (((expert .evicting).part 0).entry 0).rbusy = false ∧ (((expert .evicting).part 0).entry 0).waiters = [] ∧
    ((let s := expert .resident; s.setPart 0 ((s.part 0).setEntry 0 { (s.part 0).entry 0 with rbusy := true })).part 0 |>.entry 0).rbusy = true ∧
    ((expert .absent).part 0).rcd.ebase ≤ 0 ∧ 0 < ((expert .absent).part 0).rcd.ebase + ((expert .absent).part 0).rcd.ecnt ∧ (((expert .absent).part 0).entry 0).st = .absent ∧ boot.stage = 2 ∧ ((expert .absent).part 0).st ≠ .free ∧
    ({ (expert .resident).part 0 with rcd := { (boot.part 0).rcd with ecnt := 1 } } : Part).victim = some 0 := by decide +kernel

/-- Accesses of the host and of a peer: inside, at the end, and outside; an exported scratchpad. -/
theorem wit_access : windowSize (boot.part 0) = 16 * 2 ^ 25 ∧ Claim.Backs (boot.part 0) (16 * 2 ^ 25 - 4) 4 ∧ ¬Claim.Backs (boot.part 0) (16 * 2 ^ 25 - 3) 4 ∧
    Claim.Backs (boot.part 0) (2 ^ 40 + 2 ^ 19 * 7 + 2 ^ 19 - 4) 4 ∧ (boot.part 0).st = .live ∧ (boot.part 1).st = .free ∧ boot.stage = 2 ∧ ({ boot with stage := 1 } : State).stage ≠ 2 ∧
    Served boot 0 ∧ ¬Served boot 1 := by unfold Claim.Backs Served; decide +kernel
/-- The partition frozen. -/
def frozen : State := boot.setPart 0 { boot.part 0 with st := .frozen, saved := (coresOf 1).map (fun c => (c, boot.core c)), freezing := true }
theorem wit_frozen_access : (frozen.part 0).st = .frozen ∧ Claim.Backs (frozen.part 0) (2 ^ 40) 1 := by unfold Claim.Backs; decide +kernel
/-- Record queues with one record held back, and room for two; the other queue in use. -/
def recorded : State := boot.setPart 0 { boot.part 0 with rcd := { (boot.part 0).rcd with rv := 16 }, absentQ := ⟨0, 1, 0, 0, [1]⟩, eventQ := ⟨0, 1, 1, 0, []⟩ }
theorem wit_cons : ((recorded.part 0).absentQ).held ≠ [] ∧ ({ (recorded.part 0).absentQ with cons := 0 } : RecQ).placed (recorded.part 0) = true ∧ ((recorded.part 0).eventQ).held = [] ∧
    ((recorded.part 0).eventQ).prod ≠ ((recorded.part 0).eventQ).cons ∧ ((recorded.part 0).absentQ).prod = ((recorded.part 0).absentQ).cons ∧ ((boot.part 0).absentQ).held = [] ∧ Served recorded 0 := by unfold Served; decide +kernel
/-- A launch queue that is halted, and one that is not. -/
theorem wit_head_write : ((queueAt { LQueue.zero with halt := true, tail := 1 }).part 0 |>.queue 7).halt = true ∧ ((boot.part 0).queue 7).halt = false ∧ Served (queueAt LQueue.zero) 0 := by unfold Served; decide +kernel
/-- A signal met before, and its tag. -/
theorem wit_signal : let s := counted (boot.setPart 0 { boot.part 0 with signalTags := [(3, 9)] })
    (3, 9) ∈ (s.part 0).signalTags ∧ (s.part 0).rcd.cbase ≤ 15 ∧ 15 < (s.part 0).rcd.cbase + (s.part 0).rcd.ccnt ∧ (s.part 0).st ≠ .free ∧ s.stage ≠ 0 := by decide
/-- A signal that waits for a credit of its port. -/
def signalling : State := { boot with signals := [⟨0, 3, 2, ⟨0, 0, 0, 0⟩, 3, 0⟩], creditsUsed := [(Config.peerLink 0 0 3, Config.portCredits)] }
theorem wit_credit : signalling.signals = [] ++ ⟨0, 3, 2, ⟨0, 0, 0, 0⟩, 3, 0⟩ :: [] ∧ Tbl.get 0 signalling.creditsUsed (Config.peerLink 0 0 3) = Config.portCredits ∧ Config.peerLink 0 0 3 < 8 ∧
    Config.portCredits - 1 < Config.portCredits ∧ boot.signals = [] :=
  ⟨rfl, by simp [signalling, Tbl.get], by have := (Config.peerPort 0 3).isLt; unfold Config.peerLink; omega, by unfold Config.portCredits; omega, rfl⟩
theorem wit_window : ¬(boot.class3At + 1024 ≤ (boot.die 0).all) ∧ (boot.setDie 0 { boot.die 0 with all := 1024 }).class3At + 1024 ≤ ((boot.setDie 0 { boot.die 0 with all := 1024 }).die 0).all := by decide +kernel

/-! Partitions and resets. -/

theorem locals_of (clm : W32) (r : PartRecord) (h : (coresOf clm).all (fun c => decide (2 * c ∈ r.win.drop (r.win.length - r.rv)) && decide (2 * c + 1 ∈ r.win.drop (r.win.length - r.rv))) = true) : LocalsReserved clm r := by
  intro c hc v hv
  have := List.all_eq_true.1 h c hc
  simp only [Bool.and_eq_true, decide_eq_true_eq] at this
  rcases hv with rfl | rfl
  · exact this.1
  · exact this.2
/-- A record for partition 1: cluster 1 with its 16 vaults reserved for its cores. -/
def second : PartRecord := { freeRecord with clm := 2, win := (List.range 16).map (· + 16), rv := 16, ccnt := 16, ebud := 1 }
theorem wit_create : Manages boot 0 ∧ fitRecord second = second ∧ CreateFits boot 1 second ∧ ¬CreateFits boot 0 second ∧ ¬CreateFits boot 32 second ∧ ¬CreateFits boot 1 (boot.part 0).rcd ∧
    ¬Answers boot 33 ∧ Answers boot 1 ∧ ¬Manages boot 1 ∧ ¬Manages { boot with stage := 1 } 0 ∧ Answers { boot with stage := 1 } 0 := by
  refine ⟨by unfold Manages; decide, by decide +kernel, ⟨by decide, by decide +kernel, ?_, by decide, by decide, by decide, by decide +kernel, ?_, by decide, ?_, by decide, ?_, locals_of _ _ (by decide +kernel), ?_, by decide +kernel,
    by decide +kernel, by decide +kernel⟩, fun h => absurd h.2.1 (by decide +kernel), fun h => absurd h.1 (by decide), ?_, by unfold Answers; decide, by unfold Answers; decide, by unfold Manages; decide, by unfold Manages; decide,
    by unfold Answers; decide⟩
  · unfold Claim.Disjoint; decide +kernel
  · unfold Claim.Disjoint; decide +kernel
  · unfold Claim.Disjoint Apart; decide +kernel
  · unfold Claim.Disjoint Apart; decide +kernel
  · exact ⟨by decide, .inl rfl, fun _ _ _ _ => .inl rfl, .inl rfl, .inl rfl⟩
  · intro h
    exact absurd (h.2.2.1 (0, boot.part 0) (by decide +kernel) (by decide) (by decide +kernel)) (by decide +kernel)
theorem wit_destroy : (boot.part 0).st ≠ .free ∧ (frozen.part 0).st = .frozen ∧ (boot.part 31).st = .free ∧ Manages frozen 0 := by unfold Manages; decide +kernel
theorem wit_preempt : (boot.part 0).st = .live ∧ (∀ (e : Nat × Core), e ∈ boot.cores → e.2.sent = []) ∧ (∀ (e : Nat × Strand), e ∈ boot.strands → e.2.part = 0 → e.2.twin = none) ∧
    (∀ (f : Nat × Frame), f ∈ boot.frames → f.2.part = 0 → discards boot f.2 = false) ∧ (frozen.part 0).freezing = true ∧ (boot.part 0).freezing = false ∧ (frozen.part 0).st ≠ .live := by decide +kernel
/-- The partition frozen with its strand; the local vaults of clusters 0 and 1 are reserved. -/
def asleep : State := let s := frozen.setMe { frozen.me with life := .frozenReady }
  s.setPart 0 { s.part 0 with rcd := { (s.part 0).rcd with win := List.range 32, rv := 32 } }
theorem wit_resume : Manages asleep 0 ∧ ResumeFits asleep 0 2 ∧ ¬ResumeFits asleep 0 3 ∧ (asleep.part 0).saved.map (·.1) = coresOf 1 ∧ (coresOf 2)[0]? = some 8 ∧ (coresOf 1).Nodup ∧ asleep.me.life ≠ .gone ∧ (asleep.part 0).rcd.shadowbase < 2 ^ 25 ∧
    (∀ (f : Nat × Frame), f ∈ asleep.frames → f.2.part = 0 → f.2.reborn = []) := by
  refine ⟨by unfold Manages; decide, ⟨by decide, by decide +kernel, by decide +kernel, by unfold Claim.Disjoint; decide +kernel, locals_of _ _ (by decide +kernel), by decide +kernel⟩, fun h => absurd h.2.2.1 (by decide +kernel), by decide +kernel,
    by decide +kernel, by decide +kernel, by decide +kernel, by decide +kernel, by decide +kernel⟩
theorem wit_resets : Answers boot 0 ∧ Answers boot 1 ∧ boot.powered = true ∧ State.reset.powered = false ∧ ({ boot with stage := 0 } : State).stage = 0 ∧ ¬Answers State.reset 0 ∧ (asleep.part (asleep.strand asleep.cur).part).st = .frozen := by
  unfold Answers; decide +kernel
/-- A minimum version fused, and images below and at it; stages 1 and 2. -/
theorem wit_stage : (∀ v ∈ [(2 : BitVec 16), 3], ∃ r : StageResult, r.fail = 0 ∧ r.version = v ∧ ({ boot with stage := 0, fused := 3 } : State).powered = true) ∧ ({ boot with stage := 1 } : State).stage = 1 ∧ 2 ≤ boot.stage :=
  ⟨fun v _ => ⟨⟨0, v, 4, [], [], [], [], []⟩, rfl, rfl, by decide +kernel⟩, rfl, by decide⟩

/-! The lantern, energy, clocks and errors. -/

theorem wit_lantern : Claim.Names 0 31 ∧ Claim.Names 1 0 ∧ ¬Claim.Names 1 1 ∧ ¬Claim.Names 0 32 ∧ (boot.part 0).st ≠ .free ∧ boot.stage = 2 ∧ Answers { boot with stage := 1 } 0 ∧ ¬Answers State.reset 0 ∧
    recordNumbers .live second = recordNumbers .live second := by
  unfold Claim.Names Answers; decide +kernel
/-- Die 0 after so many master cycles. -/
def aged (n : Nat) : State := boot.setDie 0 { boot.die 0 with all := n, cycle := BitVec.ofNat 64 n, refreshDue := decide (n = 2 ^ 20) }
theorem wit_epoch : (aged (2 ^ 20)).epochAt + 2 ^ 20 ≤ ((aged (2 ^ 20)).die 0).all ∧ ¬((aged (2 ^ 20)).readingAt + 2 ^ 30 ≤ ((aged (2 ^ 20)).die 0).all) ∧ ((aged (2 ^ 20 - 1)).die 0).all < (aged (2 ^ 20 - 1)).epochAt + 2 ^ 20 ∧
    (aged (2 ^ 30)).readingAt + 2 ^ 30 ≤ ((aged (2 ^ 30)).die 0).all ∧ ((aged (2 ^ 20)).die 0).refreshDue = true ∧ (boot.parts.map (·.1)).Nodup := by decide +kernel
theorem wit_shares : (([none, some 0] : List (Option Nat)).map (weightFor boot)).sum ≠ 0 ∧ ([none, some 0] : List (Option Nat)).Nodup := by decide +kernel
theorem wit_clock : ((boot.setDie 1 { boot.die 1 with droop := 1 }).die 1).droop = 1 ∧ ((boot.setDie 1 { boot.die 1 with droop := 2, all := 1 }).die 1).all % 2 = 1 ∧ (boot.die (31 / 16)).all % 16 = 0 ∧
    (boot.die 1).refreshDue = false ∧ (boot.die 0).all < boot.epochAt + 2 ^ 20 ∧ (boot.die 0).all < boot.class3At + 1024 := by decide +kernel
/-- Units under self-test: a lane of a core, whose spare is used or not, and a row of a vault that no partition owns. -/
def tested (spare : Bool) : State := { boot.setCore 0 { boot.core 0 with spareUsed := spare } with testing := [.lane 0 5, .vaultRow 511 0] }
theorem wit_error : (boot.strand boot.cur).life.live = true ∧ (boot.part (boot.strand boot.cur).part).st = .live ∧ (boot.parts.map (·.1)).Nodup ∧
    Claim.Owns boot (.lane 0 5) none 0 ∧ HwUnit.lane 0 5 ∈ (tested true).testing ∧ ((tested true).core 0).spareUsed = true ∧ ((tested false).core 0).spareUsed = false ∧
    HwUnit.vaultRow 511 0 ∈ (tested false).testing ∧ 511 ∉ ((tested false).part 0).rcd.win ∧ accessPcs awaiting awaiting.cur 0 ≠ [] := by unfold Claim.Owns; decide +kernel
/-- Two braced copies at a comparison point, the second copy's signature given, so many mismatches before; the first holds a write. -/
def braced (sig : W64) (misses : Nat) : State :=
  let a := { boot.me with life := .parked .brace, twin := some 9, misses := misses, held := [(windowKey (boot.part 0) 0, [1])] }
  (boot.setMe a).setStrand 9 { a with twin := some boot.cur, shadow := true, core := 8, sig := sig, held := [] }
theorem wit_brace : ∀ s ∈ [braced 0 0, braced 1 0, braced 1 1], s.me.twin = some 9 ∧ s.cur ≠ 9 ∧ s.me.shadow = false ∧ s.works s.cur = true ∧
    s.me.life = .parked .brace ∧ (s.strand 9).life = .parked .brace ∧ s.me.sq = [] ∧ (s.strand 9).sq = [] ∧ (s.core s.me.core).sent = [] ∧
    (Tbl.get Strand.blank s.ckpts s.cur).life = .gone ∧ (Tbl.get Strand.blank s.ckpts 9).life = .gone := by decide +kernel
/-- A record queue that is open, at its last place and empty, and one that is not placed. -/
theorem wit_record_queue : let p := recorded.part 0
    windowSize p - 2 ^ 25 * p.rcd.rv ≤ p.eventQ.qbase ∧ p.eventQ.qbase + 32 * 2 ^ p.eventQ.qsz ≤ windowSize p ∧ (p.eventQ.prod - p.eventQ.cons).toNat < 2 ^ p.eventQ.qsz ∧ (7 : BitVec 256).extractLsb' 32 32 = 0 ∧
      ¬(windowSize (boot.part 0) - 2 ^ 25 * (boot.part 0).rcd.rv ≤ (boot.part 0).eventQ.qbase) := by decide +kernel

/-! Fetch and memory. -/

/-- The word of NOP at the PC, and FILL there. -/
def fetching (w : Nat) : State := { boot with mem := boot.mem.writeL (codeKey 0 1 0) (toBytes 16 w) }
theorem wit_fetch : Claim.Turn boot boot 0 ∧ (boot.core 0).running = some boot.cur ∧ boot.me.slotEnd = none ∧ Claim.Located boot boot.me boot.me.pc 1 8 ∧
    ¬Claim.IsFill (fetching 0) (Claim.wordKey 0 1 boot.me.pc) ∧ Claim.IsFill (fetching 0xFFFFFFFF) (Claim.wordKey 0 1 boot.me.pc) ∧
    (boot.me.pc.leaves 8) = false ∧ Claim.Located boot boot.me (boot.me.pc.plus 8) 1 8 := by
  refine ⟨.inl ⟨by decide, by decide, rfl⟩, by decide, by decide, ?_, ?_, ?_, by decide, ?_⟩
  · unfold Claim.Located; decide +kernel
  · unfold Claim.IsFill; decide +kernel
  · unfold Claim.IsFill; decide +kernel
  · unfold Claim.Located; decide +kernel
/-- A slot still loading, an overlay replaced, the end of a slot, a core without a run, and an agenda. -/
theorem wit_fetch_stops : (let s := boot.setCore 0 ((boot.core 0).setSlot 1 { (boot.core 0).slot 1 with st := .loading })
      ∃ j, (s.core s.me.core).slotAt s.me.pc = some j ∧ ((s.core s.me.core).slot j).st = .loading) ∧
    (boot.core 0).slotAt { boot.me.pc with gen := 9 } = none ∧ (boot.setMe { boot.me with slotEnd := some boot.me.pc }).me.slotEnd = some boot.me.pc ∧ ((contended 0).core 0).running = none ∧
    Claim.Turn { boot with agenda := [.core 5] } boot 5 ∧ isEvent (.masterCycle 0) = true :=
  ⟨⟨1, by decide, by decide⟩, by decide +kernel, by decide +kernel, by decide +kernel, .inr ⟨[], by decide +kernel, by decide +kernel⟩, by decide +kernel⟩
/-- Words that decode, and one that raises a fault. -/
theorem wit_fetch_decodes : ((fetching 0).core 0).running = some (fetching 0).cur ∧ (∃ x, (decode true 8 (BitVec.ofNat 128 0x0000080080C18200)).toOption = some x) ∧
    (decode true 8 (BitVec.ofNat 128 0x0000080080C181F0)).toOption = none := by
  refine ⟨by decide, ?_, by decide⟩
  have ⟨x, h, _⟩ := some_of (decode true 8 (BitVec.ofNat 128 0x0000080080C18200)).toOption (fun _ => true) (by decide)
  exact ⟨x, h⟩
theorem wit_step_form : State.Inv (fetching 1) ∧ WellFormed true (.nop plain 0) = true ∧ isEvent (.nop plain 0) = false ∧ ∃ t, step boot = .next t := ⟨by unfold State.Inv; decide +kernel, by decide, by decide, _, (rfl : step boot = .next _)⟩

/-! One step each; the expected values are those of the spec's worked examples, or computed by hand from the rule named. -/

/-- What a property of the issuing strand is after an instruction has completed. -/
def after {α : Type} (i : Instr) (s : State) (f : Strand → α) : Option α := match exec i s with
  | .next t => some (f (t.strand s.cur))
  | _ => none
/-- The same for the state. -/
def then_ {α : Type} (i : Instr) (s : State) (f : State → α) : Option α := match exec i s with
  | .next t => some (f t)
  | _ => none
/-- A vector on the lanes given. -/
def onLanes (l : List (Nat × W32)) : VReg := l

/-- The example of R108: x on lanes 0 to 15, p1 where it is below 8, p2 elsewhere. -/
def split : State := with_ fun t => { t with
  v := [(1, (List.range 16).map (fun l => (l, 8))), (3, [(0, 0), (1, 7), (2, 14), (3, 5), (4, 12), (5, 3), (6, 10), (7, 1), (8, 8), (9, 15), (10, 6), (11, 13), (12, 4), (13, 11), (14, 2), (15, 9)])],
  p := [(1, 0b0101010010101011), (2, 0b1010101101010100)] }
theorem test_split_and : after (.and_ plain .b32 3 3 6 0) (split.setMe { split.me with v := [(3, (List.range 16).map (fun l => (l, BitVec.ofNat 32 (7 * l)))), (6, (List.range 16).map (fun l => (l, 15)))] }) (fun t => t.vec 3) =
    some (onLanes [(0, 0), (1, 7), (2, 14), (3, 5), (4, 12), (5, 3), (6, 10), (7, 1), (8, 8), (9, 15), (10, 6), (11, 13), (12, 4), (13, 11), (14, 2), (15, 9)]) := by decide +kernel
theorem test_split_cmp : after (.cmp plain .s32 .lt 1 2 3 1 0) (split.setMe { split.me with p := [] }) (fun t => (t.mapReg 1, t.mapReg 2)) = some (0b0101010010101011, 0b1010101101010100) := by decide +kernel
theorem test_split_red : after (.red plain .add .s32 2 3 1) split (fun t => t.s 2) = some 28 := by decide +kernel
theorem test_split_scan : after (.scan plain .addx .s32 4 3 1) split (fun t => t.vec 4) = some (onLanes [(0, 0), (1, 0), (3, 7), (5, 12), (7, 15), (10, 16), (12, 22), (14, 26)]) := by decide +kernel
theorem test_split_rank : after (.rank plain .s32 5 3 1) split (fun t => t.vec 5) = some (onLanes [(0, 0), (1, 7), (3, 5), (5, 3), (7, 1), (10, 6), (12, 4), (14, 2)]) := by decide +kernel
theorem test_split_redidx : after (.redidx fin true .s32 3 3 2) split (fun t => t.s 3) = some 0x0000000F00000009 := by decide +kernel

/-- The example of R132: 1.0 on lane 0, 2^-24 on lanes 1 to 4, with F. -/
def summing (f : W32) : State := with_ fun t => { t with f := f, sr := [(6, 0xC0)], v := [(1, [(0, 0x33800000), (1, 0x33800000), (2, 0x33800000), (3, 0x33800000), (4, 0x33800000)]), (2, [(0, 0x3F800000)]),
  (3, [(0, 0x3F800000), (1, 0x33800000), (2, 0x33800000), (3, 0x33800000), (4, 0x33800000)])] }
theorem test_sum_prange : after (.prange plain 1 0 0 5 0) boot (fun t => t.mapReg 1) = some 0b11111 := by decide +kernel
theorem test_sum_merge : after (.merge plain .b32 3 2 1 0) (summing 0) (fun t => t.vec 3) = some (onLanes [(0, 0x3F800000), (1, 0x33800000), (2, 0x33800000), (3, 0x33800000), (4, 0x33800000)]) := by decide +kernel
theorem test_sum_rne : after (.red plain .fadd .f32 2 3 0) (summing 0) (fun t => t.s 2) = some 0x3F800002 := by decide +kernel
theorem test_sum_rtz : after (.red plain .fadd .f32 3 3 0) (summing 0x40) (fun t => t.s 3) = some 0x3F800001 := by decide +kernel
theorem test_sum_setf : after (.setf plain 5 6 (.imm 0x80)) (summing 0x40) (fun t => (t.s 5, t.f)) = some (0x40, 0x80) := by decide +kernel

/-- R112: the sum wraps at 64 bits. -/
theorem test_sadd_wraps : after (.sadd plain 5 1 (.imm 1)) (with_ fun t => { t with sr := [(1, 0xFFFFFFFFFFFFFFFF)] }) (fun t => t.s 5) = some 0 := by decide +kernel
/-- R62: S0 discards its writes. -/
theorem test_s0_discards : after (.sadd plain 0 1 (.imm 1)) lanes (fun t => (t.s 0, t.pc.word)) = some (0, 2) := by decide +kernel
/-- R152: CALL leaves the address behind it in the LINK of its entry. -/
theorem test_call_links : after (.call plain 10) boot (fun t => (t.pc.word, (t.stack.head?.map (fun e => (e.kind, e.link.word))))) = some (10, some (.call, 2)) := by decide +kernel
theorem test_ret_returns : after (.ret plain) (with_ fun t => { t with stack := ⟨lanesBelow 16, { gen := 0, ovid := 1, word := 36 }, 0x40, .call⟩ :: t.stack }) (fun t => (t.pc.word, t.f, t.stack.length)) = some (36, 0x40, 1) := by decide +kernel
/-- R144, R145: IF leaves the lanes of the map in scope; with none it goes on at its target. -/
theorem test_if_enters : after (.if_ plain 1 5) (with_ fun t => { t with p := [(1, 0b110)] }) (fun t => (t.pc.word, t.scope)) = some (2, 0b110) := by decide +kernel
/-- R318, R320: TRAP goes to the handler with the code in TRAPCODE and the address of the next instruction in LINK. -/
theorem test_trap_enters : after (.trap plain 7) handled (fun t => (t.pc.ovid, t.pc.word, t.trapcode, t.stack.head?.map (fun e => (e.kind, e.link.word)))) = some (1, 40, 0x0000000700000015, some (.trap, 2)) := by decide +kernel
/-- R173: a byte is sign-extended when its load is performed, before it returns. -/
theorem test_load_extends : then_ (.scalarReturn boot.cur 0 0) { loading1.setMe { loading1.me with rets := loading1.me.rets.map (fun r => { r with ty := .s8, units := r.units.map (fun x => { x with val := none }) }) } with
    mem := boot.mem.write (spadKey 0 16) 0x80 } (fun t => (t.strand boot.cur).rets.map (fun r => r.units.map (·.val))) = some [[some 0xFFFFFFFFFFFFFF80]] := by decide +kernel
/-- R168: the access ends one byte past the half: NEAR-BOUNDS with no handler ends the strand. -/
theorem test_load_bounds : after (.lds plain .b32 .rlx .strand .spad 5 0 524285) boot (fun t => t.life) = some .gone := by decide +kernel
/-- R174, R239: the store waits in the queue; memory is as before. -/
theorem test_store_waits : then_ (.sts plain .b32 .rlx .strand .spad 1 0 8) lanes (fun t => (t.me.sq.map (fun e => e.units.map (fun u => (u.key, u.op))), t.mem)) =
    some ([[(spadKey 0 8, .write [0, 1, 0, 0])]], []) := by decide +kernel
/-- R183: the write reaches memory. -/
theorem test_write_arrives : then_ (.writeArrival 0 0) (under (.write [1, 2]) false) (fun t => t.mem) = some [(spadKey 0 16, 1), (spadKey 0 17, 2)] := by decide +kernel
/-- R177: MAXPK keeps the pair with the greater upper half. -/
theorem test_maxpk : then_ (.atomicStep 0 0) { under (.atom ⟨.maxpk, .b32, 0x00020001, 0, false⟩) false with mem := State.reset.mem.writeL (spadKey 0 16) [9, 0, 1, 0] } (fun t => t.mem.readN (spadKey 0 16) 4) =
    some [1, 0, 2, 0] := by decide +kernel
/-- R200: the lowest free bank, as a mask. -/
theorem test_malloc : after (.malloc plain 2 0 2) (banked id) (fun t => t.s 2) = some 3 := by decide +kernel
/-- R273, R268: an addition to a counter outside the range raises ILLEGAL-OPERAND, here without a handler. -/
theorem test_dep_range : after (.depDec plain 0 16) (counted boot) (fun t => t.life) = some .gone ∧ after (.depDec plain 0 15) (counted boot) (fun t => t.sq.map (·.kind)) = some [.dep 15 0xFFFFFFFF] := by decide +kernel
/-- R155: the last strand's EXIT ends its frame. -/
theorem test_exit : then_ (.exit plain) boot (fun t => ((t.strand boot.cur).life, (t.core 0).running, (t.frame boot.me.frame).gone)) = some (.gone, none, true) := by decide +kernel
/-- R181: two of two have arrived: the phase moves on. -/
theorem test_meet_phase : then_ (.meet plain .arr 2 3 1) pair (fun t => (((t.frame t.me.frame).point 3).phase, t.me.s 2)) = some (1, 0) := by decide +kernel
/-- R291: XDISP of an absent expert starts its fill. -/
theorem test_xdisp : then_ (.xdisp plain .rlx .strand 6 1 0 2) (keyed .absent) (fun t => (((t.part 0).entry 0).st, ((t.part 0).entry 0).rc, (t.part 0).dused, t.me.s 6)) = some (.filling, 65536, 1, 2) := by decide +kernel
/-- R263: a doorbell moves TAIL; one past 2^SZ records is counted in CFGREJ. -/
theorem test_doorbell : then_ (.tailDoorbell 0 7 1) boot (fun t => ((t.part 0).queue 7).tail) = some 1 ∧ then_ (.tailDoorbell 0 7 2) boot (fun t => (((t.part 0).queue 7).tail, (t.part 0).errs.cfgrej)) = some (0, 1) := by decide +kernel
/-- R341: a master cycle counts. -/
theorem test_cycle : then_ (.masterCycle 1) boot (fun t => ((t.die 0).cycle, (t.die 1).cycle)) = some (0, 1) := by decide +kernel
/-- R53: right after reset the word of NOP is decoded and run. -/
theorem test_first_word : (match step (State.reset.withFetchWord 64 0) with
    | .next t => some (t.strand (State.reset.withFetchWord 64 0).cur |>.pc.word)
    | _ => none) = some 2 := by decide +kernel
/-- R117: a NaN that RED merely moves becomes the canonical one. -/
theorem test_red_nan : after (.red plain .fmin .f32 2 3 0) (with_ fun t => { t with v := [(3, [(7, 0xFFC12345)])] }) (fun t => t.s 2) = some 0x7FC00000 := by decide +kernel

/-! Further cases of the statements, and words that the decoder refuses. -/

/-- What a word of four words' room decodes to, as a fault. -/
def refusal (w : Nat) : Option FetchErr := match decode true 8 (BitVec.ofNat 128 w) with
  | .ok _ => none
  | .error e => some e
/-- A SUB outside the list of RANK; a type that FENCE has no use for (R48, R53, R103, R171). -/
theorem test_decode_refuses : refusal 0x81000c103d0 = none ∧ refusal 0x81000c10bd0 = some .illegalOpcode ∧ refusal 0x10800000000660 = none ∧ refusal 0x10880000000660 = some .reservedField := by decide

/-- The first ARRIVE of two at a point of a frame with one live strand: it can no longer be met (R181). -/
theorem wit_meet_abandons : boot.me.fsize = 2 ∧ Issues (.meet plain .arr 2 3 2) boot ∧ (boot.frame boot.me.frame).strands = [boot.cur] ∧
    then_ (.meet plain .arr 2 3 2) boot (fun t => ((t.frame t.me.frame).point 3).ab) = some true :=
  ⟨by decide, issues_of _ _ (by decide), by decide +kernel, by decide +kernel⟩

/-- Room for a register that comes back: there is none while a queue register's entry fills the store, and a register with a return outstanding stands in the way. -/
def noRoom (f : Strand → Strand) : Strand := f { restoring.me with pegquota := 1, v := [(119, [(0, 1)])], q := [(3, [[(0, 5)]])] }
theorem wit_restore_stops : (match (noRoom id).restoreRoom [119, 1] [119] with
      | .full => true
      | _ => false) = true ∧
    (match ({ restoring.me with pegquota := 1, v := [(119, [(0, 1)]), (5, [(0, 1)])], written := [5, 119], bkLen := 64, rets := (returning false).me.rets.map (fun r => { r with dest := 5 }) } : Strand).restoreRoom [119, 1] [119] with
      | .wait => true
      | _ => false) = true := by decide +kernel

/-- A record whose frame count lies at byte 0 of the window, read relaxed: its word was 5 when it was published, and holds 0 now. -/
def counting : TaskRec := simple ||| BitVec.ofNat 1024 (2 ^ 108)
def published : State := boot.setPart 0 { boot.part 0 with words := [⟨0, [5, 0], 0⟩], queues := [(7, { LQueue.zero with tail := 1, stage := .satisfied, cur := counting, counts := [(0, 0, 0)] })] }
theorem wit_count : let p := published.part 0
    let x := p.queue 7
    x.stage = .satisfied ∧ x.halt = false ∧ recFcm counting = true ∧ recCw counting = false ∧ recCptr counting = 0 ∧
      ((p.noteWords published.mem).word 0).map (fun w => (w.hist[0]?, w.read)) = some (some 5, 0) ∧ then_ (.frameCountRead 0 7 (some 5)) published (fun t => (t.part 0).launches.map (fun l => l.2.count)) = some [5] := by decide +kernel

/-- The partition on two clusters in brace mode. -/
def bracedPart : State := let s := launched simple
  s.setPart 0 { s.part 0 with rcd := { (s.part 0).rcd with clm := 3, win := List.range 32, brace := true } }
theorem wit_braced_admission : owedFrames bracedPart 0 = [] ∧ (bracedPart.part 0).rcd.brace = true ∧ (∀ c ∈ [0, 8], nextQueue bracedPart 0 c = some 0) ∧ recPair simple = false ∧
    ((bracedPart.part 0).queue 0).stage = .launched 100 ∧ admissible bracedPart 0 simple 0 8 = true ∧ admissible bracedPart 0 simple 0 1 = false ∧ recSv simple = false := by decide +kernel

/-- A frame that a freeze has discarded: strand 3 is owed its birth at entry 40 of overlay 1; the slots of its core are pinned for another overlay, or not. -/
def owed (pin : BitVec 8) : State := let s := launched simple
  let f := boot.me.frame
  let s := s.setFrame f { s.frame f with strands := [], record := simple, cores := [0], bases := [0], reborn := [(3, 1 * 2 ^ 14 + 40, 0)] }
  s.setCore 0 { s.core 0 with slots := (List.range 64).map (fun j => (j, ⟨2, 0, 1, 0, pin, .loaded⟩)) }
theorem wit_owed : ∀ pin ∈ [(0 : BitVec 8), 1], let s := owed pin
    (s.part 0).st = .live ∧ ((owedFrames s 0).map (fun e => (e.1, e.2.cores.head?, canRebear s e.2)) = [(boot.me.frame, some 0, decide (pin = 0))]) ∧
      (owedFrames s 0).all (fun e => decide (s.frame e.1 = e.2)) = true := by decide +kernel

/-- A frame whose launch names a successor launch, its own SUCC unread: its frame 0 or frame 1, a good or a bad record there, its home queue halted or not. -/
def unread (fid : W32) (good halt : Bool) : State :=
  let f := ended.me.frame
  let s := ended.setFrame f { ended.frame f with record := followed, frameId := fid, launch := 100 }
  let s := s.setPart 0 { s.part 0 with launches := [(100, ⟨followed, 1, 1, 0, 1, none, none, false, none⟩)], queues := [(0, { LQueue.zero with halt := halt })] }
  if good then { s with mem := s.mem.writeL (windowKey (s.part 0) 0) (toBytes 128 simple.toNat) } else s
/-- The frame may bear its successor, whose launch has not read its own SUCC. -/
def bears (s : State) : Bool :=
  let f := s.frame ended.me.frame
  let l := (s.part 0).launch f.launch
  decide ((s.part 0).st = .live) && decide (owedFrames s 0 = []) && f.waitsSucc && !f.gone && decide (f.strands = []) && !l.succRead && recSv l.record &&
    f.cores.zipIdx.all (fun x => coreTakes s f.record (strandsOn f.record x.2).length x.1) && (backingFor s 0 f.record (recStrands f.record)).isSome
theorem wit_successor_good : bears (unread 0 true false) = true ∧ ((unread 0 true false).mem.readN (windowKey ((unread 0 true false).part 0) 0) 128) = toBytes 128 simple.toNat := by decide +kernel
theorem wit_successor_bad : bears (unread 0 false false) = true ∧ ((unread 0 false false).part 0).queue 0 = LQueue.zero := by decide +kernel
theorem wit_successor_waits : bears (unread 1 true false) = true ∧ bears (unread 0 true true) = true ∧ ((unread 1 true false).frame ended.me.frame).frameId = 1 ∧ ((unread 0 true true).part 0).queue 0 = { LQueue.zero with halt := true } := by decide +kernel

/-- Fills from a page of a peer, and from one that may not be read. -/
def fetchedBy (leaf : BitVec 128) : State := (expert .filling).setDie 0 { (expert .filling).die 0 with tlb := [⟨0, 0, 0, true, leaf, 0⟩] }
/-- The pages of the fill, all in one entry. -/
def pagesHit (s : State) (e : Tlb) : Bool :=
  let p := s.part 0
  (fillPages (p.entry 0) (expertLen (p.entry 0) (p.entry 0).fpl.toNat)).all (fun a => decide ((s.die (vaultDie (p.vaultAt (p.entry 0).vcopy))).tlb.find? (fun y => y.hits 0 p.rcd.fasid (vpnOf a)) = some e))
theorem wit_fill_peer : (((fetchedBy 0xC3#128).part 0).entry 0).st = .filling ∧ (((fetchedBy 0xC3#128).part 0).entry 0).defer = false ∧ ((fetchedBy 0xC3#128).part 0).takes = [] ∧
    pagesHit (fetchedBy 0xC3#128) ⟨0, 0, 0, true, 0xC3#128, 0⟩ = true ∧ eRd 0xC3#128 = true ∧ eBk 0xC3#128 = 2 := by decide +kernel
theorem wit_fill_unreadable : pagesHit (fetchedBy 0x03#128) ⟨0, 0, 0, true, 0x03#128, 0⟩ = true ∧ eRd 0x03#128 = false := by decide +kernel

/-- What function 0 shows without a partition; what a partition's function does not show. -/
theorem wit_shown : Claim.Shown boot 0 ∧ Claim.Shown { boot with stage := 0 } 32 ∧ ¬Claim.Shown { boot with stage := 1 } 0 ∧ ¬Claim.Shown State.reset 32 := by unfold Claim.Shown; decide

/-- A pair of which one copy waits at a comparison point and the other has its buffer full. -/
def uneven_ (sig : W64) : State := let s := braced sig 0
  s.setStrand 9 { s.strand 9 with life := .ready, held := [(windowKey (boot.part 0) 0, List.replicate 4096 0)], sq := [entry (windowKey (boot.part 0) 64) (.write [1])] }
theorem wit_brace_mixed : ∀ s ∈ [uneven_ 0, uneven_ 1], s.me.twin = some 9 ∧ s.me.shadow = false ∧ s.works s.cur = true ∧ s.me.life = .parked .brace ∧ s.me.sq = [] ∧
    bufferFull (s.strand 9) = true ∧ (s.core s.me.core).sent = [] ∧ s.me.misses = 0 := by decide +kernel

/-- An open event queue of two places, one filled, that still holds a record. -/
def holding : State := recorded.setPart 0 { recorded.part 0 with eventQ := ⟨0, 1, 1, 0, [1]⟩ }
theorem wit_record_behind : let p := holding.part 0
    p.eventQ.held ≠ [] ∧ p.eventQ.qsz ≤ 16 ∧ windowSize p - 2 ^ 25 * p.rcd.rv ≤ p.eventQ.qbase ∧ p.eventQ.qbase + 32 * 2 ^ p.eventQ.qsz ≤ windowSize p ∧
      (p.eventQ.prod - p.eventQ.cons).toNat < 2 ^ p.eventQ.qsz := by decide +kernel

/-- R122: a difference of zero from two zeros of one sign has that sign; of two signs it is +0, or -0 under RDN. -/
theorem test_fsub_zeros : (fmtF32.arith 0 false .sub 0x80000000 0x80000000, fmtF32.arith 3 false .sub 0 0, fmtF32.arith 0 false .sub 0x80000000 0, fmtF32.arith 3 false .sub 0 0x80000000) =
    (0x80000000, 0, 0, 0x80000000) := by decide +kernel
/-- R262, R355: KOK is zero at creation, whatever the record has. -/
theorem test_create_kok : ((newPart Part.free { second with kok := 0xFF }).queue 0).kok = false := by decide +kernel

end Sys2Proof.Tests
end

section
namespace Sys2Proof.Machine

/-! # The canonical form of memory (O59)

An operation of the model either leaves memory alone, which its lemma `…_mem` says, or changes it by writes, clears, copies
and filters alone, and then its lemma `…_wf` says that the canonical form is kept. An instruction passes through `issue`, whose lemma
`issue_wf` asks only that the meaning's answer be `Res.Wf`; an event answers an outcome that is `NextWf`. -/

/-! ## Folds -/

/-- A fold of steps that leave memory alone leaves it alone. -/
@[simp] theorem foldl_mem {α : Type} (f : State → α → State) (l : List α) (s : State) (hf : ∀ t a, (f t a).mem = t.mem) :
    (l.foldl f s).mem = s.mem :=
  List.foldlRecOn (motive := fun t => t.mem = s.mem) l f rfl fun t ht a _ => (hf t a).trans ht

/-- A fold of steps that keep the canonical form keeps it. -/
theorem foldl_wf {α : Type} {f : State → α → State} (hf : ∀ t a, t.mem.wf = true → (f t a).mem.wf = true) (l : List α)
    {s : State} (h : s.mem.wf = true) : (l.foldl f s).mem.wf = true :=
  List.foldlRecOn (motive := fun t => t.mem.wf = true) l f h fun t ht a _ => hf t a ht

/-- So does a fold over memory itself. -/
theorem Memory.foldl_wf {α : Type} {f : Memory → α → Memory} (hf : ∀ m a, m.wf = true → (f m a).wf = true) (l : List α)
    {m : Memory} (h : m.wf = true) : (l.foldl f m).wf = true :=
  List.foldlRecOn (motive := fun m => m.wf = true) l f h fun m hm a _ => hf m a hm

/-! ## Operations of the state that leave memory alone -/

@[simp] theorem State.modErrs_mem (s : State) (p : Nat) (f : ErrCnt → ErrCnt) : (s.modErrs p f).mem = s.mem := rfl

@[simp] theorem State.cfgRej_mem (s : State) (p : Nat) : (s.cfgRej p).mem = s.mem := by
  unfold State.cfgRej; split <;> rfl

@[simp] theorem State.carry_mem (s : State) (part link cls n : Nat) : (s.carry part link cls n).mem = s.mem := rfl

@[simp] theorem State.request_mem (s : State) (part vault n : Nat) : (s.request part vault n).mem = s.mem := rfl

@[simp] theorem State.reach_mem (s : State) (part die k n cls : Nat) : (s.reach part die k n cls).mem = s.mem :=
  (State.sameButTraffic_reach s part die k n cls).field State.mem (fun _ _ _ _ _ => rfl)

@[simp] theorem State.carryNear_mem (s : State) (part core k n cls : Nat) : (s.carryNear part core k n cls).mem = s.mem :=
  State.reach_mem ..

@[simp] theorem State.carryWindow_mem (s : State) (part die o n cls : Nat) : (s.carryWindow part die o n cls).mem = s.mem :=
  (State.sameButTraffic_carryWindow s part die o n cls).field State.mem (fun _ _ _ _ _ => rfl)

@[simp] theorem State.carryPeer_mem (s : State) (part die peer cls n : Nat) : (s.carryPeer part die peer cls n).mem = s.mem := rfl

@[simp] theorem State.signal_mem (s : State) (fn v : Nat) : (s.signal fn v).mem = s.mem := rfl

@[simp] theorem signalN_mem (fn v k : Nat) (s : State) : (signalN fn v k s).mem = s.mem := by
  induction k generalizing s with
  | zero => rfl
  | succ k ih => exact ih _

@[simp] theorem State.setEvicting_mem (s : State) (u : Nat) (t : Strand) : (s.setEvicting u t).mem = s.mem :=
  State.carryBacking_mem ..

@[simp] theorem State.makeReady_mem (s : State) (u : Nat) : (s.makeReady u).mem = s.mem := by
  simp [State.makeReady, apply_ite State.mem]

@[simp] theorem meetCheck_mem (s : State) (fu j : Nat) : (meetCheck s fu j).mem = s.mem := by
  simp [meetCheck, apply_ite State.mem]

@[simp] theorem meetCheckAll_mem (s : State) (fu : Nat) : (meetCheckAll s fu).mem = s.mem := by
  simp [meetCheckAll]

@[simp] theorem meetArrival_mem (s : State) (u j n : Nat) : (meetArrival s u j n).mem = s.mem := by
  simp [meetArrival]

@[simp] theorem meetFinish_mem (s : State) (u j : Nat) (t : BitVec 16) (x : SCode) : (meetFinish s u j t x).mem = s.mem := rfl

@[simp] theorem meetWake_mem (s : State) (u : Nat) : (meetWake s u).1.mem = s.mem := by
  unfold meetWake
  dsimp only
  repeat' split
  all_goals simp

@[simp] theorem meetWakeAll_mem (fu n : Nat) (s : State) : (meetWakeAll fu n s).mem = s.mem := by
  induction n generalizing s with
  | zero => rfl
  | succ n ih =>
    unfold meetWakeAll
    have hround : ((s.frame fu).strands.foldl (fun (a : State × Bool) u => let (b, w) := meetWake a.1 u; (b, a.2 || w)) (s, false)).1.mem
        = s.mem :=
      List.foldlRecOn (motive := fun a : State × Bool => a.1.mem = s.mem) _ _ rfl fun a ha u _ => (meetWake_mem a.1 u).trans ha
    dsimp only
    split
    · exact (ih _).trans hround
    · exact hround

@[simp] theorem abandonGang_mem (s : State) (fu c : Nat) : (abandonGang s fu c).mem = s.mem := by
  unfold abandonGang
  refine (foldl_mem _ _ _ fun t u => ?_).trans rfl
  split
  · simp [apply_ite State.mem]
  · rfl

@[simp] theorem gangCheck_mem (s : State) (u : Nat) : (gangCheck s u).mem = s.mem := by
  simp [gangCheck, apply_ite State.mem]

@[simp] theorem State.endLatches_mem (s : State) (fu : Nat) : (s.endLatches fu).mem = s.mem :=
  foldl_mem _ _ _ fun t c => by simp [apply_ite State.mem]

@[simp] theorem State.dropFrame_mem (s : State) (fu : Nat) : (s.dropFrame fu).mem = s.mem := State.endLatches_mem ..

@[simp] theorem State.releaseStrand_mem (s : State) (u : Nat) : (s.releaseStrand u).mem = s.mem := rfl

/-! ## Record queues, the kill and the fault of a strand -/

theorem recDrain_wf (p : Part) (n : Nat) (m : Memory) (q : RecQ) (h : m.wf = true) : (recDrain p n m q).1.wf = true := by
  induction n generalizing m q with
  | zero => exact h
  | succ n ih =>
    unfold recDrain
    split
    · split
      · exact ih _ _ (Memory.wf_writeL _ _ _ h)
      · exact h
    · exact h

theorem State.drainQ_wf {s : State} (p : Nat) (event : Bool) (h : s.mem.wf = true) : (s.drainQ p event).mem.wf = true := by
  simpa [State.drainQ] using recDrain_wf _ _ _ _ h

theorem State.report_wf {s : State} (p : Nat) (event : Bool) (r : BitVec 256) (h : s.mem.wf = true) :
    (s.report p event r).mem.wf = true :=
  State.drainQ_wf p event h

theorem State.kill_wf {s : State} (u : Nat) (code : W64) (pc : BitVec 54) (h : s.mem.wf = true) : (s.kill u code pc).mem.wf = true := by
  unfold State.kill
  refine State.report_wf _ _ _ ?_
  simpa [apply_ite State.mem] using h

theorem takeFault_wf {s : State} (u : Nat) (c : Code) (d : Nat) (a resume : PC) (h : s.mem.wf = true) :
    (takeFault s u c d a resume).mem.wf = true := by
  unfold takeFault
  dsimp only
  split
  · exact State.kill_wf _ _ _ h
  · simpa [apply_ite State.mem] using h

/-! ## Loads -/

@[simp] theorem carryLoad_mem (s : State) (t : Strand) (r : Ret) (x : RUnit) : (carryLoad s t r x).mem = s.mem := by
  simp [carryLoad, apply_ite State.mem]

@[simp] theorem performLoad_mem (s : State) (u : Nat) (r : Ret) (x : RUnit) : (performLoad s u r x).mem = s.mem := by
  simp [performLoad, apply_ite State.mem]

@[simp] theorem readLock_mem (s : State) (u : Nat) (r : Ret) (x : RUnit) : (readLock s u r x).mem = s.mem := by
  simp [readLock]

theorem readLocks_mem {u : Nat} {l : List (Ret × RUnit)} {s t : State} (h : readLocks u l s = some t) : t.mem = s.mem := by
  induction l generalizing s with
  | nil => cases h; rfl
  | cons e l ih =>
    unfold readLocks at h
    split at h
    · simpa using ih h
    · cases h

theorem unlock_mem {i : Instr} {s t : State} (h : unlock s i = some t) : t.mem = s.mem := readLocks_mem h

/-! ## The clearing of parks -/

@[simp] theorem handOver_mem (s : State) (fu : Nat) (r : TaskRec) : (handOver s fu r).mem = s.mem := rfl

@[simp] theorem exitNow_mem (s : State) (u : Nat) : (exitNow s u).mem = s.mem := by
  unfold exitNow
  dsimp only
  repeat' split
  all_goals simp

theorem waitFinish_wf {s : State} (u : Nat) (vis mx trp : Bool) (x : SCode) (n : W32) (pc : PC) (h : s.mem.wf = true) :
    (waitFinish s u vis mx trp x n pc).mem.wf = true := by
  unfold waitFinish
  dsimp only
  split
  · exact takeFault_wf _ _ _ _ _ h
  · simpa using h

theorem wakeOne_wf {s : State} (u : Nat) (h : s.mem.wf = true) : (wakeOne s u).mem.wf = true := by
  unfold wakeOne
  dsimp only
  split
  case h_3 => split <;> simpa using h
  case h_7 =>
    split
    · exact waitFinish_wf _ _ _ _ _ _ _ h
    · exact h
  case h_9 =>
    split
    · split
      · exact takeFault_wf _ _ _ _ _ h
      · simpa using h
    · exact h
  all_goals simpa [apply_ite State.mem] using h

theorem wakeAll_wf {s : State} (h : s.mem.wf = true) : (wakeAll s).mem.wf = true :=
  foldl_wf (fun _ _ ht => wakeOne_wf _ ht) _ h

/-! ## Issue -/

@[simp] theorem charge_mem (s : State) (w : Nat) : (charge s w).mem = s.mem := rfl

@[simp] theorem spend_mem (s0 s : State) (w : Nat) : (spend s0 s w).mem = s.mem := by
  simp [spend]

@[simp] theorem parkMe_mem (s : State) (p : Park) (m : Bool) : (parkMe s p m).mem = s.mem := rfl

@[simp] theorem endMine_mem (s : State) : (endMine s).mem = s.mem := by
  simp [endMine]

@[simp] theorem afterIssue_mem (s : State) (h : Head) : (afterIssue s h).mem = s.mem := by
  unfold afterIssue
  dsimp only
  repeat' split
  all_goals simp

@[simp] theorem takeCheckpoint_mem (s : State) : (takeCheckpoint s).mem = s.mem := by
  simp [takeCheckpoint, apply_ite State.mem]

@[simp] theorem giveShadow_mem (s0 s : State) (i : Instr) (h : Head) : (giveShadow s0 s i h).mem = s.mem := by
  unfold giveShadow
  dsimp only
  split
  · simp [apply_ite State.mem]
  · rfl

@[simp] theorem mirrorVal_mem (s : State) (u ord lane : Nat) (v : W64) : (mirrorVal s u ord lane v).mem = s.mem := by
  unfold mirrorVal
  dsimp only
  split <;> rfl

/-- A meaning's answer leaves memory in its canonical form. -/
def Res.Wf : Res → Prop
  | .done s _ | .jump s _ _ | .after s _ _ | .gone s => s.mem.wf = true
  | .trap _ _ | .stall => True

@[simp] theorem Res.wf_done (s : State) (k : Nat) : (Res.done s k).Wf ↔ s.mem.wf = true := Iff.rfl
@[simp] theorem Res.wf_jump (s : State) (pc : PC) (k : Nat) : (Res.jump s pc k).Wf ↔ s.mem.wf = true := Iff.rfl
@[simp] theorem Res.wf_after (s : State) (p : Park) (k : Nat) : (Res.after s p k).Wf ↔ s.mem.wf = true := Iff.rfl
@[simp] theorem Res.wf_gone (s : State) : (Res.gone s).Wf ↔ s.mem.wf = true := Iff.rfl
@[simp] theorem Res.wf_trap (c : Code) (d : Nat) : (Res.trap c d).Wf := trivial
@[simp] theorem Res.wf_stall : Res.stall.Wf := trivial

/-- An outcome leaves memory in its canonical form. -/
def NextWf : Host.Outcome State Fault Refusal → Prop
  | .next s => s.mem.wf = true
  | .fault _ | .refused _ => True

@[simp] theorem nextWf_next (s : State) : NextWf (.next s) ↔ s.mem.wf = true := Iff.rfl

theorem finish_wf {s : State} (hd : Head) {r : Res} (h : s.mem.wf = true) (hr : r.Wf) : (finish s hd r).mem.wf = true := by
  cases r with
  | done | after | gone => simpa [finish] using hr
  | jump => simpa [finish, apply_ite State.mem] using hr
  | stall => exact h
  | trap c d =>
    unfold finish
    dsimp only
    split
    · exact takeFault_wf _ _ _ _ _ h
    · exact takeFault_wf _ _ _ _ _ h

theorem echo_wf {s : State} (i : Instr) (vals : List W64) (h : s.mem.wf = true) : (echo s i vals).Wf := by
  unfold echo
  dsimp only
  split
  · split
    · simpa using h
    · trivial
  · simpa using h
  · split
    · simpa using h
    · trivial
  · simpa using h

theorem shadowRes_wf {s : State} (i : Instr) (own : Res) (h : s.mem.wf = true) : (shadowRes s i own).Wf := by
  unfold shadowRes
  split
  · trivial
  · split
    · exact echo_wf _ _ h
    · trivial

theorem Res.share_wf (i : Instr) {r : Res} (h : r.Wf) : (r.share i).Wf := by
  cases r with
  | done | jump =>
    unfold Res.share
    dsimp only
    split
    · exact h
    · trivial
    · split
      · trivial
      · exact h
  | _ => exact h

theorem settleRoom_wf (s : State) (i : Instr) {r : Res} (h : r.Wf) : (settleRoom s i r).Wf := by
  unfold settleRoom
  split
  · trivial
  · split
    · trivial
    · split
      · exact Res.share_wf i h
      · exact h

theorem issueNow_wf (i : Instr) (hd : Head) {s : State} {body : State → Res} (hb : ∀ t, t.mem.wf = true → (body t).Wf) (h : s.mem.wf = true) :
    (issueNow i hd s body).mem.wf = true := by
  have hc : (takeCheckpoint s).mem.wf = true := by simpa using h
  unfold issueNow
  dsimp only
  repeat' split
  · exact h
  · simpa using h
  · exact finish_wf _ hc (shadowRes_wf _ _ hc)
  · simpa using finish_wf _ hc (settleRoom_wf _ _ (hb _ hc))

/-- The issue of an instruction keeps the canonical form when its meaning does. -/
theorem issue_wf {i : Instr} {hd : Head} {s : State} {body : State → Res} (hb : ∀ t, t.mem.wf = true → (body t).Wf) (h : s.mem.wf = true) :
    NextWf (issue i hd s body) := by
  unfold issue
  split
  · exact h
  · split
    · exact h
    · next t ht => exact issueNow_wf i hd hb (by simpa [unlock_mem ht] using h)

/-! ## The shapes of an answer -/

@[simp] theorem useTag_mem (s : State) (t : Strand) : (useTag s t).mem = s.mem := rfl

@[simp] theorem reads_wf {s : State} (o : Oper) (f : Strand → List VOpd → LaneMap → Strand) (h : s.mem.wf = true) : (reads o s f).Wf := by
  unfold reads
  dsimp only
  split
  · trivial
  · exact h

@[simp] theorem writes_wf {s : State} (o : Oper) (x : VCode) (wide : Bool) (f : Strand → List VOpd → Nat → W64) (h : s.mem.wf = true) :
    (writes o x wide s f).Wf := by
  unfold writes
  dsimp only
  repeat' split
  all_goals simp [h]

theorem laneAll_wf {s : State} (i : Instr) (x : VCode) (f : List (Nat × W64) → VReg) (h : s.mem.wf = true) : (laneAll i x s f).Wf := by
  unfold laneAll
  exact writes_wf _ _ _ _ h

theorem compare_wf {s : State} (i : Instr) (x pe : MCode) (holds : Strand → W64 → W64 → Bool) (h : s.mem.wf = true) :
    (compare i x pe s holds).Wf := by
  unfold compare
  exact reads_wf _ _ h

theorem farith_wf {s : State} (i : Instr) (ty : Ty) (op : FOp) (x : VCode) (h : s.mem.wf = true) : (farith i ty op x s).Wf := by
  unfold farith lane2
  exact writes_wf _ _ _ _ h

theorem ffunc_wf {s : State} (i : Instr) (ty : Ty) (op : FFun) (x : VCode) (h : s.mem.wf = true) : (ffunc i ty op x s).Wf := by
  unfold ffunc lane1
  exact writes_wf _ _ _ _ h

@[simp] theorem enter_wf {s : State} (t : Strand) (e : SEntry) (k : Nat) (h : s.mem.wf = true) : (enter s t e k).Wf := by
  unfold enter
  split <;> simp [h]

@[simp] theorem storeAt_wf {s : State} (i : Instr) (o : Ordn) (sc : Scope) (sp : Space) (n : Nat) (a : Int) (b : List Byte) (h : s.mem.wf = true) :
    (storeAt s i o sc sp n a b).Wf := by
  unfold storeAt
  dsimp only
  split <;> simp [h]

@[simp] theorem depEnter_wf {s : State} (i : Instr) (y : SCode) (n : BitVec 10) (add : W32) (h : s.mem.wf = true) : (depEnter s i y n add).Wf := by
  unfold depEnter
  dsimp only
  split <;> simp [h]

@[simp] theorem enterCopy_wf {s : State} (t : Strand) (c : Cmd) (tags k : Nat) (h : s.mem.wf = true) : (enterCopy s t c tags k).Wf := by
  unfold enterCopy
  split
  · trivial
  · exact foldl_wf (fun _ _ ht => (useTag_mem _ _).symm ▸ ht) _ h

@[simp] theorem enterMx_wf {s : State} (t : Strand) (i : Instr) (bank : Nat) (kind : MKind) (o : Ordn) (sc : Scope) (tagged : Bool) (k : Nat)
    (h : s.mem.wf = true) : (enterMx s t i bank kind o sc tagged k).Wf := by
  unfold enterMx
  dsimp only
  split <;> simp [h, apply_ite State.mem]

@[simp] theorem xctl_wf {s : State} (x : SCode) (bad : Bool) (f : Part → Part × Nat) (h : s.mem.wf = true) : (xctl s x bad f).Wf := by
  unfold xctl ertAct
  repeat' split
  all_goals simp [h]

@[simp] theorem jumpTo_wf {s : State} (t : Strand) (off : W32) (n : Strand) (h : s.mem.wf = true) : (jumpTo s t off n).Wf := by
  unfold jumpTo
  split <;> simp [h]

@[simp] theorem leaveLanes_wf {s : State} (brk : Bool) (y : MCode) (h : s.mem.wf = true) : (leaveLanes s brk y).Wf := by
  unfold leaveLanes
  dsimp only
  repeat' split
  all_goals simp [h]

@[simp] theorem returnTo_wf {s : State} (kind : CKind) (stops : List CKind) (h : s.mem.wf = true) : (returnTo s kind stops).Wf := by
  unfold returnTo
  dsimp only
  repeat' split
  all_goals simp [h]

@[simp] theorem setPin_wf {s : State} (y : SCode) (j : BitVec 6) (f : BitVec 8 → BitVec 8) (h : s.mem.wf = true) : (setPin s y j f).Wf := by
  unfold setPin
  dsimp only
  split <;> simp [h]

theorem sregWrite_mem {s t : State} {n : SReg} {v : W64} (h : sregWrite s n v = some t) : t.mem = s.mem := by
  unfold sregWrite at h
  dsimp only at h
  split at h
  case h_8 | h_13 => cases h; rfl
  case h_14 => cases h
  all_goals
    split at h
    · cases h; rfl
    · cases h

/-! ## Writes of engines, the scheduler and the instruction store -/

theorem engineWrite_wf {s : State} (t : Strand) (k : Nat) (b : List Byte) (h : s.mem.wf = true) : (engineWrite s t k b).mem.wf = true := by
  have hk : (s.mem.writeL k b).wf = true := Memory.wf_writeL _ _ _ h
  unfold engineWrite
  dsimp only
  split
  · exact Memory.wf_writeL _ _ _ hk
  · exact hk

theorem engineSend_wf {s : State} (u : Nat) (e : SEntry) (unit k : Nat) (b : List Byte) (h : s.mem.wf = true) :
    (engineSend s u e unit k b).mem.wf = true := by
  unfold engineSend
  dsimp only
  split
  · simpa using engineWrite_wf _ _ _ h
  · exact h

@[simp] theorem State.setCounter_mem (s : State) (c : Nat) (v : W32) : (s.setCounter c v).mem = s.mem := by
  unfold State.setCounter
  dsimp only
  split
  · exact foldl_mem _ _ _ fun _ _ => rfl
  · rfl

theorem finishLoad_wf {s : State} (core slot n : Nat) (gens : List (BitVec 16)) (bytes : Nat → List Byte) (h : s.mem.wf = true) :
    (finishLoad s core slot n gens bytes).mem.wf = true := by
  refine foldl_wf (fun t k ht => ?_) _ h
  dsimp only
  split
  · exact Memory.wf_writeL _ _ _ ht
  · exact ht

theorem wakeFetch_wf {s : State} (c : Nat) (h : s.mem.wf = true) : (wakeFetch s c).mem.wf = true := by
  refine foldl_wf (fun t e ht => ?_) _ h
  split
  · exact wakeOne_wf _ ht
  · exact ht

theorem loadEntry_wf {s : State} (part core : Nat) (r : TaskRec) (h : s.mem.wf = true) : (loadEntry s part core r).mem.wf = true := by
  unfold loadEntry
  dsimp only
  repeat' split
  · exact h
  · exact wakeFetch_wf _ h
  · exact h

theorem admissionLoad_wf {s : State} (core : Nat) (l : AdmLoad) (h : s.mem.wf = true) : (admissionLoad s core l).mem.wf = true :=
  finishLoad_wf _ _ _ _ _ (by simpa using h)

@[simp] theorem bearStrand_mem (s : State) (fu i c bk : Nat) : (bearStrand s fu i c bk).mem = s.mem := by
  simp [bearStrand]

theorem loadEntries_wf {s : State} (part : Nat) (r : TaskRec) (cs : List Nat) (h : s.mem.wf = true) :
    (cs.foldl (fun s c => loadEntry s part c r) s).mem.wf = true :=
  foldl_wf (fun _ _ ht => loadEntry_wf _ _ _ ht) _ h

theorem bearFrame_wf {s : State} (fu : Nat) (backs : List Nat) (h : s.mem.wf = true) : (bearFrame s fu backs).mem.wf = true := by
  simpa [bearFrame] using loadEntries_wf _ _ _ h

/-- A scratchpad range cleared and an image written into it keep the canonical form. -/
theorem Memory.wf_clear_putCells {m : Memory} (k n : Nat) (l : List Host.Cell) (h : m.wf = true) : ((m.clear k n).putCells l).wf = true :=
  Memory.wf_putCells _ _ (Memory.wf_clear _ _ _ h)

theorem rebear_wf {s : State} (fu : Nat) (h : s.mem.wf = true) : (rebear s fu).mem.wf = true := by
  unfold rebear
  dsimp only
  rw [foldl_mem _ _ _ fun t e => by simp]
  exact loadEntries_wf _ _ _ (Memory.foldl_wf (fun _ _ hm => Memory.wf_clear_putCells _ _ _ hm) _ h)

@[simp] theorem braceUp_mem (s : State) (a b : Nat) : (braceUp s a b).mem = s.mem :=
  foldl_mem _ _ _ fun _ _ => rfl

theorem placeFrame_wf {s : State} (p key : Nat) (l : Launch) (c : Nat) (image : List (Nat × Byte)) (h : s.mem.wf = true) :
    (placeFrame s p key l c image).mem.wf = true :=
  Memory.foldl_wf (fun _ _ hm => Memory.wf_clear_putCells _ _ _ hm) _ h

@[simp] theorem State.schedRead_mem (s : State) (part o n : Nat) : (s.schedRead part o n).mem = s.mem := State.carryWindow_mem ..

@[simp] theorem State.succRead_mem (s : State) (part : Nat) (r : TaskRec) : (s.succRead part r).mem = s.mem := by
  simp [State.succRead, apply_ite State.mem]

theorem admitFrame_wf {s : State} (p key : Nat) (l : Launch) (k c shadow : Nat) (image : List (Nat × Byte)) (h : s.mem.wf = true) :
    (admitFrame s p key l k c shadow image).mem.wf = true := by
  have hb {t : State} (c a : Nat) (backs : List Nat) (ht : t.mem.wf = true) :
      (bearFrame (placeFrame t p key l c image) a backs).mem.wf = true := bearFrame_wf _ _ (placeFrame_wf _ _ _ _ _ ht)
  unfold admitFrame
  dsimp only
  rw [State.setPart_mem]
  split
  · simpa using hb _ _ _ (hb _ _ _ h)
  · exact hb _ _ _ h

theorem readmit_wf {s : State} (part core : Nat) (h : s.mem.wf = true) : (readmit s part core).mem.wf = true := by
  unfold readmit
  split
  · exact rebear_wf _ h
  · exact h

theorem execFrameAdmit_wf {s : State} (part launch core shadow : Nat) (image : List (Nat × Byte)) (h : s.mem.wf = true) :
    NextWf (execFrameAdmit part launch core shadow image s) := by
  unfold execFrameAdmit
  dsimp only
  repeat' split
  · exact readmit_wf _ _ h
  · exact h
  · exact h
  · exact admitFrame_wf _ _ _ _ _ _ _ h
  · simpa using h
  · exact admitFrame_wf _ _ _ _ _ _ _ (by simpa using h)
  · exact admitFrame_wf _ _ _ _ _ _ _ (by simpa using h)

theorem execRecordHeadCheck_wf {s : State} (part q : Nat) (h : s.mem.wf = true) : NextWf (execRecordHeadCheck part q s) := by
  unfold execRecordHeadCheck
  dsimp only
  repeat' split
  all_goals simpa using h

theorem execFrameCountRead_wf {s : State} (part q : Nat) (old : Option W32) (h : s.mem.wf = true) : NextWf (execFrameCountRead part q old s) := by
  unfold execFrameCountRead
  dsimp only
  repeat' split
  all_goals simpa [apply_ite State.mem] using h

theorem bearSuccessor_wf {s : State} (fu : Nat) (backs : List Nat) (h : s.mem.wf = true) : (bearSuccessor s fu backs).mem.wf = true :=
  bearFrame_wf _ _ h

theorem bearSuccessors_wf {s : State} (frame twin : Nat) (a b : List Nat) (h : s.mem.wf = true) :
    (if twin = frame then bearSuccessor s frame a
      else braceUp (bearSuccessor (bearSuccessor s frame a) twin b) frame twin).mem.wf = true := by
  have ha : (bearSuccessor s frame a).mem.wf = true := bearSuccessor_wf _ _ h
  split
  · exact ha
  · simpa using bearSuccessor_wf _ _ ha

theorem execSuccessorBirth_wf {s : State} (frame : Nat) (h : s.mem.wf = true) : NextWf (execSuccessorBirth frame s) := by
  unfold execSuccessorBirth
  dsimp only
  split
  · split
    · exact h
    · split
      · exact bearSuccessors_wf _ _ _ _ h
      · split
        · simpa using h
        · exact bearSuccessors_wf _ _ _ _ (by simpa using h)
  · exact h

theorem execRunArbitration_wf {s : State} (core : Nat) (h : s.mem.wf = true) : NextWf (execRunArbitration core s) := by
  unfold execRunArbitration
  dsimp only
  split
  · exact h
  · exact h

/-! ## The copy channel, walks and TLBs -/

@[simp] theorem sendSignal_mem (s : State) (x : Signal) : (sendSignal s x).mem = s.mem := by
  simp [sendSignal, apply_ite State.mem]

@[simp] theorem finishCmd_mem (s : State) (u : Nat) (c : Cmd) : (finishCmd s u c).mem = s.mem := by
  unfold finishCmd
  dsimp only
  repeat' split
  all_goals simp

@[simp] theorem settle_mem (s : State) (u ord : Nat) : (settle s u ord).mem = s.mem := by
  unfold settle
  dsimp only
  repeat' split
  all_goals simp

@[simp] theorem State.carryKeys_mem (s : State) (part core cls : Nat) (keys : List (Nat × Nat)) : (s.carryKeys part core cls keys).mem = s.mem :=
  foldl_mem _ _ _ fun _ _ => State.carryNear_mem ..

@[simp] theorem carryReads_mem (s : State) (u : Nat) (c : Cmd) (us : List CUnit) : (carryReads s u c us).mem = s.mem :=
  State.carryKeys_mem ..

theorem hotLeave_wf {s : State} (die : Nat) (e : Tlb) (h : s.mem.wf = true) : (hotLeave s die e).mem.wf = true := by
  unfold hotLeave
  dsimp only
  split
  · exact h
  · simpa using Memory.wf_putCells _ _ h

theorem hotLeaveO_wf {s : State} (die : Nat) (e : Option Tlb) (h : s.mem.wf = true) : (hotLeaveO s die e).mem.wf = true := by
  cases e with
  | none => exact h
  | some e => exact hotLeave_wf _ _ h

theorem installCopy_wf {s : State} (c : Nat) (e : Tlb) (victim : Nat) (h : s.mem.wf = true) : (installCopy s c e victim).mem.wf = true :=
  hotLeaveO_wf _ _ h

theorem installDie_wf {s : State} (d : Nat) (e : Tlb) (victim : Nat) (h : s.mem.wf = true) : (installDie s d e victim).mem.wf = true :=
  hotLeaveO_wf _ _ h

@[simp] theorem startWalk_mem (s : State) (d p : Nat) (asid : BitVec 16) (vpn : W64) (who : Asker) (cls : Nat) :
    (startWalk s d p asid vpn who cls).mem = s.mem := by
  simp [startWalk, apply_ite State.mem]

@[simp] theorem translateFill_mem (s : State) (d p e : Nat) (a : W80) : (translateFill s d p e a).1.mem = s.mem := by
  unfold translateFill
  dsimp only
  split <;> simp

theorem translate_wf {s : State} (u ord : Nat) (a : W80) (h : s.mem.wf = true) : (translate s u ord a).1.mem.wf = true := by
  unfold translate
  dsimp only
  repeat' split
  · exact h
  · exact installCopy_wf _ _ _ h
  · simpa using h

theorem farWrite_wf {m : Memory} (e : Tlb) (a : W80) (b : List Byte) (h : m.wf = true) : (farWrite m e a b).wf = true := by
  unfold farWrite
  dsimp only
  split
  · exact Memory.wf_writeL _ _ _ h
  · exact Memory.wf_write _ _ _ (Memory.wf_writeL _ _ _ (Memory.wf_clear _ _ _ h))

@[simp] theorem failPage_mem (s : State) (u ord : Nat) (vpn : W64) (code : Nat) : (failPage s u ord vpn code).mem = s.mem := by
  unfold failPage
  dsimp only
  repeat' split
  all_goals simp

@[simp] theorem endFillWaits_mem (s : State) (part e : Nat) : (endFillWaits s part e).mem = s.mem := rfl

@[simp] theorem failWalk_mem (s : State) (w : Walk) (code : Nat) : (failWalk s w code).mem = s.mem := by
  unfold failWalk
  split
  · simp
  · simp [apply_ite State.mem]

@[simp] theorem State.carryFar_mem (s : State) (part die : Nat) (e : Tlb) (a : W80) (cls n : Nat) :
    (s.carryFar part die e a cls n).mem = s.mem := by
  simp [State.carryFar, apply_ite State.mem]

@[simp] theorem carryWalk_mem (s : State) (die : Nat) (w : Walk) : (carryWalk s die w).mem = s.mem :=
  foldl_mem _ _ _ fun _ _ => rfl

theorem execWalkComplete_wf {s : State} (die idx : Nat) (poison : Bool) (vd vc : Nat) (h : s.mem.wf = true) :
    NextWf (execWalkComplete die idx poison vd vc s) := by
  unfold execWalkComplete
  dsimp only
  split
  · exact h
  · next w _ =>
    have hw : (carryWalk (s.setDie die { s.die die with walks := (s.die die).walks.eraseIdx idx }) die w).mem.wf = true := by simpa using h
    generalize carryWalk _ die w = t at hw ⊢
    have hd (e : Tlb) : (installDie t die e vd).mem.wf = true := installDie_wf _ _ _ hw
    split
    · exact wakeAll_wf hw
    · split
      · exact wakeAll_wf (by simpa using hw)
      · split
        · exact wakeAll_wf (by simpa using hw)
        · rw [nextWf_next]
          split
          · split
            · exact installCopy_wf _ _ _ (hd _)
            · exact hd _
          · exact hd _
        · split
          · exact hw
          · split
            · exact h
            · exact State.report_wf _ _ _ hw

theorem execRetry_wf {s : State} (part : Nat) (vpn : Option W64) (h : s.mem.wf = true) : NextWf (execRetry part vpn s) := by
  unfold execRetry
  dsimp only
  split
  · exact h
  · exact h

theorem dropCopyTlbs_wf {s : State} (out : Tlb → Bool) (h : s.mem.wf = true) : (dropCopyTlbs s out).mem.wf = true :=
  foldl_wf (fun _ _ ht => hotLeave_wf _ _ ht) _ h

theorem dropTlbs_wf {s : State} (out : Tlb → Bool) (h : s.mem.wf = true) : (dropTlbs s out).mem.wf = true :=
  foldl_wf (fun _ _ ht => hotLeave_wf _ _ ht) _ (dropCopyTlbs_wf out h)

theorem execTinvStart_wf {s : State} (sid ord : Nat) (h : s.mem.wf = true) : NextWf (execTinvStart sid ord s) := by
  unfold execTinvStart
  dsimp only
  repeat' split
  · exact h
  · exact h
  · exact dropTlbs_wf _ h
  · exact h

theorem execTinvComplete_wf {s : State} (sid ord : Nat) (h : s.mem.wf = true) : NextWf (execTinvComplete sid ord s) := by
  unfold execTinvComplete
  repeat' split
  · exact h
  · exact wakeAll_wf (by simpa using h)
  · exact h
  · exact h

/-! ## Transfers of the copy engine -/

theorem translateSide_wf {s : State} (u ord : Nat) (a : Option W80) (h : s.mem.wf = true) : (translateSide s u ord a).1.mem.wf = true := by
  cases a with
  | none => exact h
  | some a => exact translate_wf _ _ _ h

@[simp] theorem carrySide_mem (s : State) (u : Nat) (c : Cmd) (e : Option Tlb) (a : Option W80) (n : Nat) :
    (carrySide s u c e a n).mem = s.mem := by
  unfold carrySide
  split <;> simp

theorem writeUnit_wf {s : State} (u : Nat) (c : Cmd) (e : Option Tlb) (x : CUnit) (b : List Byte) (h : s.mem.wf = true) :
    (writeUnit s u c e x b).mem.wf = true := by
  unfold writeUnit
  dsimp only
  repeat' split
  · exact engineSend_wf _ _ _ _ _ h
  · exact h
  · exact farWrite_wf _ _ _ h
  · exact h

@[simp] theorem countRead_mem (s : State) (u : Nat) (c : Cmd) (us : List CUnit) : (countRead s u c us).mem = s.mem := by
  unfold countRead
  dsimp only
  repeat' split
  all_goals simp

@[simp] theorem countWrite_mem (s : State) (u : Nat) (c : Cmd) (us : List CUnit) : (countWrite s u c us).mem = s.mem := by
  unfold countWrite
  dsimp only
  repeat' split
  all_goals simp

@[simp] theorem readRows_mem (s : State) (u : Nat) (c : Cmd) (us : List CUnit) (es : Option Tlb) (poison : List Nat) (peer : Option (List Byte)) :
    (readRows s u c us es poison peer).mem = s.mem := by
  simp [readRows]

theorem writeUnits_wf {s : State} (u : Nat) (c : Cmd) (us : List CUnit) (ed : Option Tlb) (peer : Option (List Byte)) (h : s.mem.wf = true) :
    (writeUnits s u c us ed peer).mem.wf = true := by
  simp only [writeUnits, settle_mem, countWrite_mem, State.setStrand_mem, carrySide_mem]
  split
  · exact h
  · exact foldl_wf (fun _ _ ht => writeUnit_wf _ _ _ _ _ ht) _ h

theorem execCopyTransfer_wf {s : State} (sid ord : Nat) (units poison : List Nat) (peer : Option (List Byte)) (h : s.mem.wf = true) :
    NextWf (execCopyTransfer sid ord units poison peer s) := by
  have ht (a : Option W80) : (translateSide s sid ord a).1.mem.wf = true := translateSide_wf _ _ _ h
  have hs : (wakeAll (settle s sid ord)).mem.wf = true := wakeAll_wf (by simpa using h)
  unfold execCopyTransfer
  dsimp only
  split
  · exact h
  · split
    · exact h
    · split
      case h_1 | h_2 | h_3 =>
        split
        · exact hs
        · exact h
      case h_4 | h_5 | h_6 =>
        split
        · exact h
        · split
          · split
            · exact ht _
            · exact wakeAll_wf (by simpa using ht _)
          · split
            · exact ht _
            · exact wakeAll_wf (writeUnits_wf _ _ _ _ _ (ht _))
      case h_7 => exact h

@[simp] theorem readNear_mem (s : State) (u : Nat) (c : Cmd) (us : List CUnit) : (readNear s u c us).mem = s.mem := by
  simp [readNear]

@[simp] theorem sortRead_mem (s : State) (u ord : Nat) : (sortRead s u ord).mem = s.mem := by
  unfold sortRead
  repeat' split
  all_goals simp

theorem execSortComplete_wf {s : State} (sid : Nat) (x : SortEnd) (h : s.mem.wf = true) : NextWf (execSortComplete sid x s) := by
  unfold execSortComplete
  dsimp only
  repeat' split
  · exact h
  · exact h
  · exact wakeAll_wf (writeUnits_wf _ _ _ _ _ h)
  · exact wakeAll_wf (by simpa using h)
  · exact wakeAll_wf (by simpa using h)
  · exact h

theorem pushBoth_mem {s t : State} {u q : Nat} {v : VReg} (h : pushBoth s u q v = some t) : t.mem = s.mem := by
  unfold pushBoth at h
  dsimp only at h
  split at h
  · cases h
  · split at h
    · obtain ⟨x, -, rfl⟩ := Option.map_eq_some_iff.mp h
      simp
    · cases h
      simp

theorem execQEntryReady_wf {s : State} (sid q : Nat) (h : s.mem.wf = true) : NextWf (execQEntryReady sid q s) := by
  unfold execQEntryReady
  split
  · exact h
  · split
    · exact h
    · split
      · exact wakeAll_wf (by simpa using h)
      · split
        · next t ht => exact wakeAll_wf (by simpa [pushBoth_mem ht] using h)
        · exact h

theorem execRegisterRestored_wf {s : State} (sid reg : Nat) (h : s.mem.wf = true) : NextWf (execRegisterRestored sid reg s) := by
  unfold execRegisterRestored
  dsimp only
  repeat' split
  · exact wakeOne_wf _ (by simpa using h)
  · exact h
  · simpa using h
  · exact h
  · exact h

theorem twinLoad_wf {s : State} (t : Strand) (id : BitVec 24) (j n : Nat) (bytes : Nat → List Byte) (h : s.mem.wf = true) :
    (twinLoad s t id j n bytes).mem.wf = true := by
  unfold twinLoad
  dsimp only
  repeat' split
  · exact h
  · exact finishLoad_wf _ _ _ _ _ h
  · exact h

theorem giveLoad_wf {s : State} (t : Strand) (j n : Nat) (gens : List (BitVec 16)) (bytes : Nat → List Byte) (h : s.mem.wf = true) :
    (giveLoad s t j n gens bytes).mem.wf = true :=
  twinLoad_wf _ _ _ _ _ (finishLoad_wf _ _ _ _ _ h)

theorem ovldRead_wf {s : State} (u ord : Nat) (h : s.mem.wf = true) : (ovldRead s u ord).mem.wf = true := by
  unfold ovldRead
  repeat' split
  · exact h
  · simpa using giveLoad_wf _ _ _ _ _ h
  · exact h
  · exact h

theorem execOvldComplete_wf {s : State} (sid ord : Nat) (x : OvldPart) (h : s.mem.wf = true) : NextWf (execOvldComplete sid ord x s) := by
  have ht (a : Option W80) : (translateSide s sid ord a).1.mem.wf = true := translateSide_wf _ _ _ h
  unfold execOvldComplete
  dsimp only
  split
  · exact h
  · split
    · split
      · exact wakeAll_wf (ovldRead_wf _ _ h)
      · exact h
    · split
      · exact h
      · split
        · exact ht _
        · split
          · exact wakeAll_wf (by simpa using ht _)
          · exact wakeAll_wf (ovldRead_wf _ _ (by simpa using ht _))
    · exact h

/-! ## The expert table -/

@[simp] theorem fillEntries_mem (s : State) (d part e : Nat) (l : List W80) : (fillEntries s d part e l).1.mem = s.mem :=
  List.foldlRecOn (motive := fun r : State × Option (List Tlb) => r.1.mem = s.mem) _ _ rfl fun r hr a _ => by simpa using hr

theorem windowWrite_wf {m : Memory} (p : Part) (o : Nat) (b : List Byte) (h : m.wf = true) : (windowWrite m p o b).wf = true :=
  Memory.foldl_wf (fun _ _ hm => Memory.wf_write _ _ _ hm) _ h

/-- What a fill's search for its pages leaves behind. -/
theorem fillEntries_eq_mem {s t : State} {d part e : Nat} {l : List W80} {r : Option (List Tlb)} (h : fillEntries s d part e l = (t, r)) :
    t.mem = s.mem := by
  have := fillEntries_mem s d part e l
  rwa [h] at this

theorem execFillComplete_wf {s : State} (part : Nat) (z : FillEnd) (h : s.mem.wf = true) : NextWf (execFillComplete part z s) := by
  unfold execFillComplete
  dsimp only
  split
  · split
    · next t ht =>
      have hs : t.mem.wf = true := (fillEntries_eq_mem ht).symm ▸ h
      exact hs
    · next t l ht =>
      have hs : t.mem.wf = true := (fillEntries_eq_mem ht).symm ▸ h
      split
      · exact hs
      · exact windowWrite_wf _ _ _ (by simpa using hs)
  · exact h

theorem execFillFail_wf {s : State} (part e : Nat) (code : BitVec 4) (h : s.mem.wf = true) : NextWf (execFillFail part e code s) := by
  unfold execFillFail
  dsimp only
  split
  · split
    · next t ht =>
      have hs : t.mem.wf = true := (fillEntries_eq_mem ht).symm ▸ h
      split
      · exact h
      · exact hs
    · next t l ht =>
      have hs : t.mem.wf = true := (fillEntries_eq_mem ht).symm ▸ h
      split
      · exact hs
      · exact hs
  · exact h

theorem execDeferredFillGrant_wf {s : State} (part : Nat) (h : s.mem.wf = true) : NextWf (execDeferredFillGrant part s) := by
  unfold execDeferredFillGrant
  dsimp only
  split
  · exact h
  · split
    · exact h
    · exact h

theorem execEvictionEnd_wf {s : State} (part e : Nat) (h : s.mem.wf = true) : NextWf (execEvictionEnd part e s) := by
  unfold execEvictionEnd
  dsimp only
  split
  · exact h
  · exact h

theorem execReplicaComplete_wf {s : State} (part e : Nat) (h : s.mem.wf = true) : NextWf (execReplicaComplete part e s) := by
  unfold execReplicaComplete
  dsimp only
  repeat' split
  · exact h
  · exact h
  · exact windowWrite_wf _ _ _ h
  · exact h

@[simp] theorem givePull_mem (s : State) (u ord : Nat) (vals : List W64) : (givePull s u ord vals).mem = s.mem := by
  simp [givePull]

theorem execXpullPop_wf {s : State} (part : Nat) (h : s.mem.wf = true) : NextWf (execXpullPop part s) := by
  unfold execXpullPop
  dsimp only
  repeat' split
  all_goals simpa using h

/-! ## Instructions with a lemma of their own -/

/-- The end of a MEET that waits: it is over, or its strand parks. -/
theorem meetEnd_wf {s : State} (done : Bool) (u j : Nat) (ph : BitVec 16) (x : SCode) (p : Park) (h : s.mem.wf = true) :
    (if done then Res.done (meetFinish s u j ph x) 1 else Res.after s p 1).Wf := by
  split
  · exact h
  · exact h

theorem execMeet_wf {s : State} (k : Marks) (form : MeetForm) (x : SCode) (j : BitVec 4) (n : BitVec 5) (h : s.mem.wf = true) :
    NextWf (execMeet k form x j n s) := by
  refine issue_wf (fun t ht => ?_) h
  have ha : (meetWakeAll t.me.frame 64 (meetArrival (useTag t t.me) t.cur j.toNat n.toNat)).mem.wf = true := by simpa using ht
  dsimp only
  split
  · trivial
  · split
    · exact meetEnd_wf _ _ _ _ _ _ ht
    · split
      · split
        · exact ht
        · exact meetEnd_wf _ _ _ _ _ _ ht
      · split
        · trivial
        · split
          · exact ht
          · generalize meetWakeAll _ _ _ = a at ha ⊢
            split
            · exact ha
            · exact meetEnd_wf _ _ _ _ _ _ ha

theorem execWait_wf {s : State} (k : Marks) (vis mx trp : Bool) (x y : SCode) (h : s.mem.wf = true) : NextWf (execWait k vis mx trp x y s) := by
  refine issue_wf (fun t ht => ?_) h
  dsimp only
  split
  · trivial
  · split
    · trivial
    · split
      · split
        · exact takeFault_wf _ _ _ _ _ ht
        · exact ht
      · exact ht

theorem execOvld_wf {s : State} (k : Marks) (src : OvldSrc) (o : Ordn) (sc : Scope) (y z ss : SCode) (slot : BitVec 6) (idi : BitVec 24)
    (cnt : BitVec 4) (h : s.mem.wf = true) : NextWf (execOvld k src o sc y z ss slot idi cnt s) := by
  refine issue_wf (fun t ht => ?_) h
  have hw (c : Nat) (x : Core) : (wakeFetch (t.setCore c x) c).mem.wf = true := wakeFetch_wf _ ht
  dsimp only
  repeat' split
  all_goals simp [ht, hw]

theorem grant_wf {s : State} (u n : Nat) (x : SCode) (h : s.mem.wf = true) : (grant s u n x).mem.wf = true :=
  Memory.foldl_wf (fun _ _ hm => Memory.wf_clear _ _ _ hm) _ h

theorem execMalloc_wf {s : State} (k : Marks) (x y : SCode) (n : BitVec 5) (h : s.mem.wf = true) : NextWf (execMalloc k x y n s) := by
  refine issue_wf (fun t ht => ?_) h
  dsimp only
  split
  · trivial
  · split
    · exact grant_wf _ _ _ ht
    · exact ht

theorem execMallocGrant_wf {s : State} (core : Nat) (h : s.mem.wf = true) : NextWf (execMallocGrant core s) := by
  unfold execMallocGrant
  dsimp only
  split
  · split
    · rw [nextWf_next, State.makeReady_mem]
      exact grant_wf _ _ _ h
    · exact h
  · exact h

theorem execMfree_wf {s : State} (k : Marks) (y : SCode) (h : s.mem.wf = true) : NextWf (execMfree k y s) := by
  refine issue_wf (fun t ht => ?_) h
  dsimp only
  split
  · trivial
  · split
    · exact ht
    · exact enterMx_wf _ _ _ _ _ _ _ _ ht

@[simp] theorem gangArrive_mem (s : State) (d : BDesc) : (gangArrive s d).1.mem = s.mem := rfl

@[simp] theorem closeGang_mem (s : State) (fu c gid : Nat) : (closeGang s fu c gid).mem = s.mem := by
  refine (foldl_mem _ _ _ fun t u => ?_).trans rfl
  split
  · simp [apply_ite State.mem]
  · rfl

theorem execMma_wf {s : State} (k : Marks) (ty : Ty) (maj gng : Bool) (o : Ordn) (sc : Scope) (sp : Space) (x y : SCode) (z : VCode) (m : MCode)
    (kb : BitVec 4) (sk spl sm : SCode) (rs : BitVec 12) (h : s.mem.wf = true) :
    NextWf (execMma k ty maj gng o sc sp x y z m kb sk spl sm rs s) := by
  refine issue_wf (fun t ht => ?_) h
  dsimp only
  split
  · trivial
  · split
    · exact enterMx_wf _ _ _ _ _ _ _ _ ht
    · split
      · trivial
      · next b rows d _ _ _ =>
        have hg : (gangArrive t d).1.mem.wf = true := ht
        split
        · next s'' n he =>
          have hs : s''.mem.wf = true := (Res.wf_done s'' n).mp (he ▸ enterMx_wf _ _ _ _ _ _ _ _ hg)
          simpa [apply_ite State.mem] using hs
        · exact enterMx_wf _ _ _ _ _ _ _ _ hg

theorem execXbias_wf {s : State} (k : Marks) (x y : VCode) (m : MCode) (h : s.mem.wf = true) : NextWf (execXbias k x y m s) := by
  refine issue_wf (fun t ht => ?_) h
  dsimp only
  split
  · next s' n he => exact (Res.wf_done s' n).mp (he ▸ writes_wf _ _ _ _ ht)
  · exact writes_wf _ _ _ _ ht

theorem execExit_wf {s : State} (k : Marks) (h : s.mem.wf = true) : NextWf (execExit k s) := by
  refine issue_wf (fun t ht => ?_) h
  dsimp only
  split
  · exact ht
  · split
    · trivial
    · exact wakeAll_wf (by simpa using ht)

theorem execMts_wf {s : State} (k : Marks) (n : SReg) (a : SCode) (h : s.mem.wf = true) : NextWf (execMts k n a s) := by
  refine issue_wf (fun t ht => ?_) h
  split
  · trivial
  · split
    · trivial
    · split
      · next s' hw =>
        have hs : s'.mem.wf = true := (sregWrite_mem hw).symm ▸ ht
        exact hs
      · trivial

/-! ## The matrix channel -/

@[simp] theorem mxDone_mem (s : State) (u ord : Nat) : (mxDone s u ord).mem = s.mem := rfl

theorem mmaCommit_wf {s : State} (c bank : Nat) (rows : List (Nat × Nat)) (d : BDesc) (a : List (List Byte)) (b : List Byte) (h : s.mem.wf = true) :
    (mmaCommit s c bank rows d a b).mem.wf = true :=
  Memory.foldl_wf (fun _ _ hm => Memory.wf_writeL _ _ _ hm) _ h

@[simp] theorem modMx_mem (s : State) (u ord : Nat) (f : MKind → MKind) : (modMx s u ord f).mem = s.mem := rfl

@[simp] theorem giveB_mem (s : State) (b : Pieces) (l : List (Nat × Nat × Bool)) : (giveB s b l).mem = s.mem :=
  foldl_mem _ _ _ fun _ _ => rfl

@[simp] theorem mstSettle_mem (s : State) (u ord : Nat) : (mstSettle s u ord).mem = s.mem := by
  unfold mstSettle
  repeat' split
  all_goals rfl

theorem resetEngine_wf {s : State} (c : Nat) (h : s.mem.wf = true) : (resetEngine s c).mem.wf = true := by
  unfold resetEngine
  refine wakeAll_wf ?_
  dsimp only
  split
  · exact Memory.wf_clear _ _ _ h
  · exact Memory.wf_clear _ _ _ h

theorem execMatrixCommit_wf {s : State} (x : MatrixPart) (h : s.mem.wf = true) : NextWf (execMatrixCommit x s) := by
  unfold execMatrixCommit
  dsimp only
  split
  · exact h
  · split
    · split
      · exact h
      · exact wakeAll_wf (Memory.wf_clear _ _ _ h)
    · exact wakeAll_wf h
    · split
      · exact h
      · split
        · split
          · exact h
          · exact wakeAll_wf (mmaCommit_wf _ _ _ _ _ _ h)
        · split
          · exact wakeAll_wf (by simpa using h)
          · exact wakeAll_wf (by simpa using h)
    · exact h

theorem execMrdExecute_wf {s : State} (sid : Nat) (h : s.mem.wf = true) : NextWf (execMrdExecute sid s) := by
  unfold execMrdExecute
  dsimp only
  split
  · exact h
  · split
    · exact wakeAll_wf h
    · exact h

theorem execMstWrite_wf {s : State} (x : MstPart) (h : s.mem.wf = true) : NextWf (execMstWrite x s) := by
  unfold execMstWrite
  dsimp only
  split
  · exact h
  · split
    · split
      · refine wakeAll_wf ?_
        rw [mstSettle_mem, modMx_mem]
        exact foldl_wf (fun _ _ ht => engineSend_wf _ _ _ _ _ ht) _ h
      · exact wakeAll_wf (by simpa using h)
    · exact h

theorem execEngineHang_wf {s : State} (core : Nat) (h : s.mem.wf = true) : NextWf (execEngineHang core s) := by
  unfold execEngineHang
  split
  · exact h
  · exact resetEngine_wf _ h

/-! ## Arrivals: loads, stores and atomics -/

@[simp] theorem ckptTake_mem (s : State) (u : Nat) (r : Ret) (x : RUnit) (v : W64) : (ckptTake s u r x v).mem = s.mem := by
  simp [ckptTake, apply_ite State.mem]

theorem deliver_wf {s : State} (u : Nat) (r : Ret) (x : RUnit) (v : W64) (h : s.mem.wf = true) : (deliver s u r x v).mem.wf = true :=
  wakeOne_wf _ (by simpa using h)

@[simp] theorem lockArrival_mem (s : State) (u ord lane : Nat) : (lockArrival s u ord lane).mem = s.mem := by
  unfold lockArrival
  repeat' split
  all_goals simp

theorem returnOne_wf {s : State} (sid ord lane : Nat) (scalar : Bool) (h : s.mem.wf = true) : (returnOne s sid ord lane scalar).mem.wf = true := by
  unfold returnOne
  dsimp only
  split
  · split
    · simpa using h
    · split
      · exact h
      · split
        · exact deliver_wf _ _ _ _ h
        · simpa using h
  · exact h

@[simp] theorem send_mem (s : State) (u : Nat) (e : SEntry) (units : List SUnit) (snap : Bool) : (send s u e units snap).mem = s.mem := rfl

@[simp] theorem leaveUnits_mem (s : State) (u : Nat) (e : SEntry) : (leaveUnits s u e).mem = s.mem := by
  unfold leaveUnits
  dsimp only
  split
  · rfl
  · rfl

theorem appendRecord_wf {s : State} (u : Nat) (e : SEntry) (q : Nat) (b : List Byte) (h : s.mem.wf = true) :
    (appendRecord s u e q b).mem.wf = true := by
  simpa [appendRecord] using Memory.wf_writeL _ _ _ h

@[simp] theorem dropSent_mem (s : State) (core idx : Nat) : (dropSent s core idx).mem = s.mem := rfl

@[simp] theorem carrySent_mem (s : State) (core : Nat) (e : Sent) : (carrySent s core e).mem = s.mem := by
  simp [carrySent, apply_ite State.mem]

theorem writeSent_wf {s : State} (e : Sent) (d : List Byte) (h : s.mem.wf = true) : (writeSent s e d).mem.wf = true := by
  unfold writeSent
  split
  · exact engineWrite_wf _ _ _ h
  · exact Memory.wf_writeL _ _ _ h

theorem performWrite_wf {s : State} (e : Sent) (d : List Byte) (h : s.mem.wf = true) : (performWrite s e d).mem.wf = true := by
  unfold performWrite
  dsimp only
  split
  · exact h
  · exact writeSent_wf _ _ h

@[simp] theorem engineArrived_mem (s : State) (e : Sent) : (engineArrived s e).mem = s.mem := by
  simp [engineArrived, apply_ite State.mem]

@[simp] theorem giveResult_mem (s : State) (e : Sent) (ty : Ty) (old : W32) : (giveResult s e ty old).1.mem = s.mem := by
  unfold giveResult
  dsimp only
  split
  · rfl
  · simp

theorem stepMem_wf {m : Memory} (k : Nat) (a : AStep) (old : W32) (h : m.wf = true) : (stepMem m k a old).wf = true := by
  unfold stepMem
  dsimp only
  split
  · exact h
  · exact Memory.wf_writeL _ _ _ h

theorem makeStep_wf {s : State} (u k : Nat) (a : AStep) (old : W32) (h : s.mem.wf = true) : (makeStep s u k a old).mem.wf = true := by
  unfold makeStep
  dsimp only
  split
  · exact Memory.wf_writeL _ _ _ (stepMem_wf _ _ _ h)
  · exact stepMem_wf _ _ _ h

theorem performStep_wf {s : State} (e : Sent) (a : AStep) (h : s.mem.wf = true) : (performStep s e a).mem.wf = true := by
  unfold performStep
  dsimp only
  split
  · simpa using h
  · simpa [apply_ite State.mem] using makeStep_wf _ _ _ _ h

@[simp] theorem stepAcquires_mem (s : State) (e : Sent) : (stepAcquires s e).mem = s.mem := by
  simp [stepAcquires, apply_ite State.mem]

theorem execStoreQueueLeave_wf {s : State} (sid : Nat) (h : s.mem.wf = true) : NextWf (execStoreQueueLeave sid s) := by
  unfold execStoreQueueLeave
  dsimp only
  split
  · exact h
  · split
    · exact h
    · split
      · exact wakeOne_wf _ (by simpa using h)
      · exact wakeOne_wf _ (by simpa using h)
      · exact wakeOne_wf _ h
      · exact h

theorem execSpawnAppend_wf {s : State} (x : SpawnPart) (h : s.mem.wf = true) : NextWf (execSpawnAppend x s) := by
  unfold execSpawnAppend
  dsimp only
  split
  · exact h
  · split
    · split
      · exact h
      · split
        · exact wakeOne_wf _ (appendRecord_wf _ _ _ _ (by simpa using h))
        · simpa using h
    · exact h

theorem execWriteArrival_wf {s : State} (core idx : Nat) (h : s.mem.wf = true) : NextWf (execWriteArrival core idx s) := by
  unfold execWriteArrival
  dsimp only
  split
  · exact h
  · next e _ =>
    split
    · exact h
    · next d _ =>
      have hw : (carrySent (performWrite (dropSent s core idx) e d) core e).mem.wf = true := by
        rw [carrySent_mem]
        exact performWrite_wf e d h
      rw [nextWf_next]
      split
      · exact wakeAll_wf (by simpa using hw)
      · exact wakeOne_wf _ hw

theorem execAtomicStep_wf {s : State} (core idx : Nat) (h : s.mem.wf = true) : NextWf (execAtomicStep core idx s) := by
  unfold execAtomicStep
  split
  · exact h
  · split
    · exact h
    · split
      · exact h
      · refine wakeOne_wf _ ?_
        rw [carrySent_mem, stepAcquires_mem]
        exact performStep_wf _ _ h

theorem execFetchFault_wf {s : State} (c : FetchErr) (h : s.mem.wf = true) : NextWf (execFetchFault c s) := by
  unfold execFetchFault
  dsimp only
  split
  · exact takeFault_wf _ _ _ _ _ h
  · exact h

/-! ## Braced strands -/

theorem rollback_wf {s : State} (u misses : Nat) (h : s.mem.wf = true) : (rollback s u misses).mem.wf = true := by
  unfold rollback
  dsimp only
  split
  · simpa using h
  · exact wakeOne_wf _ h

@[simp] theorem testCluster_mem (s : State) (c : Nat) : (testCluster s c).mem = s.mem := rfl

theorem releaseHeld_wf {s : State} (u w : Nat) (h : s.mem.wf = true) : (releaseHeld s u w).mem.wf = true :=
  Memory.foldl_wf (fun _ _ hm => Memory.wf_writeL _ _ _ hm) _ h

@[simp] theorem passPoint_mem (s : State) (u : Nat) (op : Bool) : (passPoint s u op).mem = s.mem := by
  simp [passPoint, apply_ite State.mem]

theorem execBraceCompare_wf {s : State} (sid : Nat) (h : s.mem.wf = true) : NextWf (execBraceCompare sid s) := by
  unfold execBraceCompare
  dsimp only
  split
  · exact h
  · split
    · exact h
    · split
      · exact wakeAll_wf (by simpa using releaseHeld_wf _ _ h)
      · split
        · exact rollback_wf _ _ (rollback_wf _ _ h)
        · exact wakeAll_wf (State.kill_wf _ _ _ (State.kill_wf _ _ _ h))

/-! ## The freeze of a partition -/

@[simp] theorem requeue_mem (s : State) (e : Sent) : (requeue s e).mem = s.mem := rfl

theorem returnStep_wf {s : State} (e : Sent) (h : s.mem.wf = true) : (returnStep s e).mem.wf = true := by
  unfold returnStep
  split
  · exact h
  · split
    · exact h
    · split
      · split
        · exact deliver_wf _ _ _ _ h
        · exact h
      · exact h

theorem freezeSent_wf {s : State} (e : Sent) (h : s.mem.wf = true) : (freezeSent s e).mem.wf = true := by
  unfold freezeSent
  dsimp only
  split
  · next d _ =>
    split
    · exact (engineArrived_mem _ e).symm ▸ Memory.wf_writeL _ _ _ h
    · have hw : (if (s.part e.tag.part).tags.contains (e.tag, e.u.unit) then s else writeSent s e d).mem.wf = true := by
        split
        · exact h
        · exact writeSent_wf _ _ h
      split
      · simpa [apply_ite State.mem] using hw
      · exact hw
  · split
    · exact returnStep_wf _ (performStep_wf _ _ h)
    · exact performStep_wf _ _ h

theorem freezeReturns_wf {s : State} (p : Nat) (h : s.mem.wf = true) : (freezeReturns s p).mem.wf = true := by
  refine foldl_wf (fun t e ht => ?_) _ h
  split
  · refine foldl_wf (fun t r ht => ?_) _ ht
    split
    · refine foldl_wf (fun t x ht => ?_) _ ht
      split
      · split
        · exact deliver_wf _ _ _ _ ht
        · exact ht
      · exact ht
    · exact ht
  · exact ht

@[simp] theorem freezeLocks_mem (s : State) (p : Nat) : (freezeLocks s p).mem = s.mem := by
  refine foldl_mem _ _ _ fun t e => ?_
  split
  · refine foldl_mem _ _ _ fun t r => foldl_mem _ _ _ fun t x => ?_
    simp [apply_ite State.mem]
  · rfl

theorem freezeList_wf (c : Nat) (l : List Sent) {s : State} (h : s.mem.wf = true) : (freezeList c l s).mem.wf = true := by
  induction l generalizing s with
  | nil => exact h
  | cons e r ih =>
    refine ih ?_
    rw [carrySent_mem]
    exact freezeSent_wf _ h

theorem freezeCoreSent_wf {s : State} (c : Nat) (h : s.mem.wf = true) : (freezeCoreSent s c).mem.wf = true := freezeList_wf _ _ h

@[simp] theorem discardFrame_mem (s : State) (fu : Nat) : (discardFrame s fu).mem = s.mem := by
  unfold discardFrame
  extract_lets f again all discarded withdrawn
  have hdiscarded : discarded.mem = s.mem := foldl_mem _ _ _ fun _ _ => rfl
  have hwithdrawn : withdrawn.mem = discarded.mem := foldl_mem _ _ _ fun _ _ => rfl
  exact hwithdrawn.trans hdiscarded

@[simp] theorem State.swap_mem (s : State) (part old new : Nat) : (s.swap part old new).mem = s.mem := by
  simp [State.swap, apply_ite State.mem]

theorem saveImages_wf {m : Memory} (p : Part) (c : Nat) (h : m.wf = true) : (saveImages m p c).wf = true :=
  Memory.wf_copy _ _ _ _ (Memory.wf_copy _ _ _ _ (Memory.wf_copy _ _ _ _ h))

theorem loadImages_wf {m : Memory} (p : Part) (old new : Nat) (h : m.wf = true) : (loadImages m p old new).wf = true :=
  Memory.wf_copy _ _ _ _ (Memory.wf_copy _ _ _ _ (Memory.wf_copy _ _ _ _ h))

theorem writeArea_wf {m : Memory} (p : Part) (c o : Nat) (b : List Byte) (h : m.wf = true) : (writeArea m p c o b).wf = true :=
  Memory.wf_writeL _ _ _ h

theorem saveRecords_wf {s : State} (p : Part) (c : Nat) (h : s.mem.wf = true) : (saveRecords s p c).mem.wf = true := by
  unfold saveRecords
  dsimp only
  refine Memory.wf_writeL _ _ _ (Memory.wf_writeL _ _ _ ?_)
  refine List.foldlRecOn (motive := fun a : Memory × Nat => a.1.wf = true) _ _ (writeArea_wf _ _ _ _ h) fun a ha j _ => ?_
  split
  · exact writeArea_wf _ _ _ _ ha
  · exact writeArea_wf _ _ _ _ (writeArea_wf _ _ _ _ ha)

@[simp] theorem State.mapStrands_mem (s : State) (p : Nat) (f : Nat → Strand → Strand) : (s.mapStrands p f).mem = s.mem := rfl

@[simp] theorem freezeBraced_mem (s : State) (p : Nat) : (freezeBraced s p).mem = s.mem :=
  foldl_mem _ _ _ fun t e => by simp [apply_ite State.mem]

/-- Cores replaced one by one: memory is left alone. -/
theorem foldl_setCore_mem (f : State → Nat → Core) (l : List Nat) (s : State) : (l.foldl (fun t c => t.setCore c (f t c)) s).mem = s.mem :=
  foldl_mem _ _ _ fun _ _ => rfl

theorem freeze_wf {s : State} (p : Nat) (h : s.mem.wf = true) : (freeze s p).mem.wf = true := by
  unfold freeze
  extract_lets cores ended braced left returned discarded frozen x imaged recorded dropped y marked
  have hended : ended.mem = s.mem := foldl_mem _ _ _ fun _ _ => rfl
  have hbraced : braced.mem.wf = true := by rwa [freezeBraced_mem, hended]
  have hleft : left.mem.wf = true := foldl_wf (fun _ _ ht => freezeCoreSent_wf _ ht) _ hbraced
  have hreturned : returned.mem.wf = true := by
    rw [freezeLocks_mem]
    exact freezeReturns_wf _ hleft
  have hfrozen : frozen.mem = returned.mem := foldl_mem _ _ _ fun t e => by simp [apply_ite State.mem]
  have himaged : imaged.mem.wf = true := by
    rw [foldl_mem _ _ _ fun _ _ => State.swap_mem ..]
    exact Memory.foldl_wf (fun _ _ hm => saveImages_wf _ _ hm) _ (by rwa [hfrozen])
  have hrecorded : recorded.mem.wf = true := foldl_wf (fun _ _ ht => saveRecords_wf _ _ ht) _ himaged
  have hdropped : dropped.mem.wf = true := dropCopyTlbs_wf _ hrecorded
  rw [foldl_setCore_mem]
  exact hdropped

/-! ## Lantern, and the life of a partition -/

@[simp] theorem produceReading_mem (s : State) (p : Nat) (k : ReadKind) : (produceReading s p k).mem = s.mem := rfl

@[simp] theorem produceAll_mem (s : State) (k : ReadKind) : (produceAll s k).mem = s.mem :=
  foldl_mem _ _ _ fun t e => by simp [apply_ite State.mem]

@[simp] theorem respond_mem (s : State) (fn : Nat) (b : List Byte) : (respond s fn b).mem = s.mem := rfl
@[simp] theorem accept_mem (s : State) (fn len : Nat) : (accept s fn len).mem = s.mem := rfl
@[simp] theorem refuse_mem (s : State) (fn : Nat) : (refuse s fn).mem = s.mem := rfl
@[simp] theorem place_mem (s : State) (fn : Nat) (b : List Byte) : (place s fn b).mem = s.mem := rfl
@[simp] theorem noteOwner_mem (s : State) (c : Nat) : (noteOwner s c).mem = s.mem := rfl
@[simp] theorem forgetOwner_mem (s : State) (p : Nat) : (forgetOwner s p).mem = s.mem := by
  unfold forgetOwner
  dsimp only
@[simp] theorem giveCluster_mem (s : State) (c : Nat) : (giveCluster s c).mem = s.mem := rfl
@[simp] theorem putCore_mem (s : State) (new : Nat) (c : Core) : (putCore s new c).mem = s.mem := rfl

@[simp] theorem raiseFuses_mem (s : State) (r : StageResult) (f : BitVec 8) : (raiseFuses s r f).mem = s.mem := by
  simp [raiseFuses, apply_ite State.mem]

theorem coldState_wf {s : State} (h : s.mem.wf = true) : (coldState s).mem.wf = true := Memory.wf_filter _ _ h

/-- Clusters whose use of the power is noted: memory is left alone. -/
theorem noteOwners_mem (l : List Nat) (s : State) : (l.foldl noteOwner s).mem = s.mem := foldl_mem _ _ _ fun _ _ => rfl

@[simp] theorem createPart_mem (s : State) (p : Nat) (r : PartRecord) : (createPart s p r).mem = s.mem := by
  unfold createPart
  extract_lets noted placed counted given cores
  have hnoted : noted.mem = s.mem := (forgetOwner_mem _ _).trans (noteOwners_mem _ _)
  clear_value noted
  have hgiven : given.mem = counted.mem := foldl_mem _ _ _ fun _ _ => rfl
  have hcores : cores.mem = given.mem := foldl_mem _ _ _ fun _ _ => rfl
  exact (foldl_mem _ _ _ (by intros; rfl)).trans ((hcores.trans hgiven).trans hnoted)

theorem discardPart_wf {s : State} (p : Nat) (h : s.mem.wf = true) : (discardPart s p).mem.wf = true := by
  unfold discardPart
  extract_lets cores noted emptied dropped idle x
  have hnoted : noted.mem.wf = true := by rwa [forgetOwner_mem, noteOwners_mem]
  clear_value noted
  have hdropped : dropped.mem.wf = true := dropTlbs_wf _ (hnoted)
  have hidle : idle.mem = dropped.mem := foldl_mem _ _ _ fun _ _ => rfl
  rwa [State.setPart_mem, hidle]

theorem replayLoads_wf {s : State} (c : Nat) (h : s.mem.wf = true) : (replayLoads s c).mem.wf = true :=
  foldl_wf (fun _ _ ht => admissionLoad_wf _ _ ht) _ h

theorem resume_wf {s : State} (p : Nat) (clm : W32) (h : s.mem.wf = true) : (resume s p clm).mem.wf = true := by
  unfold resume
  extract_lets x news l noted swapped put given y rcd live moved framed replayed resumed
  have hnoted : noted.mem = s.mem := noteOwners_mem _ _
  have hswapped : swapped.mem.wf = true := by
    rw [foldl_mem _ _ _ fun _ _ => State.swap_mem ..]
    exact Memory.foldl_wf (fun _ _ hm => loadImages_wf _ _ _ hm) _ (by rwa [hnoted])
  have hput : put.mem = swapped.mem := foldl_mem _ _ _ fun _ _ => rfl
  have hgiven : given.mem = put.mem := foldl_mem _ _ _ fun _ _ => rfl
  have hframed : framed.mem.wf = true := by rwa [show framed.mem = swapped.mem from hgiven.trans hput]
  have hreplayed : replayed.mem.wf = true := foldl_wf (fun _ _ ht => replayLoads_wf _ ht) _ hframed
  have hresumed : resumed.mem.wf = true := by
    refine foldl_wf (fun t e ht => ?_) _ hreplayed
    split
    · exact rebear_wf _ ht
    · exact ht
  exact wakeAll_wf hresumed

/-! ## Events of Lantern and of partitions -/

theorem execStatus_wf {s : State} (fn : Nat) (h : s.mem.wf = true) : NextWf (execStatus fn s) := by
  unfold execStatus
  split
  · exact h
  · exact h

theorem execReadSign_wf {s : State} (fn part : Nat) (h : s.mem.wf = true) : NextWf (execReadSign fn part s) := by
  unfold execReadSign
  repeat' split
  all_goals exact h

theorem execQuote_wf {s : State} (fn : Nat) (part : Option Nat) (nonce : List Byte) (h : s.mem.wf = true) :
    NextWf (execQuote fn part nonce s) := by
  unfold execQuote
  dsimp only
  repeat' split
  all_goals exact h

theorem execCert_wf {s : State} (fn : Nat) (h : s.mem.wf = true) : NextWf (execCert fn s) := by
  unfold execCert
  dsimp only
  repeat' split
  all_goals exact h

theorem execEnergyEpochEnd_wf {s : State} (m : EpochMeasure) (h : s.mem.wf = true) : NextWf (execEnergyEpochEnd m s) := by
  unfold execEnergyEpochEnd
  dsimp only
  repeat' split
  · exact h
  · simpa using h
  · exact h

theorem execEnergyRefresh_wf {s : State} (die : Nat) (h : s.mem.wf = true) : NextWf (execEnergyRefresh die s) := by
  unfold execEnergyRefresh
  dsimp only
  split
  · exact h
  · exact h

theorem execPowerGood_wf {s : State} (h : s.mem.wf = true) : NextWf (execPowerGood s) := by
  unfold execPowerGood
  split
  · exact h
  · exact h

theorem execStage1_wf {s : State} (r : StageResult) (h : s.mem.wf = true) : NextWf (execStage1 r s) := by
  unfold execStage1
  split
  · exact h
  · split
    · exact h
    · extract_lets r f raised mem
      have hmem : mem.wf = true := Memory.wf_writeL _ _ _ (Memory.wf_clear _ _ _ h)
      clear_value mem
      split
      · simpa [raised] using h
      · exact hmem

theorem execColdReset_wf {s : State} (h : s.mem.wf = true) : NextWf (execColdReset s) := by
  unfold execColdReset
  split
  · have hc : (produceAll s .coldReset).mem.wf = true := by simpa using h
    rw [nextWf_next]
    exact coldState_wf hc
  · exact h

theorem execPowerLoss_wf {s : State} (h : s.mem.wf = true) : NextWf (execPowerLoss s) := by
  unfold execPowerLoss
  split
  · exact coldState_wf h
  · exact h

/-- A command of a function that may not manage partitions is refused, or ignored. -/
theorem refusal_wf {s : State} (fn : Nat) (h : s.mem.wf = true) : NextWf (.next (if answers s fn then refuse s fn else s)) := by
  simpa [apply_ite State.mem] using h

theorem execCreate_wf {s : State} (fn part : Nat) (r : PartRecord) (h : s.mem.wf = true) : NextWf (execCreate fn part r s) := by
  unfold execCreate
  split
  · exact refusal_wf _ h
  · split
    · simpa using h
    · exact h

theorem execPreempt_wf {s : State} (fn part : Nat) (h : s.mem.wf = true) : NextWf (execPreempt fn part s) := by
  unfold execPreempt
  split
  · exact refusal_wf _ h
  · split
    · simpa using freeze_wf _ h
    · exact h

theorem execFreezeComplete_wf {s : State} (part : Nat) (h : s.mem.wf = true) : NextWf (execFreezeComplete part s) := by
  unfold execFreezeComplete
  split
  · exact h
  · exact h

theorem execDestroy_wf {s : State} (fn part : Nat) (h : s.mem.wf = true) : NextWf (execDestroy fn part s) := by
  unfold execDestroy
  split
  · exact refusal_wf _ h
  · split
    · exact h
    · rw [nextWf_next, accept_mem]
      refine discardPart_wf _ ?_
      rw [produceReading_mem]
      split
      · exact freeze_wf _ h
      · exact h

theorem execResume_wf {s : State} (fn part : Nat) (clm : W32) (h : s.mem.wf = true) : NextWf (execResume fn part clm s) := by
  unfold execResume
  split
  · exact refusal_wf _ h
  · split
    · simpa using resume_wf _ _ h
    · exact h

theorem execEngineReset_wf {s : State} (fn core : Nat) (h : s.mem.wf = true) : NextWf (execEngineReset fn core s) := by
  unfold execEngineReset
  split
  · exact refusal_wf _ h
  · split
    · simpa using resetEngine_wf _ h
    · exact h

theorem warm_wf {s : State} (h : s.mem.wf = true) : (warm s).mem.wf = true := Memory.wf_filter _ _ h

theorem execWarmReset_wf {s : State} (fn : Nat) (h : s.mem.wf = true) : NextWf (execWarmReset fn s) := by
  unfold execWarmReset
  split
  · exact h
  · split
    · exact h
    · simpa using warm_wf h

/-! ## The host, the links, the clocks and the errors -/

@[simp] theorem freeKilled_mem (s : State) (part : Nat) : (freeKilled s part).mem = s.mem := foldl_mem _ _ _ fun _ _ => rfl

theorem writeRecQ_wf {s : State} (part : Nat) (event : Bool) (f : RecQ → RecQ) (h : s.mem.wf = true) : (writeRecQ s part event f).mem.wf = true := by
  have hq (x : Part) : (freeKilled ((s.setPart part x).drainQ part event) part).mem.wf = true := by
    rw [freeKilled_mem]
    exact State.drainQ_wf _ _ h
  unfold writeRecQ
  extract_lets p q
  split
  · exact hq _
  · exact h

@[simp] theorem countErr_mem (s : State) (o : Option Nat) (f : ErrCnt → ErrCnt) : (countErr s o f).mem = s.mem := by
  cases o <;> rfl

theorem retireCore_wf {s : State} (c : Nat) (h : s.mem.wf = true) : (retireCore s c).mem.wf = true :=
  foldl_wf (fun _ _ ht => State.kill_wf _ _ _ ht) _ h

theorem execHostWindowAccess_wf {s : State} (part off n : Nat) (x : WinAcc) (h : s.mem.wf = true) : NextWf (execHostWindowAccess part off n x s) := by
  unfold execHostWindowAccess
  dsimp only
  split
  · exact h
  · split
    · exact h
    · split
      · simpa using h
      · exact h
    · split
      · exact windowWrite_wf _ _ _ h
      · simpa using h

theorem execPeerAccess_wf {s : State} (part off n : Nat) (x : PeerAcc) (h : s.mem.wf = true) : NextWf (execPeerAccess part off n x s) := by
  unfold execPeerAccess
  dsimp only
  split
  · exact h
  · split
    · exact h
    · split
      · simpa [apply_ite State.mem] using h
      · exact Memory.foldl_wf (fun _ _ hm => Memory.wf_write _ _ _ hm) _ h

theorem execRemoteSignal_wf {s : State} (part : Nat) (x : PeerSignal) (h : s.mem.wf = true) : NextWf (execRemoteSignal part x s) := by
  unfold execRemoteSignal
  dsimp only
  repeat' split
  all_goals simpa using h

theorem execCreditReturn_wf {s : State} (port : Nat) (h : s.mem.wf = true) : NextWf (execCreditReturn port s) := by
  unfold execCreditReturn
  dsimp only
  repeat' split
  all_goals simpa using h

theorem execClass3Window_wf {s : State} (h : s.mem.wf = true) : NextWf (execClass3Window s) := by
  unfold execClass3Window
  split
  · exact h
  · exact h

theorem execTailDoorbell_wf {s : State} (part q : Nat) (v : W32) (h : s.mem.wf = true) : NextWf (execTailDoorbell part q v s) := by
  unfold execTailDoorbell
  dsimp only
  repeat' split
  all_goals simpa using h

theorem execHeadWrite_wf {s : State} (part q : Nat) (v : W32) (h : s.mem.wf = true) : NextWf (execHeadWrite part q v s) := by
  unfold execHeadWrite
  dsimp only
  repeat' split
  all_goals simpa using h

theorem execHaltClear_wf {s : State} (part q : Nat) (h : s.mem.wf = true) : NextWf (execHaltClear part q s) := by
  unfold execHaltClear
  dsimp only
  split
  · exact h
  · exact h

theorem execConsWrite_wf {s : State} (part : Nat) (event : Bool) (v : W32) (h : s.mem.wf = true) : NextWf (execConsWrite part event v s) := by
  unfold execConsWrite
  dsimp only
  split
  · exact h
  · rw [nextWf_next, freeKilled_mem]
    exact State.drainQ_wf _ _ h

theorem execRegisterWrite_wf {s : State} (part : Nat) (r : WinReg) (v : W64) (h : s.mem.wf = true) : NextWf (execRegisterWrite part r v s) := by
  unfold execRegisterWrite
  dsimp only
  split
  · exact h
  · rw [nextWf_next]
    repeat' split
    all_goals simp [h, writeRecQ_wf]

theorem execErtConfigWrite_wf {s : State} (part e : Nat) (c : ErtConfig) (h : s.mem.wf = true) : NextWf (execErtConfigWrite part e c s) := by
  unfold execErtConfigWrite
  dsimp only
  repeat' split
  all_goals simpa using h

theorem execMasterCycle_wf {s : State} (die : Nat) (h : s.mem.wf = true) : NextWf (execMasterCycle die s) := by
  unfold execMasterCycle
  dsimp only
  split
  · exact h
  · exact wakeAll_wf h

theorem execDroopDetect_wf {s : State} (die : Nat) (h : s.mem.wf = true) : NextWf (execDroopDetect die s) := by
  unfold execDroopDetect
  split
  · exact h
  · exact h

theorem execDroopEnd_wf {s : State} (die : Nat) (h : s.mem.wf = true) : NextWf (execDroopEnd die s) := by
  unfold execDroopEnd
  dsimp only
  split
  · exact h
  · exact h

theorem execClockHop_wf {s : State} (die : Nat) (ph : HopPhase) (h : s.mem.wf = true) : NextWf (execClockHop die ph s) := by
  unfold execClockHop
  dsimp only
  repeat' split
  all_goals exact h

theorem execClockPatternChange_wf {s : State} (cluster : Nat) (km1 : BitVec 4) (h : s.mem.wf = true) : NextWf (execClockPatternChange cluster km1 s) := by
  unfold execClockPatternChange
  split
  · exact h
  · exact h

theorem execErrorDetected_wf {s : State} (u : HwUnit) (corrected : Bool) (owner : Option Nat) (victim : Option (Nat × Nat)) (h : s.mem.wf = true) :
    NextWf (execErrorDetected u corrected owner victim s) := by
  unfold execErrorDetected
  extract_lets counted tested
  have htested : tested.mem.wf = true := by simpa [tested, counted] using h
  split
  · split
    · exact wakeAll_wf (State.kill_wf _ _ _ htested)
    · exact htested
  · exact htested

theorem execSelfTestDone_wf {s : State} (u : HwUnit) (pass : Bool) (owner : Option Nat) (h : s.mem.wf = true) :
    NextWf (execSelfTestDone u pass owner s) := by
  unfold execSelfTestDone
  dsimp only
  split
  · exact h
  · split
    · simpa using h
    · split
      · split
        · exact wakeAll_wf (retireCore_wf _ (by simpa using h))
        · simpa using h
      · simpa using h
      · simpa using h

theorem execAdmissionLoadComplete_wf {s : State} (core ovid : Nat) (h : s.mem.wf = true) : NextWf (execAdmissionLoadComplete core ovid s) := by
  unfold execAdmissionLoadComplete
  split
  · exact wakeAll_wf (admissionLoad_wf _ _ h)
  · exact h

theorem execCounterTrigger_wf {s : State} (part q : Nat) (h : s.mem.wf = true) : NextWf (execCounterTrigger part q s) := by
  unfold execCounterTrigger
  dsimp only
  split
  · exact h
  · exact h

/-! ## Every instruction and event -/

theorem exec_wf (i : Instr) {s : State} (h : s.mem.wf = true) : NextWf (exec i s) := by
  cases i with
  -- lane results of one shape, written on the operating map
  | add | sub | mul | mulh | mad | min | max | neg | and_ | or_ | xor_ | not_ | shl | shr | popc | clz | bfx | bfi | sel | movi | mov | laneid
  | bcast | cvt | shfl | vput | thin | merge | fma | fmin | fmax | fneg | fabs | fcopysign => exact issue_wf (fun _ ht => writes_wf _ _ _ _ ht) h
  | scan | rank => exact issue_wf (fun _ ht => laneAll_wf _ _ _ ht) h
  | fadd | fsub | fmul | fdiv => exact issue_wf (fun _ ht => farith_wf _ _ _ _ ht) h
  | frcp | frsq | fsqrt | fexp2 | flog2 => exact issue_wf (fun _ ht => ffunc_wf _ _ _ _ ht) h
  | cmp | fcmp => exact issue_wf (fun _ ht => compare_wf _ _ _ _ ht) h
  | red | redidx | vget => exact issue_wf (fun _ ht => reads_wf _ _ ht) h
  -- results of the strand alone
  | pand | por | pxor | pandn | pnot | pmov | pfirst | prange | pmap | pcnt | pfind | elect | pget | pspan
  | sadd | ssub | sand | sor | sxor | sshl | sshr | ssar | smin | smax | smul | scmp | sli | bset | badd | bget | nop => exact issue_wf (fun _ ht => ht) h
  -- stores, branches and commands whose answer has a lemma of its own
  | sts | stb => exact issue_wf (fun _ ht => storeAt_wf _ _ _ _ _ _ _ ht) h
  | depDec | depAdd => exact issue_wf (fun _ ht => depEnter_wf _ _ _ _ ht) h
  | brk | cont => exact issue_wf (fun _ ht => leaveLanes_wf _ _ ht) h
  | ret | rett => exact issue_wf (fun _ ht => returnTo_wf _ _ ht) h
  | opinPin | opinUnpin => exact issue_wf (fun _ ht => setPin_wf _ _ _ ht) h
  | trap | bkpt => exact issue_wf (fun _ _ => trivial) h
  | xctlSetbias | xctlFlip | xctlRepl | xctlPin | xctlEvict | xctlClose => exact issue_wf (fun _ ht => xctl_wf _ _ _ ht) h
  -- one case for each branch of the meaning, whose answer is one of the shapes above
  | pput | ld | lds | st | atom | atoms | fence | ldb | pldm | pstm | spawn | depRead | tinv | cpy | cpgather | sort | bclose | xdisp | xpull | xctlSnap
  | setg | mrd | mst | if_ | else_ | endif | loop | endloop | call | ocall | opinQuery | setf | mfs =>
    refine issue_wf (fun t ht => ?_) h
    dsimp only [putMap, putS, ertAct]
    repeat' split
    all_goals simp [ht]
  | xctlDone | mzero | bra =>
    refine issue_wf (fun t ht => ?_) h
    repeat' split
    all_goals simp [ht]
  -- instructions with a lemma of their own
  | meet => exact execMeet_wf _ _ _ _ _ h
  | wait => exact execWait_wf _ _ _ _ _ _ h
  | ovld => exact execOvld_wf _ _ _ _ _ _ _ _ _ _ h
  | malloc => exact execMalloc_wf _ _ _ _ h
  | mfree => exact execMfree_wf _ _ h
  | mma => exact execMma_wf _ _ _ _ _ _ _ _ _ _ _ _ _ _ _ _ h
  | xbias => exact execXbias_wf _ _ _ _ h
  | exit => exact execExit_wf _ h
  | mts => exact execMts_wf _ _ _ h
  -- events
  | returnArrival sid ord lane => exact returnOne_wf sid ord lane false h
  | scalarReturn sid ord which => exact returnOne_wf sid ord which true h
  | storeQueueLeave => exact execStoreQueueLeave_wf _ h
  | spawnAppend => exact execSpawnAppend_wf _ h
  | writeArrival => exact execWriteArrival_wf _ _ h
  | atomicStep => exact execAtomicStep_wf _ _ h
  | qEntryReady => exact execQEntryReady_wf _ _ h
  | registerRestored => exact execRegisterRestored_wf _ _ h
  | copyTransfer => exact execCopyTransfer_wf _ _ _ _ _ h
  | sortComplete => exact execSortComplete_wf _ _ h
  | tinvStart => exact execTinvStart_wf _ _ h
  | tinvComplete => exact execTinvComplete_wf _ _ h
  | walkComplete => exact execWalkComplete_wf _ _ _ _ _ h
  | ovldComplete => exact execOvldComplete_wf _ _ _ h
  | admissionLoadComplete => exact execAdmissionLoadComplete_wf _ _ h
  | matrixCommit => exact execMatrixCommit_wf _ h
  | mrdExecute => exact execMrdExecute_wf _ h
  | mstWrite => exact execMstWrite_wf _ h
  | mallocGrant => exact execMallocGrant_wf _ h
  | engineHang => exact execEngineHang_wf _ h
  | runArbitration => exact execRunArbitration_wf _ h
  | recordHeadCheck => exact execRecordHeadCheck_wf _ _ h
  | counterTrigger => exact execCounterTrigger_wf _ _ h
  | frameCountRead => exact execFrameCountRead_wf _ _ _ h
  | frameAdmit => exact execFrameAdmit_wf _ _ _ _ _ h
  | successorBirth => exact execSuccessorBirth_wf _ h
  | deferredFillGrant => exact execDeferredFillGrant_wf _ h
  | fillComplete => exact execFillComplete_wf _ _ h
  | fillFail => exact execFillFail_wf _ _ _ h
  | evictionEnd => exact execEvictionEnd_wf _ _ h
  | replicaComplete => exact execReplicaComplete_wf _ _ h
  | xpullPop => exact execXpullPop_wf _ h
  | remoteSignal => exact execRemoteSignal_wf _ _ h
  | peerAccess => exact execPeerAccess_wf _ _ _ _ h
  | hostWindowAccess => exact execHostWindowAccess_wf _ _ _ _ h
  | tailDoorbell => exact execTailDoorbell_wf _ _ _ h
  | headWrite => exact execHeadWrite_wf _ _ _ h
  | haltClear => exact execHaltClear_wf _ _ h
  | ertConfigWrite => exact execErtConfigWrite_wf _ _ _ h
  | retry => exact execRetry_wf _ _ h
  | consWrite => exact execConsWrite_wf _ _ _ h
  | registerWrite => exact execRegisterWrite_wf _ _ _ h
  | create => exact execCreate_wf _ _ _ h
  | destroy => exact execDestroy_wf _ _ h
  | preempt => exact execPreempt_wf _ _ h
  | freezeComplete => exact execFreezeComplete_wf _ h
  | resume => exact execResume_wf _ _ _ h
  | readSign => exact execReadSign_wf _ _ h
  | quote => exact execQuote_wf _ _ _ h
  | engineReset => exact execEngineReset_wf _ _ h
  | warmReset => exact execWarmReset_wf _ h
  | status => exact execStatus_wf _ h
  | cert => exact execCert_wf _ h
  | powerGood => exact execPowerGood_wf h
  | stage1 => exact execStage1_wf _ h
  | energyEpochEnd => exact execEnergyEpochEnd_wf _ h
  | energyRefresh => exact execEnergyRefresh_wf _ h
  | class3Window => exact execClass3Window_wf h
  | droopDetect => exact execDroopDetect_wf _ h
  | droopEnd => exact execDroopEnd_wf _ h
  | clockHop => exact execClockHop_wf _ _ h
  | clockPatternChange => exact execClockPatternChange_wf _ _ h
  | errorDetected => exact execErrorDetected_wf _ _ _ _ h
  | selfTestDone => exact execSelfTestDone_wf _ _ _ h
  | braceCompare => exact execBraceCompare_wf _ h
  | fetchFault => exact execFetchFault_wf _ h
  | masterCycle => exact execMasterCycle_wf _ h
  | coldReset => exact execColdReset_wf h
  | powerLoss => exact execPowerLoss_wf h
  | creditReturn => exact execCreditReturn_wf _ h

/-! ## A step -/

theorem idle_wf {s : State} (h : s.mem.wf = true) : NextWf (idle s) := by
  unfold idle
  repeat' split
  all_goals exact exec_wf _ h

theorem coreStep_wf (c : Nat) {s : State} (h : s.mem.wf = true) : NextWf (coreStep c s) := by
  unfold coreStep
  dsimp only
  split
  · split
    · exact h
    · exact exec_wf _ h
    · exact exec_wf _ h
  · split
    · exact exec_wf _ h
    · exact idle_wf h

theorem choose_wf {s : State} (h : s.mem.wf = true) : NextWf (choose s) := by
  unfold choose
  split
  · split
    · exact exec_wf _ h
    · exact h
  · exact coreStep_wf _ h
  · exact coreStep_wf _ h

/-- Settles O59: memory changes by writes, clears, copies and filters alone, each of which keeps the canonical form. -/
theorem stepKeepsMemoryForm : Obligations.StepKeepsMemoryForm := by
  intro s t hs hstep
  obtain ⟨u, hu, rfl⟩ := step_next.mp hstep
  have hw : NextWf (.next u) := hu ▸ choose_wf hs
  exact hw

end Sys2Proof.Machine
end

section
namespace Sys2Proof.Machine

/-! # A strand that a state lists twice (O43)

Bringing an overlay to a core takes up the strands that wait to fetch there (R157, R228): `wakeFetch` finds them as entries of the
strand table and takes up the strand of each entry's key. Where the table lists a key once, entry and strand are the same, and no
strand but one parked at its fetch changes. O43 speaks of every state and does not ask, as O41 does, that the keys be distinct. In
the state below key 0 has two entries: the one that reads find is parked behind a marker whose returns are in, the other is parked
at its fetch. The birth of a successor frame finds the second and makes the first Ready. -/

/-- A record of one strand of 16 lanes, with overlay 1 of one slot. -/
def oneStrandRecord : TaskRec := BitVec.ofNat 1024 (2 ^ 14 + 15 * 2 ^ 164)

/-- A frame on core 0, handed over to a successor whose strand is not born yet. -/
def handedFrame : Frame := { Frame.blank with record := oneStrandRecord, cores := [0], bases := [0], gone := false, waitsSucc := true }

/-- A strand parked behind a marker, with no return outstanding. -/
def markedStrand : Strand := { Strand.blank with life := .parked .marker }

/-- A strand of core 0 parked at its fetch. -/
def fetchingStrand : Strand := { Strand.blank with life := .parked .fetch }

/-- A LIVE partition with the handed-over frame, in a state that lists strand 0 twice. -/
def listedTwice : State :=
  { State.reset with
    parts := [(0, { Part.free with st := .live, frames := [1], rcd := { freeRecord with clm := 1, win := List.range 16 } })]
    frames := [(1, handedFrame)]
    strands := [(0, markedStrand), (0, fetchingStrand)]
    next := 2 }

/-- The core of the handed-over frame takes its strand (R275). -/
theorem coreTakes_listedTwice :
    ∀ x ∈ handedFrame.cores.zipIdx, coreTakes listedTwice oneStrandRecord (strandsOn oneStrandRecord x.2).length x.1 = true := by
  decide +kernel

/-- The birth of the successor frame makes strand 0 Ready, though no read of it finds it parked at its fetch. -/
theorem successorBirth_listedTwice : ∃ t, exec (.successorBirth 1) listedTwice = .next t ∧ (t.strand 0).life = .ready := by
  have hready : (match execSuccessorBirth 1 listedTwice with
      | .next t => decide ((t.strand 0).life = .ready)
      | _ => false) = true := by decide +kernel
  change ∃ t, execSuccessorBirth 1 listedTwice = .next t ∧ _
  split at hready
  · next t hrun => exact ⟨t, hrun, of_decide_eq_true hready⟩
  · cases hready

/-- Refutes O43: its last clause says that the birth of a successor frame leaves every strand that is not parked at its fetch as it
was, and in a state that lists a strand twice it does not. -/
theorem not_frameAdmission : ¬ Obligations.FrameAdmission := by
  rintro ⟨-, -, -, births⟩
  obtain ⟨-, birth⟩ := births 1 listedTwice
  have hread : ¬(((listedTwice.part 0).launch 0).succRead = false ∧ recSv ((listedTwice.part 0).launch 0).record = true) := by decide +kernel
  obtain ⟨-, -, born⟩ := birth (by decide) (by decide) rfl rfl rfl rfl rfl (by decide) coreTakes_listedTwice (by decide +kernel)
  obtain ⟨t, hrun, -, -, -, hkept, -⟩ := born (fun h => hread h.1) (fun h => hread h.1)
  have hmarked : t.strand 0 = markedStrand := hkept 0 (by decide) (by decide)
  obtain ⟨w, hrun', hready⟩ := successorBirth_listedTwice
  obtain rfl : t = w := Host.Outcome.next.inj (hrun.symm.trans hrun')
  rw [hmarked] at hready
  cases hready

end Sys2Proof.Machine
end

section
namespace Sys2Proof

/-! # Decoder and encoder (O55, O56) -/

/-! ## Opcodes -/

theorem opcodeOf_code (o : Opc) : opcodeOf o.code = some o := by
  cases o <;> decide

theorem code_of_opcodeOf {n : BitVec 7} {o : Opc} (h : opcodeOf n = some o) : o.code = n := by
  simpa using List.find?_some h

theorem Opc.eq_nop_of_lay {op : Opc} (h : op.lay = .n) : op = .nop := by
  cases op <;> simp_all [Opc.lay]

theorem Opc.len_ne_three (op : Opc) : op.len ≠ 3 := by
  cases op <;> decide

/-! ## Fields of a word -/

/-- The opcode of the fields. -/
def Fields.op : Fields → Opc
  | .n _ _ => .nop
  | .v f => f.op
  | .c f => f.op
  | .s f => f.op

/-- The marks of the fields. -/
def Fields.marks : Fields → Marks
  | .n k _ => k
  | .v f => f.k
  | .c f => f.k
  | .s f => f.k

/-- The layout of the fields. -/
def Fields.lay : Fields → Lay
  | .n _ _ => .n
  | .v _ => .v
  | .c _ => .c
  | .s _ => .s

/-- Bits [63:11] of the first word. -/
def Fields.high : Fields → BitVec 53
  | .n _ hint => hint
  | .v f => f.imm ++ f.ord ++ f.sp ++ f.sc ++ f.ty ++ f.m ++ f.z ++ f.y ++ f.x ++ f.sub
  | .c f => f.imm ++ f.off ++ f.kk ++ f.sub
  | .s f => f.imm ++ BitVec.ofBool f.bi ++ f.sb ++ f.sa ++ f.sd ++ f.sub

theorem Fields.first_eq (f : Fields) (h : f.op.len = f.ext.len) : f.first = f.high ++ lowBits f.op f.marks f.op.len := by
  rw [h]
  cases f <;> rfl

/-- The fields have the layout and the length that their opcode has (R51). -/
def Fields.Fits (f : Fields) : Prop := f.op.lay = f.lay ∧ f.op.len = f.ext.len

theorem toFields_fits {i : Instr} {f : Fields} (h : toFields i = some f) : f.Fits := by
  cases i <;> cases h <;> exact ⟨rfl, rfl⟩

/-! ## From fields to bits and back -/

theorem marksOf_append_lowBits (hi : BitVec 53) (op : Opc) (k : Marks) (len : BitVec 2) : marksOf (hi ++ lowBits op k len) = k := by
  simp only [marksOf, bitAt, lowBits, BitVec.getLsbD_append, BitVec.getLsbD_ofBool]
  rfl

theorem code_append_lowBits (hi : BitVec 53) (op : Opc) (k : Marks) (len : BitVec 2) :
    (hi ++ lowBits op k len).extractLsb' 4 7 = op.code := by
  simp (disch := decide) only [lowBits, BitVec.extractLsb'_append_eq_of_add_le, BitVec.extractLsb'_append_eq_of_le]
  exact BitVec.extractLsb'_eq_self

theorem len_append_lowBits (hi : BitVec 53) (op : Opc) (k : Marks) (len : BitVec 2) :
    (hi ++ lowBits op k len).extractLsb' 0 2 = len := by
  simp (disch := decide) only [lowBits, BitVec.extractLsb'_append_eq_of_add_le]
  exact BitVec.extractLsb'_eq_self

theorem Fields.parse_first {f : Fields} (h : f.Fits) : Fields.parse f.op f.first f.ext = f := by
  obtain ⟨hlay, hlen⟩ := h
  have hk : marksOf f.first = f.marks := by rw [f.first_eq hlen, marksOf_append_lowBits]
  unfold Fields.parse
  rw [hlay, hk]
  cases f with
  | n k hint => exact congrArg _ BitVec.extractLsb'_append_eq_left
  | v f | c f =>
    simp (disch := decide) only [Fields.lay, Fields.first, BitVec.extractLsb'_append_eq_of_le, BitVec.extractLsb'_append_eq_of_add_le,
      Nat.reduceSub, BitVec.extractLsb'_eq_self]
    rfl
  | s f =>
    simp (disch := decide) only [Fields.lay, Fields.first, BitVec.extractLsb'_append_eq_of_le, BitVec.extractLsb'_append_eq_of_add_le,
      Nat.reduceSub, BitVec.extractLsb'_eq_self, bitAt, BitVec.getLsbD_append, BitVec.getLsbD_ofBool]
    rfl

theorem ofBool_bitAt (w : W64) (i : Nat) : BitVec.ofBool (bitAt w i) = w.extractLsb' i 1 := by
  ext j hj
  obtain rfl : j = 0 := by omega
  simp [bitAt]

theorem lowBits_marksOf {op : Opc} {w : W64} (hop : op.code = w.extractLsb' 4 7) (hlen : op.len = w.extractLsb' 0 2) :
    lowBits op (marksOf w) op.len = w.extractLsb' 0 11 := by
  simp only [lowBits, marksOf, ofBool_bitAt, hop, hlen, BitVec.extractLsb'_append_extractLsb'_eq_extractLsb']

theorem Fields.first_parse {op : Opc} {w : W64} {x : Ext} (hop : op.code = w.extractLsb' 4 7) (hlen : op.len = w.extractLsb' 0 2)
    (hx : op.len = x.len) : (Fields.parse op w x).first = w := by
  have hlow := lowBits_marksOf hop hlen
  unfold Fields.parse
  split
  · next hlay =>
    obtain rfl := Opc.eq_nop_of_lay hlay
    change w.extractLsb' 11 53 ++ lowBits .nop (marksOf w) Opc.nop.len = w
    rw [hlow]
    exact (BitVec.extractLsb'_append_extractLsb'_eq_extractLsb' rfl).trans BitVec.extractLsb'_eq_self
  all_goals
    simp only [Fields.first, ← hx, hlow, ofBool_bitAt, BitVec.extractLsb'_append_extractLsb'_eq_extractLsb']
    exact BitVec.extractLsb'_eq_self

theorem Fields.ext_parse {op : Opc} {w : W64} {x : Ext} (hx : op.len = x.len) : (Fields.parse op w x).ext = x := by
  unfold Fields.parse
  split
  · next hlay =>
    obtain rfl := Opc.eq_nop_of_lay hlay
    cases x with
    | none => rfl
    | w32 _ | w64 _ => cases hx
  all_goals rfl

/-! ## Extensions -/

theorem Ext.words_eq (x : Ext) : x.words = x.len.toNat + 2 := by
  cases x <;> rfl

theorem Ext.bits_w32 (v : W32) : (Ext.w32 v).bits.toNat = v.toNat := by
  simp only [Ext.bits, BitVec.toNat_append]
  simp

/-- The three length codes of R36. -/
theorem length_cases {len : BitVec 2} (h : len ≠ 3) : len = 0 ∨ len = 1 ∨ len = 2 := by
  bv_omega

theorem Ext.len_parse {len : BitVec 2} (h : len ≠ 3) (w : W64) : (Ext.parse len w).len = len := by
  obtain rfl | rfl | rfl := length_cases h <;> rfl

/-- An extension holds the bits that its length takes (R42). -/
theorem Ext.bits_parse {len : BitVec 2} (h : len ≠ 3) (w : W64) : (Ext.parse len w).bits.toNat = w.toNat % 2 ^ (32 * len.toNat) := by
  obtain rfl | rfl | rfl := length_cases h
  · simp [Ext.parse, Ext.bits, Nat.mod_one]
  · exact (Ext.bits_w32 _).trans (BitVec.extractLsb'_toNat ..)
  · simp [Ext.parse, Ext.bits, Nat.mod_eq_of_lt w.isLt]

theorem Ext.parse_bits {x : Ext} {w : W64} (h : w.toNat % 2 ^ (32 * x.len.toNat) = x.bits.toNat) : Ext.parse x.len w = x := by
  cases x with
  | none => rfl
  | w32 v =>
    have hv : w.extractLsb' 0 32 = v := BitVec.eq_of_toNat_eq (by simpa [Ext.len, Ext.bits_w32] using h)
    exact congrArg Ext.w32 hv
  | w64 v =>
    have hv : w = v := BitVec.eq_of_toNat_eq (by simpa [Ext.len, Ext.bits, Nat.mod_eq_of_lt w.isLt] using h)
    exact congrArg Ext.w64 hv

/-! ## Words -/

theorem Fields.bits_toNat (f : Fields) : f.bits.toNat = f.first.toNat + 2 ^ 64 * f.ext.bits.toNat := by
  rw [Fields.bits, BitVec.toNat_append, ← Nat.shiftLeft_add_eq_or_of_lt f.first.isLt, Nat.shiftLeft_eq]
  omega

/-- The first word and the extension of the lowest `n + 2` words of 32 bits. -/
theorem mod_words (w : BitVec 128) (n : Nat) :
    w.toNat % 2 ^ (32 * (n + 2)) = (w.extractLsb' 0 64).toNat + 2 ^ 64 * ((w.extractLsb' 64 64).toNat % 2 ^ (32 * n)) := by
  have hw : w.toNat / 2 ^ 64 < 2 ^ 64 := by have := w.isLt; omega
  rw [show 32 * (n + 2) = 64 + 32 * n by omega, pow_add, Nat.mod_mul]
  simp only [BitVec.extractLsb'_toNat, Nat.shiftRight_eq_div_pow, pow_zero, Nat.div_one, Nat.mod_eq_of_lt hw]

/-- A word whose lowest bits are those of the fields splits into their first word and their extension. -/
theorem Fields.split_bits {f : Fields} {w : BitVec 128} (h : w.toNat % 2 ^ (32 * f.ext.words) = f.bits.toNat) :
    w.extractLsb' 0 64 = f.first ∧ Ext.parse f.ext.len (w.extractLsb' 64 64) = f.ext := by
  rw [Ext.words_eq, mod_words, f.bits_toNat] at h
  have hlo := (w.extractLsb' 0 64).isLt
  have hfirst := f.first.isLt
  exact ⟨BitVec.eq_of_toNat_eq (by omega), Ext.parse_bits (by omega)⟩

/-! ## The decoder -/

theorem check_ok {pair : Bool} {f : Fields} {i : Instr} :
    check pair f = .ok i ↔ ofFields f = .ok i ∧ WellFormed pair i = true ∧ toFields i = some f := by
  unfold check
  split
  · next e he => simp [he]
  · next j hj =>
    rw [hj]
    cases hw : WellFormed pair j
    · simp only [if_true, reduceCtorEq, Except.ok.injEq, false_iff]
      rintro ⟨rfl, hwf, -⟩
      rw [hw] at hwf
      cases hwf
    · by_cases ht : toFields j = some f
      · simp only [ht, reduceCtorEq, if_true, if_false, Except.ok.injEq]
        exact ⟨fun h => h ▸ ⟨rfl, hw, ht⟩, fun h => h.1⟩
      · simp only [ht, reduceCtorEq, if_false, Except.ok.injEq, false_iff]
        rintro ⟨rfl, -, h⟩
        exact ht h

theorem encode_eq {i : Instr} {f : Fields} (h : toFields i = some f) : encode i = some (f.bits, f.ext.words) := by
  simp only [encode, h]

/-- Where steps 1 to 4 of R53 pass, the decoder answers what steps 5 to 7 answer on the fields. -/
theorem decode_eq {pair : Bool} {room : Nat} {w : BitVec 128} {op : Opc} (hop : op.code = w.extractLsb' 4 7)
    (hlen : op.len = w.extractLsb' 0 2) (hroom : op.len.toNat + 2 ≤ room) : decode pair room w =
      (check pair (Fields.parse op (w.extractLsb' 0 64) (Ext.parse op.len (w.extractLsb' 64 64)))).map (·, op.len.toNat + 2) := by
  unfold decode
  rw [← hlen, ← hop, opcodeOf_code]
  dsimp only
  rw [if_neg op.len_ne_three, if_neg (Nat.not_lt.mpr hroom), if_neg (not_not.mpr rfl)]
  cases check pair _ <;> rfl

/-- Steps 1 to 4 of R53 pass where a word decodes. -/
theorem decode_steps {pair : Bool} {room : Nat} {w : BitVec 128} {r : Instr × Nat} (h : decode pair room w = .ok r) :
    ∃ op : Opc, op.code = w.extractLsb' 4 7 ∧ op.len = w.extractLsb' 0 2 ∧ op.len.toNat + 2 ≤ room := by
  unfold decode at h
  dsimp only at h
  split at h
  · cases h
  · split at h
    · cases h
    · next hroom =>
      split at h
      · cases h
      · next op hop =>
        split at h
        · cases h
        · next hlen =>
          rw [← not_not.mp hlen] at hroom
          exact ⟨op, code_of_opcodeOf hop, not_not.mp hlen, Nat.not_lt.mp hroom⟩

/-- The decoder reads fields back from their bits, whatever stands behind them. -/
theorem decode_bits {pair : Bool} {room : Nat} {w : BitVec 128} {f : Fields} (hf : f.Fits) (hroom : f.ext.words ≤ room)
    (hw : w.toNat % 2 ^ (32 * f.ext.words) = f.bits.toNat) : decode pair room w = (check pair f).map (·, f.ext.words) := by
  obtain ⟨hfirst, hext⟩ := Fields.split_bits hw
  obtain ⟨-, hlen⟩ := id hf
  have hop : w.extractLsb' 4 7 = f.op.code := by
    rw [← BitVec.extractLsb'_extractLsb'_of_le (len' := 64) (by decide), hfirst, f.first_eq hlen, code_append_lowBits]
  have hlow : w.extractLsb' 0 2 = f.op.len := by
    rw [← BitVec.extractLsb'_extractLsb'_of_le (len' := 64) (by decide), hfirst, f.first_eq hlen, len_append_lowBits]
  rw [Ext.words_eq, ← hlen] at hroom ⊢
  rw [decode_eq hop.symm hlow.symm hroom, hlen, hext, hfirst, Fields.parse_first hf]

/-- The bits of the fields of a word are those that its length takes. -/
theorem bits_parse {w : BitVec 128} {op : Opc} (hop : op.code = w.extractLsb' 4 7) (hlen : op.len = w.extractLsb' 0 2) :
    (Fields.parse op (w.extractLsb' 0 64) (Ext.parse op.len (w.extractLsb' 64 64))).bits.toNat = w.toNat % 2 ^ (32 * (op.len.toNat + 2)) := by
  have hx := (Ext.len_parse op.len_ne_three (w.extractLsb' 64 64)).symm
  rw [mod_words, Fields.bits_toNat, Fields.ext_parse hx, Ext.bits_parse op.len_ne_three,
    Fields.first_parse (hop.trans (BitVec.extractLsb'_extractLsb'_of_le (by decide)).symm)
      (hlen.trans (BitVec.extractLsb'_extractLsb'_of_le (by decide)).symm) hx]

/-- Settles O56: the fields hold every bit of the word, and the reserved ones are checked by writing the instruction again. -/
theorem decodedWordsReencode : Obligations.DecodedWordsReencode := by
  intro pair room w i n h
  obtain ⟨op, hop, hlen, hroom⟩ := decode_steps h
  rw [decode_eq hop hlen hroom] at h
  have hx := (Ext.len_parse op.len_ne_three (w.extractLsb' 64 64)).symm
  have hbits := bits_parse hop hlen
  have hext := Fields.ext_parse (w := w.extractLsb' 0 64) hx
  generalize Fields.parse op (w.extractLsb' 0 64) (Ext.parse op.len (w.extractLsb' 64 64)) = f at *
  cases hc : check pair f with
  | error e => rw [hc] at h; cases h
  | ok j =>
    rw [hc] at h
    cases h
    obtain ⟨-, hwf, hf⟩ := check_ok.mp hc
    refine ⟨hwf, hroom, ?_⟩
    rw [encode_eq hf, ← hbits, BitVec.ofNat_toNat, BitVec.setWidth_eq, Ext.words_eq, hext, ← hx]

end Sys2Proof
end

section
namespace Sys2Proof

/-! ## Codes: each is read back as what it was made of -/

@[simp] theorem tyOf_code (t : Ty) : tyOf t.code = .ok t := by cases t <;> rfl
@[simp] theorem scopeOf_code (c : Scope) : scopeOf c.code = .ok c := by cases c <;> rfl
@[simp] theorem spaceOf_code (c : Space) : spaceOf c.code = .ok c := by cases c <;> rfl
@[simp] theorem ordOf_code (o : Ordn) : ordOf o.code = o := by cases o <;> rfl
@[simp] theorem variant_icond (c : ICond) : variant allICond c.code = .ok c := by cases c <;> rfl
@[simp] theorem variant_fcond (c : FCond) : variant allFCond c.code = .ok c := by cases c <;> rfl
@[simp] theorem variant_scond (c : SCond) : variant allSCond c.code = .ok c := by cases c <;> rfl
@[simp] theorem variant_cvtSrc (c : CvtSrc) : variant allCvtSrc c.code = .ok c := by cases c <;> rfl
@[simp] theorem variant_redOp (c : RedOp) : variant allRedOp c.code = .ok c := by cases c <;> rfl
@[simp] theorem variant_scanOp (c : ScanOp) : variant allScanOp c.code = .ok c := by cases c <;> rfl
@[simp] theorem variant_atomOp (c : AtomOp) : variant allAtomOp c.code = .ok c := by cases c <;> rfl
@[simp] theorem variant_meetForm (c : MeetForm) : variant allMeetForm c.code = .ok c := by cases c <;> rfl
@[simp] theorem variant_cpySize (c : CpySize) : variant allCpySize c.code = .ok c := by cases c <;> rfl
@[simp] theorem variant_bit (b : Bool) : variant [false, true] (bit4 b 0) = .ok b := by cases b <;> rfl
@[simp] theorem satOf_satSub (b : Bool) : satOf (satSub b) = b := by cases b <;> rfl

@[simp] theorem scalOf_scal (s : SCode) : scalOf (scal s) = .ok s := by
  have hs : (scal s).toNat < 64 := by simp only [scal, BitVec.toNat_append]; simp; omega
  rw [scalOf, if_pos hs]
  exact congrArg _ BitVec.extractLsb'_append_eq_right

@[simp] theorem base7Of_base7 (b : BCode) : base7Of (base7 b) = .ok b := by
  have hb : (base7 b).extractLsb' 4 3 = 4 := BitVec.extractLsb'_append_eq_left
  rw [base7Of, if_pos hb]
  exact congrArg _ BitVec.extractLsb'_append_eq_right

@[simp] theorem base6Of_base6 (b : BCode) : base6Of (base6 b) = .ok b := by
  have hb : (base6 b).toNat < 16 := by simp only [base6, BitVec.toNat_append]; simp; omega
  rw [base6Of, if_pos hb]
  exact congrArg _ BitVec.extractLsb'_append_eq_right

theorem number_arg (i : BitVec 4) : (SReg.arg i).number.extractLsb' 4 6 = 0x01 ∧ (SReg.arg i).number.extractLsb' 0 4 = i :=
  ⟨BitVec.extractLsb'_append_eq_left, BitVec.extractLsb'_append_eq_right⟩

theorem number_chweight (i : BitVec 4) : (SReg.chweight i).number.extractLsb' 4 6 = 0x21 ∧ (SReg.chweight i).number.extractLsb' 0 4 = i :=
  ⟨BitVec.extractLsb'_append_eq_left, BitVec.extractLsb'_append_eq_right⟩

@[simp] theorem sregOf_number (n : SReg) : sregOf n.number = .ok n := by
  cases n with
  | arg i => rw [sregOf, if_pos (number_arg i).1, (number_arg i).2]
  | chweight i =>
    obtain ⟨hhigh, hlow⟩ := number_chweight i
    rw [sregOf, if_neg (by rw [hhigh]; decide), if_pos hhigh, hlow]
  | _ => rfl

@[simp] theorem sopB_sF (op : Opc) (k : Marks) (sub : BitVec 4) (d a : BitVec 6) (b : SOpB) : sopB (sF op k sub d a b) = b := by
  cases b <;> rfl

theorem CpyExt.parse_bits (e : CpyExt) : CpyExt.parse e.bits = e := by
  simp (disch := decide) only [CpyExt.parse, CpyExt.bits, BitVec.extractLsb'_append_eq_of_le, BitVec.extractLsb'_append_eq_of_add_le,
    Nat.reduceSub, BitVec.extractLsb'_eq_self, BitVec.getLsbD_append, BitVec.getLsbD_ofBool]
  rfl

theorem GatherExt.parse_bits (e : GatherExt) : GatherExt.parse e.bits = e := by
  simp (disch := decide) only [GatherExt.parse, GatherExt.bits, BitVec.extractLsb'_append_eq_of_le, BitVec.extractLsb'_append_eq_of_add_le,
    Nat.reduceSub, BitVec.extractLsb'_eq_self, BitVec.getLsbD_append, BitVec.getLsbD_ofBool]
  rfl

/-! ## Composite codes -/

theorem Space.spaceOf_kind3 (sp : Space) : sp.kind3 ≠ 3 ∧ sp.kind3 ≠ 4 ∧ sp.kind3.toNat < 3 ∧ spaceOf (sp.kind3.extractLsb' 0 2) = .ok sp := by
  cases sp <;> decide

theorem cpyDstOf_code {d : CpyDst} {e : CpyExt} (hk : e.dk = d.code.2.1) (hb : e.db = d.code.2.2.1) (hs : e.ds = d.code.2.2.2) :
    cpyDstOf d.code.1 e = .ok d := by
  unfold cpyDstOf
  rw [hk, hb, hs]
  cases d with
  | near sp b x =>
    obtain ⟨h3, h4, hlt, hsp⟩ := sp.spaceOf_kind3
    simp only [CpyDst.code, h3, h4, hlt, hsp, if_true, if_false]
    rfl
  | far b s x =>
    simp only [CpyDst.code, if_true, base6Of_base6]
    rfl
  | queue q =>
    have hx : ((0x1E : BitVec 5) ++ q).extractLsb' 2 5 = 0x1E := BitVec.extractLsb'_append_eq_left
    have hq : ((0x1E : BitVec 5) ++ q).extractLsb' 0 2 = q := BitVec.extractLsb'_append_eq_right
    show (if ((0x1E : BitVec 5) ++ q).extractLsb' 2 5 = 0x1E then Except.ok (CpyDst.queue (((0x1E : BitVec 5) ++ q).extractLsb' 0 2))
      else .error FetchErr.illegalOperand) = .ok (.queue q)
    rw [if_pos hx, hq]

theorem cpySrcOf_code {c : CpySrc} {e : CpyExt} (hk : e.sk = c.code.1) (hb : e.sb = c.code.2.1) (hs : e.ss = c.code.2.2) :
    cpySrcOf e = .ok c := by
  unfold cpySrcOf
  rw [hk, hb, hs]
  cases c with
  | near sp b =>
    have hsp : sp.code ≠ 3 := by cases sp <;> decide
    simp only [CpySrc.code, hsp, if_false, spaceOf_code]
    rfl
  | far b s =>
    simp only [CpySrc.code, if_true, base6Of_base6]
    rfl

theorem ctrOf_code {c : Option (BitVec 16 × Bool)} {e : CpyExt} (hc : e.ctr = (ctrCode c).1) (he : e.ce = (ctrCode c).2.1)
    (hm : e.crm = (ctrCode c).2.2) : ctrOf e = .ok c := by
  unfold ctrOf
  rw [hc, he, hm]
  cases c <;> rfl

theorem variant_shflKind (v : ShflKind) :
    variant [ShflKind.idx v.code.2.1, .up v.code.2.2, .down v.code.2.2, .xor v.code.2.2] v.code.1 = .ok v := by
  cases v <;> rfl

end Sys2Proof
end

section
namespace Sys2Proof

@[simp] theorem ok_bind {ε α β : Type} (a : α) (g : α → Except ε β) : (Except.ok a >>= g) = g a := rfl
@[simp] theorem ok_pure {ε α : Type} (a : α) : (pure a : Except ε α) = .ok a := rfl
@[simp] theorem plain_zero : plain 0#4 = .ok () := rfl
@[simp] theorem only_self {n : Nat} (c : BitVec n) : only c c = .ok () := if_pos rfl

/-! ## Instructions from their fields -/

theorem ofFields_atom {k : Marks} {op : AtomOp} {ty : Ty} {o : Ordn} {sc : Scope} {sp : Space} {res : Bool} {x : VCode} {y : SCode}
    {z vs : VCode} {m : MCode} {imm : W32} (hx : (res || decide (x = 0)) = true) :
    ofFields (.v (nearF .atom k op.code ty o sc sp x (scal y) z m ((0 : BitVec 2) ++ BitVec.ofBool res ++ vs) imm)) =
      .ok (.atom k op ty o sc sp res x y z vs m imm) := by
  have hres : ((0 : BitVec 2) ++ BitVec.ofBool res ++ vs).getLsbD 7 = res := by
    simp only [BitVec.getLsbD_append, BitVec.getLsbD_ofBool]
    rfl
  have hvs : ((0 : BitVec 2) ++ BitVec.ofBool res ++ vs).extractLsb' 0 7 = vs := BitVec.extractLsb'_append_eq_right
  have hkeep : (if res = true then x else 0) = x := by
    cases res
    · exact (of_decide_eq_true hx).symm
    · rfl
  simp only [ofFields, ofV, nearF, variant_atomOp, scalOf_scal, unNear, tyOf_code, scopeOf_code, spaceOf_code, ordOf_code, ok_bind, ok_pure,
    Ext.imm32, hres, hvs, hkeep]

theorem ofFields_movi {k : Marks} {t : Ty} {x : VCode} {m : MCode} {imm : W32} {pair : Bool} (hw : WellFormed pair (.movi k t x m imm) = true) :
    ofFields (.v { op := .movi, k := k, ty := t.code, x := x, m := m, ext := .w32 imm }) = .ok (.movi k t x m imm) := by
  have hhalf (h : imm.toNat < 65536) : (0 : BitVec 16) ++ imm.extractLsb' 0 16 = imm := by
    apply BitVec.eq_of_toNat_eq
    rw [BitVec.toNat_append]
    simp
    omega
  simp only [ofFields, ofV, tyOf_code, ok_bind, ok_pure, Ext.imm32]
  simp only [WellFormed, Bool.and_eq_true] at hw
  obtain ⟨⟨ht, -⟩, -⟩ := hw
  cases t with
  | bf16 | f16 => rw [hhalf (of_decide_eq_true ht)]
  | _ => rfl

theorem ofFields_toFields {pair : Bool} {i : Instr} {f : Fields} (hw : WellFormed pair i = true) (h : toFields i = some f) :
    ofFields f = .ok i := by
  cases i with
  -- no code of a class
  | nop | if_ | else_ | endif | loop | brk | cont | endloop | call | ret | rett | exit | trap | bkpt | pand | por | pxor | pandn | pnot | pmov
  | pmap | elect | popc | clz | laneid | xbias | sli => cases h; rfl
  -- codes of types, classes and registers, and variants from a list of their own
  | thin | merge | add | sub | mul | mulh | min | max | neg | and_ | or_ | xor_ | not_ | shl | shr | bfx | mov | bcast | rank | vget | vput
  | fadd | fsub | fmul | fmin | fmax | fdiv | frcp | frsq | fsqrt | fexp2 | flog2 | cvt | red | redidx | scan
  | ocall | pcnt | pfind | pspan | bclose | tinv | mfree | fence | ld | lds | st | sts =>
    cases h
    simp [ofFields, ofV, ofC, v3F, v2F, nearF, un3, un2, unNear, Ext.imm32]
  -- a variant of the opcode
  | fneg | fabs | fcopysign | pfirst | prange | pget | pput | depDec | depAdd | depRead | ldb | stb | pldm | pstm
  | xctlSetbias | xctlFlip | xctlRepl | xctlEvict | xctlDone | xctlSnap =>
    cases h
    simp [ofFields, ofV, v3F, v2F, un3, un2, variant]
  | sadd | ssub | sand | sor | sxor | sshl | sshr | ssar | smin | smax =>
    cases h
    simp only [ofFields, ofS, sopB_sF]
    rfl
  | smul | setf | setg | scmp =>
    cases h
    simp only [ofFields, ofS, sopB_sF]
    simp [sF]
  | bset | badd =>
    cases h
    simp only [ofFields, ofS, sopB_sF]
    simp [sF, variant]
  -- codes packed into IMM10 or an extension
  | mad | bfi | cmp | sel | fma | fcmp | meet | sort | malloc | mzero | mrd | mst | xdisp | xpull | mfs | mts | spawn =>
    cases h
    simp (disch := decide) [ofFields, ofV, ofS, v3F, un3, unNear, Ext.imm32, BitVec.extractLsb'_append_eq_of_le,
      BitVec.extractLsb'_append_eq_of_add_le, -Nat.reduceAdd]
  | opinPin | opinUnpin | opinQuery =>
    cases h
    simp (disch := decide) [ofFields, ofV, variant, BitVec.extractLsb'_append_eq_of_add_le, -Nat.reduceAdd]
  -- flags, field by field
  | bget k d a b | xctlPin k x y b | xctlClose k b =>
    cases h
    cases b <;> simp [ofFields, ofV, ofS, variant]
  | wait k vis mx trp x y =>
    cases h
    cases vis <;> cases mx <;> cases trp <;> simp [ofFields, ofV, variant]
  | mma k t maj gng o sc sp x y z m kb sk spl sm rs =>
    cases h
    simp (disch := decide) only [ofFields, ofV, unNear, tyOf_code, scopeOf_code, spaceOf_code, ordOf_code, scalOf_scal, ok_bind, ok_pure,
      Ext.imm64, BitVec.extractLsb'_append_eq_of_le, BitVec.extractLsb'_append_eq_of_add_le, Nat.reduceSub, BitVec.extractLsb'_eq_self]
    cases maj <;> cases gng <;> rfl
  -- operands with a shape of their own
  | bra k c off =>
    cases h
    cases c <;> simp [ofFields, ofC, variant, BraCond.code]
  | shfl k v x y m =>
    cases h
    simp only [ofFields, ofV, variant_shflKind, ok_bind, ok_pure]
  | movi => cases h; exact ofFields_movi hw
  | atom k op t o sc sp res x y z vs m imm =>
    cases h
    simp only [WellFormed, Bool.and_eq_true] at hw
    obtain ⟨⟨⟨⟨-, hx⟩, -⟩, -⟩, -⟩ := hw
    exact ofFields_atom hx
  | atoms k op t o sc sp x y z e imm =>
    cases h
    simp only [WellFormed, Bool.and_eq_true, Bool.or_eq_true, decide_eq_true_eq] at hw
    obtain ⟨-, he⟩ := hw
    have hkeep : (if op = .cas then e else 0) = e := by
      split
      · rfl
      · next hop => exact (he.resolve_left hop).symm
    simp (disch := decide) only [ofFields, ofV, nearF, unNear, variant_atomOp, tyOf_code, scopeOf_code, spaceOf_code, ordOf_code, scalOf_scal,
      ok_bind, ok_pure, Ext.imm32, BitVec.extractLsb'_append_eq_of_add_le, BitVec.extractLsb'_eq_self, hkeep]
  | cpy k size o sc dst src y m ctr =>
    cases h
    simp only [ofFields, ofV, variant_cpySize, scopeOf_code, ordOf_code, ok_bind, ok_pure, Ext.imm64, CpyExt.parse_bits]
    rw [cpyDstOf_code rfl rfl rfl, cpySrcOf_code rfl rfl rfl, ctrOf_code rfl rfl rfl]
    rfl
  | cpgather k src o sc sp x y z str ro wl m ctr =>
    cases h
    simp only [ofFields, ofV, scopeOf_code, spaceOf_code, ordOf_code, scalOf_scal, ok_bind, ok_pure, Ext.imm64, GatherExt.parse_bits]
    cases src <;> cases ctr <;> simp [GatherSrc.code, variant]
  | ovld k src o sc y z ss slot idi cnt =>
    cases h
    cases src <;>
      simp (disch := decide) [ofFields, ofV, OvldSrc.code, variant, Ext.imm64, BitVec.extractLsb'_append_eq_of_le,
        BitVec.extractLsb'_append_eq_of_add_le, -Nat.reduceAdd]
  -- events
  | _ => cases h

theorem toFields_of_not_event {i : Instr} (h : Machine.isEvent i = false) : ∃ f, toFields i = some f :=
  Option.isSome_iff_exists.mp (by simpa [Machine.isEvent] using h)

/-- Settles O55: the decoder reads the fields back from the bits, and from the fields the instruction. -/
theorem decodeEncodeRoundTrip : Obligations.DecodeEncodeRoundTrip := by
  intro pair i hw hi
  obtain ⟨f, hf⟩ := toFields_of_not_event hi
  refine ⟨f.bits, f.ext.words, encode_eq hf, ?_, ?_, fun room w hroom hbits => ?_⟩
  · cases f.ext <;> simp [Ext.words]
  · cases f.ext <;> simp [Ext.words]
  · rw [decode_bits (toFields_fits hf) hroom hbits, check_ok.mpr ⟨ofFields_toFields hw hf, hw, hf⟩]
    rfl

end Sys2Proof
end

section
namespace Sys2Proof.Machine

/-! # The words that the spec assembles (O57) -/

/-- Settles O57: the decoder is run on each word. -/
theorem specWordsDecode : Obligations.SpecWordsDecode := by
  constructor
  · decide
  · decide

end Sys2Proof.Machine
end

section
namespace Sys2Proof.Machine

/-! # A step of a core (O58) -/

theorem little_eq_ofBytes (b : List Byte) : Claim.little b = ofBytes b := by
  induction b with
  | nil => rfl
  | cons x r ih =>
    have hstep : Claim.little (x :: r) = x.toNat + 256 * Claim.little r := by
      simp only [Claim.little, List.length_cons, List.range_succ_eq_map, List.map_cons, List.map_map, List.sum_cons,
        List.getD_cons_zero, Nat.pow_zero, Nat.mul_one, ← List.sum_map_mul_left]
      congr 2
      refine List.map_congr_left fun i _ => ?_
      simp only [Function.comp_apply, List.getD_cons_succ, Nat.succ_eq_add_one, Nat.pow_succ]
      ring
    rw [hstep, ih, ofBytes]

theorem isFill_iff {s : State} {k : Nat} : Claim.IsFill s k ↔ ofBytes (s.mem.readN k 4) = 2 ^ 32 - 1 := by
  rw [Claim.IsFill, little_eq_ofBytes]
  rfl

/-! ## Fetch -/

section
variable {s : State} {t : Strand} {pc : PC} {j room : Nat}

theorem blockRoom_of_located (hl : Claim.Located s t pc j room) : 8 - pc.word.toNat % 1024 % 8 = room := by
  obtain ⟨-, -, rfl⟩ := hl
  omega

/-- A word that is not FILL is decoded. -/
theorem fetchAt_of_decode_ok (hl : Claim.Located s t pc j room) (hf : ¬ Claim.IsFill s (Claim.wordKey t.core j pc)) {i : Instr} {len : Nat}
    (hd : decode (s.paired t) room (Claim.bitsAt s (Claim.wordKey t.core j pc)) = .ok (i, len)) (n : Nat) :
    fetchAt s t (n + 1) pc = .insn pc i len := by
  have hroom := blockRoom_of_located hl
  obtain ⟨hslot, hst, -⟩ := hl
  rw [isFill_iff] at hf
  simp only [Claim.bitsAt, little_eq_ofBytes, Claim.wordKey] at hd hf
  simp only [fetchAt, hslot, if_neg hst, if_neg hf, hroom, hd]

/-- The fault of a word that does not decode. -/
theorem fetchAt_of_decode_error (hl : Claim.Located s t pc j room) (hf : ¬ Claim.IsFill s (Claim.wordKey t.core j pc)) {e : FetchErr}
    (hd : decode (s.paired t) room (Claim.bitsAt s (Claim.wordKey t.core j pc)) = .error e) (n : Nat) :
    fetchAt s t (n + 1) pc = .err pc e := by
  have hroom := blockRoom_of_located hl
  obtain ⟨hslot, hst, -⟩ := hl
  rw [isFill_iff] at hf
  simp only [Claim.bitsAt, little_eq_ofBytes, Claim.wordKey] at hd hf
  simp only [fetchAt, hslot, if_neg hst, if_neg hf, hroom, hd]

/-- Behind a FILL word the next block is fetched. -/
theorem fetchAt_of_isFill (hl : Claim.Located s t pc j room) (hf : Claim.IsFill s (Claim.wordKey t.core j pc))
    (hin : pc.leaves room = false) (n : Nat) : fetchAt s t (n + 1) pc = fetchAt s t n (pc.plus room) := by
  have hroom := blockRoom_of_located hl
  obtain ⟨hslot, hst, -⟩ := hl
  rw [isFill_iff] at hf
  simp only [Claim.wordKey] at hf
  simp only [fetchAt, hslot, if_neg hst, if_pos hf, hroom, hin, Bool.false_eq_true, if_false]

theorem fetchAt_of_slotAt_none (h : (s.core t.core).slotAt pc = none) (n : Nat) :
    fetchAt s t (n + 1) pc = .err pc .codeReplaced := by
  simp only [fetchAt, h]

theorem fetchAt_of_loading (h : (s.core t.core).slotAt pc = some j) (hst : ((s.core t.core).slot j).st = .loading)
    (n : Nat) : fetchAt s t (n + 1) pc = .loading := by
  simp only [fetchAt, h, hst, if_true]

end

/-! ## Arbitration -/

theorem isSome_longestReady {l : List (Nat × Strand)} : (longestReady l).isSome = true ↔ l ≠ [] := by
  cases l <;> simp [longestReady]

/-- Some strand of a list has the highest PRIO. -/
theorem exists_prio_eq_foldl_max (e : Nat × Strand) (l : List (Nat × Strand)) :
    ∃ x ∈ e :: l, x.2.prio = l.foldl (fun a y => Nat.max a y.2.prio) e.2.prio := by
  induction l generalizing e with
  | nil => exact ⟨e, List.mem_singleton.mpr rfl, rfl⟩
  | cons y r ih =>
    rw [List.foldl_cons]
    rcases Nat.le_total e.2.prio y.2.prio with hle | hle
    · obtain ⟨x, hx, hprio⟩ := ih y
      exact ⟨x, List.mem_cons_of_mem _ hx, hprio.trans (by rw [show Nat.max e.2.prio y.2.prio = y.2.prio from Nat.max_eq_right hle])⟩
    · obtain ⟨x, hx, hprio⟩ := ih e
      refine ⟨x, ?_, hprio.trans (by rw [show Nat.max e.2.prio y.2.prio = e.2.prio from Nat.max_eq_left hle])⟩
      rcases List.mem_cons.mp hx with rfl | hx
      · exact List.mem_cons_self
      · exact List.mem_cons_of_mem _ (List.mem_cons_of_mem _ hx)

theorem exists_prio_eq_top {l : List (Nat × Strand)} (h : l ≠ []) : ∃ x ∈ l, x.2.prio = l.foldl (fun a y => Nat.max a y.2.prio) 0 := by
  obtain ⟨e, r, rfl⟩ := List.exists_cons_of_ne_nil h
  obtain ⟨x, hx, hprio⟩ := exists_prio_eq_foldl_max e r
  refine ⟨x, hx, hprio.trans ?_⟩
  rw [List.foldl_cons, show Nat.max 0 e.2.prio = e.2.prio from Nat.zero_max _]

/-- Arbitration has a winner when a Ready strand stands on the core. -/
theorem isSome_winner {s : State} {c : Nat} : (winner s c).isSome = true ↔ ∃ u, Claim.Contends s c u := by
  unfold winner
  extract_lets ready top first x
  have hready : ready ≠ [] ↔ ∃ u, Claim.Contends s c u := by
    simp only [ready, ne_eq, List.filter_eq_nil_iff, Claim.Contends, Prod.forall, Bool.and_eq_true, decide_eq_true_eq]
    push Not
    rfl
  rw [← hready]
  constructor
  · intro h hnil
    have hfirst : first = [] := by simp [first, hnil]
    simp [hfirst, longestReady] at h
  · intro h
    obtain ⟨e, he, hprio⟩ := exists_prio_eq_top h
    have hfirst : first ≠ [] := List.ne_nil_of_mem (List.mem_filter.mpr ⟨he, by simpa using hprio⟩)
    simp [isSome_longestReady.mpr hfirst]

/-! ## Histories of frame counts -/

theorem Tbl.get_map {α : Type} (d : α) (f : α → α) (hd : f d = d) (t : Tbl α) (k : Nat) :
    Tbl.get d (t.map (fun (e : Nat × α) => (e.1, f e.2))) k = f (Tbl.get d t k) := by
  induction t with
  | nil => simp [Tbl.get, hd]
  | cons e r ih => simp only [List.map_cons, Tbl.get, ih]; split <;> rfl

theorem noteCounts_part (s : State) (p : Nat) : (noteCounts s).part p = (s.part p).noteWords s.mem :=
  Tbl.get_map _ _ rfl _ _

theorem note_eq (m : Memory) (p : Part) (w : CountWord) :
    w.note m p = let now : W32 := BitVec.ofNat 32 (Claim.little (m.readN (windowKey p w.off) 4))
      { w with hist := if w.hist.getLast? = some now then w.hist else w.hist ++ [now] } := by
  have hnow : BitVec.ofNat 32 (Claim.little (m.readN (windowKey p w.off) 4)) = countWord m p w.off := by
    rw [little_eq_ofBytes]
    rfl
  extract_lets now
  by_cases h : w.hist.getLast? = some now
  · rw [if_pos h, CountWord.note, if_pos (h.trans (congrArg some hnow))]
  · rw [if_neg h, CountWord.note, if_neg fun h' => h (h'.trans (congrArg some hnow.symm)), ← hnow]

/-! ## The steps -/

theorem step_eq_noted (s : State) : step s = Claim.Noted (choose s) := by
  unfold step Claim.Noted
  split <;> rename_i h <;> rw [h]

theorem choose_of_turn {s s' : State} {c : Nat} (h : Claim.Turn s s' c) : choose s = coreStep c s' := by
  rcases h with ⟨hnil, rfl, rfl⟩ | ⟨r, hcons, rfl⟩
  · simp only [choose, hnil]
  · simp only [choose, hcons]

theorem choose_of_event {s : State} {i : Instr} {r : List Choice} (h : s.agenda = .event i :: r) (hi : isEvent i = true) :
    choose s = exec i { s with agenda := r } := by
  simp only [choose, h, hi, if_true]

theorem step_of_turn {s s' : State} {c : Nat} (h : Claim.Turn s s' c) : step s = Claim.Noted (coreStep c s') := by
  rw [step_eq_noted, choose_of_turn h]

theorem fetchAt_agenda_cur (s : State) (t : Strand) (r : List Choice) (u n : Nat) (pc : PC) :
    fetchAt { s with agenda := r, cur := u } t n pc = fetchAt s t n pc := by
  induction n generalizing pc with
  | zero => rfl
  | succ n ih =>
    have hcore : State.core { s with agenda := r, cur := u } t.core = s.core t.core := rfl
    have hpaired : State.paired { s with agenda := r, cur := u } t = s.paired t := rfl
    simp only [fetchAt, ih, hcore, hpaired]

theorem fetch_agenda_cur (s : State) (t : Strand) (r : List Choice) (u : Nat) : fetch { s with agenda := r, cur := u } t = fetch s t := by
  unfold fetch
  split
  · rfl
  · exact fetchAt_agenda_cur ..

/-- A step of a core sees the state but for the head of the agenda. -/
theorem agenda_of_turn {s s' : State} {c : Nat} (h : Claim.Turn s s' c) : ∃ r, s' = { s with agenda := r } := by
  rcases h with ⟨-, -, rfl⟩ | ⟨r, -, rfl⟩
  · exact ⟨_, rfl⟩
  · exact ⟨r, rfl⟩

section
variable {s s' : State} {c u : Nat} (hturn : Claim.Turn s s' c) (hrun : (s.core c).running = some u)
include hturn hrun

theorem step_of_fetch_insn {pc : PC} {i : Instr} {n : Nat} (hf : fetch s (s.strand u) = .insn pc i n) :
    step s = Claim.Noted (exec i (State.setMe { s' with cur := u } { s.strand u with pc := pc })) := by
  rw [step_of_turn hturn]
  obtain ⟨r, rfl⟩ := agenda_of_turn hturn
  have hf' := (fetch_agenda_cur s (s.strand u) r u).trans hf
  simp only [coreStep, show (State.core { s with agenda := r } c).running = some u from hrun]
  rw [show fetch { s with agenda := r, cur := u } (State.me { s with agenda := r, cur := u }) = _ from hf']
  rfl

theorem step_of_fetch_err {pc : PC} {e : FetchErr} (hf : fetch s (s.strand u) = .err pc e) :
    step s = Claim.Noted (exec (.fetchFault e) (State.setMe { s' with cur := u } { s.strand u with pc := pc })) := by
  rw [step_of_turn hturn]
  obtain ⟨r, rfl⟩ := agenda_of_turn hturn
  have hf' := (fetch_agenda_cur s (s.strand u) r u).trans hf
  simp only [coreStep, show (State.core { s with agenda := r } c).running = some u from hrun]
  rw [show fetch { s with agenda := r, cur := u } (State.me { s with agenda := r, cur := u }) = _ from hf']
  rfl

theorem step_of_fetch_loading (hf : fetch s (s.strand u) = .loading) :
    step s = .next (noteCounts (parkMe { s' with cur := u } .fetch false)) := by
  rw [step_of_turn hturn]
  obtain ⟨r, rfl⟩ := agenda_of_turn hturn
  have hf' := (fetch_agenda_cur s (s.strand u) r u).trans hf
  simp only [coreStep, show (State.core { s with agenda := r } c).running = some u from hrun]
  rw [show fetch { s with agenda := r, cur := u } (State.me { s with agenda := r, cur := u }) = _ from hf']
  rfl

end

section
variable {s s' : State} {c : Nat} (hturn : Claim.Turn s s' c) (hrun : (s.core c).running = none)
include hturn hrun

theorem step_of_contends (h : ∃ u, Claim.Contends s' c u) : step s = Claim.Noted (exec (.runArbitration c) s') := by
  rw [step_of_turn hturn]
  have hwin := isSome_winner.mpr h
  obtain ⟨r, rfl⟩ := agenda_of_turn hturn
  simp only [coreStep, show (State.core { s with agenda := r } c).running = none from hrun, hwin, if_true]

theorem step_of_idle (h : ∀ u, ¬ Claim.Contends s' c u) : step s = Claim.Noted (idle s') := by
  rw [step_of_turn hturn]
  have hwin : ¬ (winner s' c).isSome = true := fun hw => (isSome_winner.mp hw).elim h
  obtain ⟨r, rfl⟩ := agenda_of_turn hturn
  simp only [coreStep, show (State.core { s with agenda := r } c).running = none from hrun, if_neg hwin]

end

theorem idle_of_turn {s s' : State} {c : Nat} (h : Claim.Turn s s' c) :
    idle s' = if s.class3At + 1024 ≤ (s.die 0).all then exec .class3Window s'
      else if (s.die 0).refreshDue = true then exec (.energyRefresh 0) s' else exec (.masterCycle 0) s' := by
  obtain ⟨r, rfl⟩ := agenda_of_turn h
  simp only [idle, windowOver, decide_eq_true_eq]
  rfl

theorem fetch_of_slotEnd_none {s : State} {t : Strand} (h : t.slotEnd = none) : fetch s t = fetchAt s t 129 t.pc := by
  simp only [fetch, h]

theorem fetch_of_slotEnd {s : State} {t : Strand} {pc : PC} (h : t.slotEnd = some pc) : fetch s t = .err pc .slotEnd := by
  simp only [fetch, h]

/-- Settles O58, by what fetch finds in the block of the PC and, behind a FILL word, in the next block. -/
theorem stepRunsDecoded : Obligations.StepRunsDecoded := by
  refine ⟨fun s s' c u hturn hrun => ⟨fun hend j room hl => ⟨fun hf => ⟨fun i n hd => ?_, fun e hd => ?_⟩, ?_⟩, ?_, ?_, ?_⟩,
    fun s s' c hturn hrun => ⟨step_of_contends hturn hrun, fun hnone => ?_⟩, fun s i r hag hi => ?_, fun s => ⟨rfl, fun p => ?_⟩⟩
  · exact step_of_fetch_insn hturn hrun ((fetch_of_slotEnd_none hend).trans (fetchAt_of_decode_ok hl hf hd _))
  · exact step_of_fetch_err hturn hrun ((fetch_of_slotEnd_none hend).trans (fetchAt_of_decode_error hl hf hd _))
  · intro hf hin j' hl' k' hf' i n hd
    have hnext := fetchAt_of_decode_ok hl' hf' hd 127
    exact step_of_fetch_insn hturn hrun ((fetch_of_slotEnd_none hend).trans ((fetchAt_of_isFill hl hf hin _).trans hnext))
  · intro hend hslot
    exact step_of_fetch_err hturn hrun ((fetch_of_slotEnd_none hend).trans (fetchAt_of_slotAt_none hslot _))
  · rintro hend ⟨j, hslot, hst⟩
    exact step_of_fetch_loading hturn hrun ((fetch_of_slotEnd_none hend).trans (fetchAt_of_loading hslot hst _))
  · intro pc hend
    exact step_of_fetch_err hturn hrun (fetch_of_slotEnd hend)
  · rw [step_of_idle hturn hrun hnone, idle_of_turn hturn]
  · rw [step_eq_noted, choose_of_event hag hi]
  · rw [noteCounts_part]
    exact ⟨rfl, List.map_congr_left fun w _ => note_eq _ _ w⟩

end Sys2Proof.Machine
end

section
namespace Sys2Proof.Machine

/-! # A run that ends in a replay (O25)

Under R260 a strand whose copy-channel commands are replayed issues nothing until they are complete, except while a command
waits behind a queue register that only the strand can empty (R240). Such a strand runs; in the state below its instruction takes
an entry from that queue register, and so the command holds it back again. E ends the run, and the strand is parked for the replay
(`State.makeReady`), where O25 says that it is Ready. -/

/-- A CPY into Q0, moved by a RESUME, whose lanes are done. -/
def replayedCopy : Cmd :=
  { ord := 0, tag := ⟨0, 0, 0, 0⟩, batch := none, kind := .cpy 4 (some 0) none, o := .rlx, sc := .strand, units := [], arrived := [],
    peers := [], readDone := true, addr := 0, insn := 0, cls := 0, pc := 0, replayed := true }

/-- The running strand of a loaded program with all 8 entries of Q0 in use and that command behind them. -/
def queueStuckStrand : Strand :=
  let t := (bootFrame State.reset).strand 1
  { t with q := [(0, List.replicate 8 [])], copy := { t.copy with cmds := [replayedCopy] } }

/-- That strand runs. -/
def queueStuckRun : State := { (bootFrame State.reset).setStrand 1 queueStuckStrand with cur := 1 }

/-- POPC of Q0 with E. -/
def popcQueue : Instr := .popc ⟨false, true⟩ 5 120 0

/-- Before its instruction the strand may run: the command does not hold it back. -/
theorem replaying_queueStuckRun : queueStuckRun.me.replaying = false := by decide +kernel

theorem issues_popcQueue : Issues popcQueue queueStuckRun := by
  have hlocks : queueStuckRun.me.locks = [] := by decide +kernel
  have hlife : queueStuckRun.me.life = .running := by decide +kernel
  have hpark : operandPark queueStuckRun queueStuckRun.me popcQueue = none := by decide +kernel
  have hsingle : queueStuckRun.me.twin = none ∧ queueStuckRun.me.shadow = false ∧ queueStuckRun.me.ckDue = false := by decide +kernel
  refine ⟨hlife, hpark, hsingle, fun r hr => ?_⟩
  rw [hlocks] at hr
  cases hr

/-- The instruction issues, and its strand is parked for the replay. -/
theorem exec_popcQueue : ∃ t, exec popcQueue queueStuckRun = .next t ∧
    (t.strand 1).ord = queueStuckRun.me.ord + 1 ∧ (t.strand 1).life = .parked .replay := by
  have h : (match exec popcQueue queueStuckRun with
      | .next t => decide ((t.strand 1).ord = queueStuckRun.me.ord + 1 ∧ (t.strand 1).life = .parked .replay)
      | _ => false) = true := by decide +kernel
  split at h
  · next t hrun => exact ⟨t, hrun, of_decide_eq_true h⟩
  · cases h

/-- Refutes O25: its second clause says that E leaves a strand Ready. -/
theorem not_runsAndCharges : ¬ Obligations.RunsAndCharges := by
  rintro ⟨-, hissued, -⟩
  obtain ⟨t, hrun, hord, hlife⟩ := exec_popcQueue
  have hwf : WellFormed true popcQueue = true := by decide
  obtain ⟨-, hafter⟩ := hissued popcQueue queueStuckRun t rfl hwf issues_popcQueue hrun hord
  have hmarks : Claim.markS popcQueue = false ∧ Claim.markE popcQueue = true := by decide
  have hends := hafter rfl
  simp only [Claim.RunAfter, hmarks, Bool.false_eq_true, false_and, if_false, if_true, Claim.Ended] at hends
  obtain ⟨⟨-, hready⟩, -⟩ := hends
  exact absurd (hlife.symm.trans hready) (by decide)

end Sys2Proof.Machine
end

section
namespace Sys2Proof.Machine

/-! # The fault of a fetched word (O14)

The kill of a strand releases it first and then looks after the others: meeting points are checked and taken up, gangs are
abandoned, the frame ends with its last strand. `Spares u` says what all of that leaves alone, for the strand `u` that has been
released: the strand itself, the lists of the frames' strands, FAB, and the partitions. -/

/-- A strand without its place in the schedule and its matrix channel, which an abandoned gang changes (R213). -/
def Strand.settled (t : Strand) : Strand := { t.still with mx := MxCh.reset }

/-- What the end of strand `u` leaves alone after its release. -/
structure Spares (u : Nat) (s t : State) : Prop where
  strand : (t.strand u).settled = (s.strand u).settled
  members : ∀ fu, (t.frame fu).strands = (s.frame fu).strands
  fab : ∀ fu, (t.frame fu).fab = (s.frame fu).fab
  parts : t.parts = s.parts

section
variable {u : Nat} {s t w : State}

theorem Spares.refl (u : Nat) (s : State) : Spares u s s := ⟨rfl, fun _ => rfl, fun _ => rfl, rfl⟩

theorem Spares.trans (h : Spares u s t) (g : Spares u t w) : Spares u s w :=
  ⟨g.strand.trans h.strand, fun fu => (g.members fu).trans (h.members fu), fun fu => (g.fab fu).trans (h.fab fu), g.parts.trans h.parts⟩

theorem spares_foldl {α : Type} {f : State → α → State} {l : List α} (hf : ∀ a ∈ l, ∀ t, Spares u t (f t a)) (s : State) :
    Spares u s (l.foldl f s) :=
  List.foldlRecOn (motive := fun t => Spares u s t) l f (Spares.refl u s) fun t ht a ha => ht.trans (hf a ha t)

theorem spares_setFrame {fu : Nat} {f : Frame} (hs : f.strands = (s.frame fu).strands) (hf : f.fab = (s.frame fu).fab) :
    Spares u s (s.setFrame fu f) := by
  refine ⟨rfl, fun j => ?_, fun j => ?_, rfl⟩ <;> by_cases hj : j = fu
  · rw [hj, State.frame_setFrame_same, hs]
  · rw [State.frame_setFrame_ne _ _ _ _ hj]
  · rw [hj, State.frame_setFrame_same, hf]
  · rw [State.frame_setFrame_ne _ _ _ _ hj]

theorem spares_setStrand {v : Nat} (hv : v ≠ u) (s : State) (x : Strand) : Spares u s (s.setStrand v x) :=
  ⟨congrArg Strand.settled (State.strand_setStrand_ne s v x u hv.symm), fun _ => rfl, fun _ => rfl, rfl⟩

/-- A change of one strand's place in the schedule. -/
theorem spares_of_settles {v c : Nat} (h : Settles v c s t) : Spares u s t := by
  obtain ⟨hquiet, hstill⟩ := h
  have hframes : t.frames = s.frames := by rw [hquiet.rest]
  have hparts : t.parts = s.parts := by rw [hquiet.rest]
  refine ⟨?_, fun fu => by rw [State.frame, State.frame, hframes], fun fu => by rw [State.frame, State.frame, hframes], hparts⟩
  by_cases hv : u = v
  · subst hv
    rw [Strand.settled, Strand.settled, hstill]
  · rw [hquiet.strands u hv]

theorem spares_makeReady (v : Nat) (s : State) : Spares u s (s.makeReady v) := spares_of_settles (settles_makeReady v 0 s)

theorem spares_endRun (c : Nat) (s : State) : Spares u s (s.endRun c) := ⟨rfl, fun _ => rfl, fun _ => rfl, rfl⟩

/-! ## Meeting points -/

theorem spares_meetCheck (fu j : Nat) (s : State) : Spares u s (meetCheck s fu j) := by
  unfold meetCheck
  dsimp only
  split
  · exact spares_setFrame rfl rfl
  · exact Spares.refl u s

theorem spares_meetCheckAll (fu : Nat) (s : State) : Spares u s (meetCheckAll s fu) :=
  spares_foldl (fun j _ t => spares_meetCheck fu j t) s

theorem spares_meetArrival {v : Nat} (hv : v ≠ u) (j n : Nat) (s : State) : Spares u s (meetArrival s v j n) := by
  unfold meetArrival
  extract_lets t f m cnt arr m' s'
  have hpoint : Spares u s (s.setFrame t.frame (f.setPoint j m')) := spares_setFrame rfl rfl
  exact hpoint.trans ((spares_setStrand hv _ _).trans (spares_meetCheck _ _ _))

theorem spares_meetFinish {v : Nat} (hv : v ≠ u) (j : Nat) (ph : BitVec 16) (x : SCode) (s : State) : Spares u s (meetFinish s v j ph x) :=
  spares_setStrand hv s _

theorem spares_meetWake {v : Nat} (hv : v ≠ u) (s : State) : Spares u s (meetWake s v).1 := by
  unfold meetWake
  extract_lets t f
  split
  · split
    · exact (spares_meetFinish hv _ _ _ s).trans (spares_makeReady v _)
    · exact Spares.refl u s
  · extract_lets m
    split
    · split
      · exact (spares_setStrand hv s _).trans (spares_makeReady v _)
      · exact (spares_meetFinish hv _ _ _ s).trans (spares_makeReady v _)
    · split
      · split
        · exact spares_setStrand hv s _
        · split
          · exact (spares_meetArrival hv _ _ s).trans ((spares_setStrand hv _ _).trans (spares_makeReady v _))
          · exact (spares_meetArrival hv _ _ s).trans (spares_setStrand hv _ _)
      · exact Spares.refl u s
  · exact Spares.refl u s

/-- The parked MEETs of a frame that the strand has left. -/
theorem spares_meetWakeAll {fu : Nat} (n : Nat) (s : State) (hu : u ∉ (s.frame fu).strands) : Spares u s (meetWakeAll fu n s) := by
  induction n generalizing s with
  | zero => exact Spares.refl u s
  | succ n ih =>
    have hround : Spares u s ((s.frame fu).strands.foldl (fun (a : State × Bool) v => let (b, w) := meetWake a.1 v; (b, a.2 || w)) (s, false)).1 :=
      List.foldlRecOn (motive := fun (a : State × Bool) => Spares u s a.1) _ _ (Spares.refl u s) fun a ha v hv =>
        ha.trans (spares_meetWake (ne_of_mem_of_not_mem hv hu) a.1)
    unfold meetWakeAll
    dsimp only
    split
    · exact hround.trans (ih _ (by rwa [hround.members fu]))
    · exact hround

/-! ## Gangs and the end of a frame -/

/-- A change of every entry of a table that keeps the keys and a view of the values keeps the view of what is read. -/
theorem Tbl.get_map_view {α β : Type} (d : α) (g : α → β) (f : Nat × α → Nat × α) (hf : ∀ e, (f e).1 = e.1 ∧ g (f e).2 = g e.2) (t : Tbl α) (k : Nat) :
    g (Tbl.get d (t.map f) k) = g (Tbl.get d t k) := by
  induction t with
  | nil => rfl
  | cons e r ih =>
    obtain ⟨hkey, hview⟩ := hf e
    simp only [List.map_cons, Tbl.get, hkey]
    split
    · exact hview
    · exact ih

theorem spares_abandonGang (fu c : Nat) (s : State) : Spares u s (abandonGang s fu c) := by
  unfold abandonGang
  extract_lets f l s' _ s''
  have hs' : Spares u s s' := by
    refine ⟨Tbl.get_map_view Strand.blank Strand.settled _ (fun e => ?_) s.strands u, fun _ => rfl, fun _ => rfl, rfl⟩
    split <;> exact ⟨rfl, rfl⟩
  have hs'' : Spares u s s'' := hs'.trans (spares_setFrame rfl rfl)
  refine hs''.trans (spares_foldl (fun v _ t => ?_) s'')
  split
  · split
    · exact spares_makeReady v t
    · exact Spares.refl u t
  · exact Spares.refl u t

theorem spares_gangCheck (v : Nat) (s : State) : Spares u s (gangCheck s v) := by
  unfold gangCheck
  dsimp only
  split
  · exact spares_abandonGang _ _ s
  · exact Spares.refl u s

theorem spares_dropFrame (fu : Nat) (s : State) : Spares u s (s.dropFrame fu) := by
  have hlatches : Spares u s (s.endLatches fu) := by
    refine spares_foldl (fun c _ t => ?_) s
    split
    · exact spares_abandonGang fu c t
    · exact Spares.refl u t
  exact hlatches.trans (spares_setFrame rfl rfl)

end

/-! ## Record queues -/

theorem sameButTraffic_foldl {α : Type} {f : State → α → State} (hf : ∀ t a, State.SameButTraffic t (f t a)) (l : List α) (s : State) :
    s.SameButTraffic (l.foldl f s) :=
  List.foldlRecOn (motive := fun t => s.SameButTraffic t) l f s.sameButTraffic_refl fun t ht a _ => State.sameButTraffic_trans ht (hf t a)

theorem signalN_eq (fn v k : Nat) (s : State) : ∃ l, signalN fn v k s = { s with msix := l } := by
  induction k generalizing s with
  | zero => exact ⟨s.msix, rfl⟩
  | succ k ih =>
    obtain ⟨l, hl⟩ := ih (s.signal fn v)
    exact ⟨l, hl⟩

/-- Moving held records changes memory, the counts of traffic, the signals, and of the partition the record queue. -/
theorem State.drainQ_eq (s : State) (p : Nat) (event : Bool) : ∃ (w : State) (m : Memory) (l : List (Nat × Nat)) (q : RecQ), s.SameButTraffic w ∧
    s.drainQ p event = { w.setPart p (if event then { s.part p with eventQ := q } else { s.part p with absentQ := q }) with mem := m, msix := l } := by
  unfold State.drainQ
  extract_lets x q
  split
  next m q' k hdrain =>
  extract_lets s1
  have hs1 : s.SameButTraffic s1 := sameButTraffic_foldl (fun t i => State.sameButTraffic_carryWindow t _ _ _ _ _) _ s
  obtain ⟨l, hl⟩ := signalN_eq (p + 1) (if event then 2 else 1) k
    ({ s1 with mem := m }.setPart p (if event then { x with eventQ := q' } else { x with absentQ := q' }))
  exact ⟨s1, m, l, q', hs1, hl⟩

@[simp] theorem State.report_strands (s : State) (p : Nat) (event : Bool) (r : BitVec 256) : (s.report p event r).strands = s.strands := by
  unfold State.report
  extract_lets x _ _ s'
  obtain ⟨w, m, l, q, htraffic, heq⟩ := s'.drainQ_eq p event
  rw [heq]
  exact htraffic.field State.strands fun _ _ _ _ _ => rfl

@[simp] theorem State.report_frames (s : State) (p : Nat) (event : Bool) (r : BitVec 256) : (s.report p event r).frames = s.frames := by
  unfold State.report
  extract_lets x _ _ s'
  obtain ⟨w, m, l, q, htraffic, heq⟩ := s'.drainQ_eq p event
  rw [heq]
  exact htraffic.field State.frames fun _ _ _ _ _ => rfl

/-- A partition that differs in its record queues. -/
theorem errs_setPart_queue (s : State) (p : Nat) (x : Part) (hx : x.errs = (s.part p).errs) (j : Nat) :
    ((s.setPart p x).part j).errs = (s.part j).errs := by
  by_cases hj : j = p
  · rw [hj, State.part_setPart_same, hx]
  · rw [State.part_setPart_ne _ _ _ _ hj]

theorem State.report_errs (s : State) (p : Nat) (event : Bool) (r : BitVec 256) (j : Nat) :
    ((s.report p event r).part j).errs = (s.part j).errs := by
  unfold State.report
  extract_lets x _ _ s'
  obtain ⟨w, m, l, q, htraffic, heq⟩ := s'.drainQ_eq p event
  have hpart (i : Nat) : w.part i = s'.part i := htraffic.field (fun t => t.part i) fun _ _ _ _ _ => rfl
  have hdrained : ((s'.drainQ p event).part j).errs = (w.part j).errs := by
    rw [heq]
    exact errs_setPart_queue w p _ (by rw [hpart]; cases event <;> rfl) j
  rw [hdrained, hpart]
  exact errs_setPart_queue s p _ (by cases event <;> rfl) j

/-! ## The kill -/

theorem strand_releaseStrand (s : State) (u : Nat) : (s.releaseStrand u).strand u =
    { s.strand u with life := .gone, v := [], q := [], p := [], stack := [], evicted := [], written := [], bkLen := 0, rets := [], locks := [] } :=
  State.strand_setStrand_same s u _

theorem not_mem_strands_releaseStrand (s : State) (u : Nat) : u ∉ ((s.releaseStrand u).frame (s.strand u).frame).strands := by
  simp [State.releaseStrand]

/-- What a released strand keeps nothing of. -/
structure Strand.Bare (b : Strand) : Prop where
  v : b.v = []
  q : b.q = []
  p : b.p = []
  stack : b.stack = []
  rets : b.rets = []
  bkLen : b.bkLen = 0

theorem Strand.Bare.of_settled {a b : Strand} (ha : a.Bare) (h : b.settled = a.settled) : b.Bare where
  v := (congrArg Strand.v h).trans ha.v
  q := (congrArg Strand.q h).trans ha.q
  p := (congrArg Strand.p h).trans ha.p
  stack := (congrArg Strand.stack h).trans ha.stack
  rets := (congrArg Strand.rets h).trans ha.rets
  bkLen := (congrArg Strand.bkLen h).trans ha.bkLen

@[simp] theorem Strand.settled_frame (t : Strand) : t.settled.frame = t.frame := rfl
@[simp] theorem Strand.settled_sr (t : Strand) : t.settled.sr = t.sr := rfl

theorem Spares.frame_eq {u : Nat} {s t : State} (h : Spares u s t) : (t.strand u).frame = (s.strand u).frame := by
  simpa using congrArg Strand.frame h.strand

theorem Spares.sr_eq {u : Nat} {s t : State} (h : Spares u s t) : (t.strand u).sr = (s.strand u).sr := by
  simpa using congrArg Strand.sr h.strand

theorem sr_releaseStrand (s : State) (u : Nat) : ((s.releaseStrand u).strand u).sr = (s.strand u).sr := by
  rw [strand_releaseStrand]

theorem bare_releaseStrand (s : State) (u : Nat) : ((s.releaseStrand u).strand u).Bare := by
  rw [strand_releaseStrand]
  exact ⟨rfl, rfl, rfl, rfl, rfl, rfl⟩

/-- What follows the release of strand `u` of frame `fu` in a kill: the meeting points, and the end of the frame. -/
theorem spares_afterRelease {u fu : Nat} (s : State) (hu : u ∉ (s.frame fu).strands) :
    let w := meetWakeAll fu 64 (meetCheckAll s fu)
    Spares u s (if (w.frame fu).strands = [] then w.dropFrame fu else w) := by
  intro w
  have hcheck : Spares u s (meetCheckAll s fu) := spares_meetCheckAll fu s
  have hw : Spares u s w := hcheck.trans (spares_meetWakeAll 64 _ (by rwa [hcheck.members fu]))
  split
  · exact hw.trans (spares_dropFrame fu w)
  · exact hw

/-- The end of a kill: the strand is gone, or keeps its slot until its record can be held (R361), and its run ends. -/
theorem spares_endOfKill (s : State) (u c : Nat) (full : Bool) :
    let w := if full then { s.setStrand u { s.strand u with life := .killed, readyAt := s.clock } with clock := s.clock + 1 }
      else s.setStrand u { s.strand u with life := .gone }
    let x := if (w.core c).running = some u then w.endRun c else w
    ((x.strand u).life = .gone ∨ (x.strand u).life = .killed) ∧ Spares u s x := by
  intro w x
  have hw : ((w.strand u).life = .gone ∨ (w.strand u).life = .killed) ∧ Spares u s w := by
    simp only [w]
    split
    · exact ⟨.inr (by rw [strand_setStrand_clock]), by rw [strand_setStrand_clock]; rfl, fun _ => rfl, fun _ => rfl, rfl⟩
    · exact ⟨.inl (by rw [State.strand_setStrand_same]), by rw [State.strand_setStrand_same]; rfl, fun _ => rfl, fun _ => rfl, rfl⟩
  obtain ⟨hlife, hspares⟩ := hw
  simp only [x]
  split
  · exact ⟨hlife, hspares.trans (spares_endRun c w)⟩
  · exact ⟨hlife, hspares⟩

/-- The kill of the running strand releases it, sets FAB of its frame and is counted (R322). -/
theorem killed_kill (s : State) (code : W64) (pc : BitVec 54) : Claim.Killed s (s.kill s.cur code pc) := by
  unfold State.kill
  extract_lets t p _ s1 _ s2 s3 s4 f s5 s6 s7 s8 full _ _ s9 s10
  have hkill1 : (s1.part t.part).errs.kill = satAdd p.errs.kill 1 := congrArg (fun x => x.errs.kill) (State.part_setPart_same ..)
  have hgang : Spares s.cur s2 s3 := spares_gangCheck s.cur s2
  have hframe3 : (s3.strand s.cur).frame = t.frame := hgang.frame_eq
  have hout4 : s.cur ∉ (s4.frame t.frame).strands := hframe3 ▸ not_mem_strands_releaseStrand s3 s.cur
  have hsr5 : (s5.strand s.cur).sr = t.sr := (sr_releaseStrand s3 s.cur).trans hgang.sr_eq
  have hbare5 : (s5.strand s.cur).Bare := bare_releaseStrand s3 s.cur
  have hframe5 : s5.frame t.frame = { f with fab := true } := State.frame_setFrame_same ..
  have hout5 : s.cur ∉ (s5.frame t.frame).strands := by rw [hframe5]; exact hout4
  have hafter : Spares s.cur s5 s8 := spares_afterRelease s5 hout5
  have hparts8 : s8.parts = s1.parts := hafter.parts.trans hgang.parts
  obtain ⟨hlife, hend⟩ : ((s10.strand s.cur).life = .gone ∨ (s10.strand s.cur).life = .killed) ∧ Spares s.cur s8 s10 :=
    spares_endOfKill s8 s.cur t.core full
  have h510 : Spares s.cur s5 s10 := hafter.trans hend
  have hstrand : (s10.report t.part true (killRecord t code pc)).strand s.cur = s10.strand s.cur := by
    rw [State.strand, State.report_strands]; rfl
  have hframe : (s10.report t.part true (killRecord t code pc)).frame t.frame = s10.frame t.frame := by
    rw [State.frame, State.report_frames]; rfl
  have hpart : s10.part t.part = s1.part t.part := by rw [State.part, hend.parts, hparts8]; rfl
  obtain ⟨hv, hq, hp, hstack, hrets, hbkLen⟩ := hbare5.of_settled h510.strand
  have hfab : (s10.frame t.frame).fab = true := by rw [h510.fab, hframe5]
  have hout : s.cur ∉ (s10.frame t.frame).strands := by rw [h510.members]; exact hout5
  simp only [Claim.Killed, hstrand, State.report_errs, show s.me = t from rfl, hframe, hpart]
  exact ⟨hlife, hv, hq, hp, hstack, hrets, hbkLen, h510.sr_eq.trans hsr5, hfab, hout, hkill1⟩

theorem takeFault_of_trapTarget_none {s : State} {u d : Nat} {c : Code} {a resume : PC} (h : trapTarget s (s.strand u) c = none) :
    takeFault s u c d a resume = s.kill u (trapWord c d) a.bits := by
  simp only [takeFault, h]

/-- Settles O14: the fault is taken where it has a handler, and otherwise it is a kill. -/
theorem fetchFaultTaken : Obligations.FetchFaultTaken := by
  intro e s hrun c a
  have hexec : exec (.fetchFault e) s = .next (takeFault s s.cur c 0 a.pc a.pc) := if_pos hrun
  split
  · next dest htarget => exact ⟨_, hexec, takeFault_eq s c 0 a.pc a.pc dest htarget⟩
  · next htarget =>
    refine ⟨_, hexec, ?_⟩
    rw [takeFault_of_trapTarget_none htarget]
    exact killed_kill s _ _

end Sys2Proof.Machine
end

section
namespace Sys2Proof.Machine

/-! # RED, REDIDX and VGET (O5) -/

/-! ## Integers by type -/

theorem intOf_signed (x : W64) {w : Nat} (hw : w ≠ 0) : intOf w true x = (x.setWidth w).toInt := by
  obtain ⟨k, rfl⟩ := Nat.exists_eq_succ_of_ne_zero hw
  have hk : 2 ^ k * 2 = 2 ^ (k + 1) := (pow_succ 2 k).symm
  simp only [intOf, BitVec.toInt_eq_toNat_cond, BitVec.toNat_setWidth, Nat.succ_eq_add_one, Nat.add_sub_cancel, true_and]
  have hcast : ((2 ^ (k + 1) : Nat) : Int) = 2 ^ (k + 1) := by push_cast; rfl
  split <;> split <;> omega

theorem intOf_unsigned (x : W64) (w : Nat) : intOf w false x = (x.setWidth w).toNat := by
  simp [intOf]

/-- The number of a lane under an integer type of ADD is the value that R92 gives its pattern. -/
theorem num_eq_val {ty : Ty} (h : Wf.tyAdd ty = true) (x : W64) : Claim.num ty x = ty.val x := by
  have hlow : x.extractLsb' 0 32 = x.setWidth 32 := BitVec.setWidth_eq_extractLsb' (by decide) |>.symm
  cases ty <;> simp only [Wf.tyAdd, Bool.false_eq_true] at h
  case s32 => exact (congrArg BitVec.toInt hlow).trans (intOf_signed x (by decide)).symm
  case n32 => exact (congrArg (fun y : W32 => (y.toNat : Int)) hlow).trans (intOf_unsigned x 32).symm
  case s64 => exact (congrArg BitVec.toInt (BitVec.setWidth_eq x)).symm.trans (intOf_signed x (by decide)).symm
  case n64 => exact (congrArg (fun y : W64 => (y.toNat : Int)) (BitVec.setWidth_eq x)).symm.trans (intOf_unsigned x 64).symm

theorem greatest_eq_hi {ty : Ty} (h : Wf.tyAdd ty = true) : Claim.greatest ty = ty.hi := by
  cases ty <;> simp_all [Wf.tyAdd] <;> rfl

theorem least_eq_lo {ty : Ty} (h : Wf.tyAdd ty = true) : Claim.least ty = ty.lo := by
  cases ty <;> simp_all [Wf.tyAdd] <;> rfl


/-! ## Instructions that read vectors and write none -/

@[simp] theorem Strand.popQ_core (t : Strand) (o : Oper) : (t.popQ o).core = t.core := rfl
@[simp] theorem Strand.popQ_ext (t : Strand) (o : Oper) : (t.popQ o).ext = t.ext := rfl
@[simp] theorem Strand.popQ_f (t : Strand) (o : Oper) : (t.popQ o).f = t.f := rfl
@[simp] theorem Strand.countDrop_core (t : Strand) (o : Oper) : (t.countDrop o).core = t.core := by unfold Strand.countDrop; split <;> rfl
@[simp] theorem Strand.countDrop_ext (t : Strand) (o : Oper) : (t.countDrop o).ext = t.ext := by unfold Strand.countDrop; split <;> rfl
@[simp] theorem Strand.countDrop_f (t : Strand) (o : Oper) : (t.countDrop o).f = t.f := by unfold Strand.countDrop; split <;> rfl

/-- Where the map discipline lets the instruction pass it is done, its queue entries popped and its dropped lanes counted (R60, R72). -/
theorem reads_done {o : Oper} {s : State} (hdisc : s.me.disc = 2 → s.me.dropCount o = 0) (f : Strand → List VOpd → LaneMap → Strand) :
    reads o s f = .done (s.setMe (f ((s.me.countDrop o).popQ o) (o.srcs.map s.me.readV) (s.me.operMap o))) (s.me.lanesK o) :=
  if_neg fun h => h.2 (hdisc h.1)

/-- An instruction that writes one scalar from the lanes of its operands has completed with that scalar (R105, R106, R109). -/
theorem completes_scalar {i : Instr} {s : State} {h : Head} {body : State → Res} {x : SCode} {v : W64} {k : Nat} (hi : Issues i s)
    (hw : writesMap i = false) (hbody : body s = .done (s.setMe (((s.me.countDrop (operOf i)).popQ (operOf i)).setS x v)) k) :
    ∃ t, issue i h s body = .next t ∧ Completes h.cls h.n s t (((s.me.countDrop (operOf i)).popQ (operOf i)).setS x v) := by
  refine ⟨_, issue_eq hi hw h body, ?_⟩
  rw [hbody]
  exact completes_of_done s h _ k (by simp)

/-! ## RED -/

theorem redInt_add {ty : Ty} (hty : Wf.tyAdd ty = true) (l : List W64) : redInt .add ty (l.map ty.val) = (l.map (Claim.num ty)).sum := by
  rw [show Claim.num ty = ty.val from funext (num_eq_val hty)]
  exact List.sum_eq_foldl.symm

theorem redInt_min {ty : Ty} (hty : Wf.tyAdd ty = true) (l : List W64) :
    redInt .min ty (l.map ty.val) = (l.map (Claim.num ty)).foldl min (Claim.greatest ty) := by
  have hmin : (fun a b : Int => if b < a then b else a) = min := by funext a b; omega
  rw [show Claim.num ty = ty.val from funext (num_eq_val hty), greatest_eq_hi hty]
  exact congrArg (fun f => (l.map ty.val).foldl f ty.hi) hmin

theorem redInt_max {ty : Ty} (hty : Wf.tyAdd ty = true) (l : List W64) :
    redInt .max ty (l.map ty.val) = (l.map (Claim.num ty)).foldl max (Claim.least ty) := by
  have hmax : (fun a b : Int => if a < b then b else a) = max := by funext a b; omega
  rw [show Claim.num ty = ty.val from funext (num_eq_val hty), least_eq_lo hty]
  exact congrArg (fun f => (l.map ty.val).foldl f ty.lo) hmax

/-- The identity of a bitwise AND has every bit of its type (R105). -/
theorem allOnes_of_tyBits {ty : Ty} (hty : Wf.tyBits ty = true) : BitVec.ofNat 64 (2 ^ ty.width - 1) = BitVec.ofInt 64 (Claim.greatest ty) := by
  cases ty <;> simp only [Wf.tyBits, Bool.false_eq_true] at hty <;> rfl

/-- RED gives what its row of R105 or R132 says. -/
theorem redValue_eq {k : Marks} {op : RedOp} {ty : Ty} {x : SCode} {y : VCode} {m : MCode} (hty : Wf.tyRed op ty = true) (t : Strand) (f : Strand → W64)
    (hf : Claim.laneScalar (.red k op ty x y m) = some (x, f)) :
    redValue op ty t.f ((Claim.column t (.red k op ty x y m)).map (·.2)) = f t := by
  obtain rfl := (Prod.mk.inj (Option.some.inj hf)).2
  cases op
  case add => exact congrArg (BitVec.ofInt 64) (redInt_add hty _)
  case min => exact congrArg (BitVec.ofInt 64) (redInt_min hty _)
  case max => exact congrArg (BitVec.ofInt 64) (redInt_max hty _)
  case and => exact congrArg (List.foldl (· &&& ·) · ((Claim.column t (.red k .and ty x y m)).map (·.2))) (allOnes_of_tyBits hty)
  all_goals rfl

/-! ## REDIDX -/

/-- The rank by which REDIDX compares (R106): the greater wins, and an F32 NaN is below every number. -/
def idxRank (mx : Bool) (ty : Ty) (v : W64) : WithBot ℤ :=
  match idxKey ty v with
  | none => ⊥
  | some k => ((if mx then k else -k : ℤ) : WithBot ℤ)

/-- `w` is the first of the greatest rank in a list. -/
def Wins {α : Type} (rank : α → WithBot ℤ) (w : α) (l : List α) : Prop :=
  ∃ pre post, l = pre ++ w :: post ∧ (∀ g ∈ pre, rank g < rank w) ∧ ∀ g ∈ post, rank g ≤ rank w

/-- The later lane wins exactly when its rank is greater. -/
theorem idxBest_cons (mx : Bool) (ty : Ty) (b e : Nat × W64) (r : List (Nat × W64)) :
    idxBest mx ty (some b) (e :: r) = idxBest mx ty (some (if idxRank mx ty b.2 < idxRank mx ty e.2 then e else b)) r := by
  rw [idxBest]
  refine congrArg (fun w => idxBest mx ty (some w) r) ?_
  unfold idxRank
  cases idxKey ty b.2 <;> cases idxKey ty e.2 <;> cases mx <;> simp

/-- Before a list whose first entry is `b` another that is below `b` changes no winner. -/
theorem Wins.cons_of_lt {α : Type} {rank : α → WithBot ℤ} {w b e : α} {r : List α} (h : Wins rank w (e :: r)) (hlt : rank b < rank e) :
    Wins rank w (b :: e :: r) := by
  obtain ⟨pre, post, hl, hpre, hpost⟩ := h
  have hb : rank b < rank w := by
    cases pre with
    | nil => obtain ⟨rfl, -⟩ := List.cons.inj hl; exact hlt
    | cons p pre => obtain ⟨rfl, -⟩ := List.cons.inj hl; exact hlt.trans (hpre e List.mem_cons_self)
  exact ⟨b :: pre, post, by rw [hl]; rfl, List.forall_mem_cons.2 ⟨hb, hpre⟩, hpost⟩

/-- Behind the first entry one that is not above it changes no winner. -/
theorem Wins.insert_of_le {α : Type} {rank : α → WithBot ℤ} {w b e : α} {r : List α} (h : Wins rank w (b :: r)) (hle : rank e ≤ rank b) :
    Wins rank w (b :: e :: r) := by
  obtain ⟨pre, post, hl, hpre, hpost⟩ := h
  cases pre with
  | nil =>
    obtain ⟨rfl, rfl⟩ := List.cons.inj hl
    exact ⟨[], e :: r, rfl, fun _ h => absurd h List.not_mem_nil, List.forall_mem_cons.2 ⟨hle, hpost⟩⟩
  | cons p pre =>
    obtain ⟨rfl, rfl⟩ := List.cons.inj hl
    obtain ⟨hb, hpre'⟩ := List.forall_mem_cons.1 hpre
    exact ⟨b :: e :: pre, post, rfl, List.forall_mem_cons.2 ⟨hb, List.forall_mem_cons.2 ⟨hle.trans_lt hb, hpre'⟩⟩, hpost⟩

theorem wins_idxBest (mx : Bool) (ty : Ty) (b : Nat × W64) (r : List (Nat × W64)) :
    ∃ w, idxBest mx ty (some b) r = some w ∧ Wins (fun e => idxRank mx ty e.2) w (b :: r) := by
  induction r generalizing b with
  | nil => exact ⟨b, rfl, [], [], rfl, by simp, by simp⟩
  | cons e r ih =>
    rw [idxBest_cons]
    split
    next hlt =>
      obtain ⟨w, hw, hwins⟩ := ih e
      exact ⟨w, hw, hwins.cons_of_lt hlt⟩
    next hle =>
      obtain ⟨w, hw, hwins⟩ := ih b
      exact ⟨w, hw, hwins.insert_of_le (not_lt.1 hle)⟩

/-- Among the entries with a number or, where there is none, among all, the winner is the first that no other beats. -/
theorem find?_of_wins {α : Type} {rank : α → WithBot ℤ} {w : α} {l pool : List α} {nan : α → Bool} {beats : α → α → Bool} (h : Wins rank w l)
    (hpool : pool = if l.any (fun e => !nan e) then l.filter (fun e => !nan e) else l) (hnan : ∀ e, nan e = true ↔ rank e = ⊥)
    (hbeats : ∀ a b, nan a = nan b → (beats a b = true ↔ rank b < rank a)) : pool.find? (fun e => pool.all (fun g => !beats g e)) = some w := by
  obtain ⟨pre, post, rfl, hpre, hpost⟩ := h
  obtain ⟨pre', post', hsplit, hpre', hpost', hsame⟩ : ∃ pre' post', pool = pre' ++ w :: post' ∧ pre' ⊆ pre ∧ post' ⊆ post ∧ ∀ g ∈ pool, nan g = nan w := by
    cases hw : nan w with
    | false =>
      have hany : (pre ++ w :: post).any (fun e => !nan e) = true := List.any_eq_true.2 ⟨w, by simp, by simp [hw]⟩
      rw [if_pos hany] at hpool
      refine ⟨pre.filter (fun e => !nan e), post.filter (fun e => !nan e), by simp [hpool, hw], List.filter_sublist.subset, List.filter_sublist.subset, fun g hg => ?_⟩
      rw [hpool] at hg
      simpa using (List.mem_filter.1 hg).2
    | true =>
      have hbot : rank w = ⊥ := (hnan w).1 hw
      have hall : ∀ g ∈ pre ++ w :: post, nan g = true := by
        intro g hg
        obtain hg | rfl | hg := by simpa using hg
        · exact absurd (hbot ▸ hpre g hg) not_lt_bot
        · exact hw
        · exact (hnan g).2 (le_bot_iff.1 (hbot ▸ hpost g hg))
      have hany : (pre ++ w :: post).any (fun e => !nan e) = false := List.any_eq_false.2 fun g hg => by simp [hall g hg]
      rw [if_neg (by simp [hany])] at hpool
      exact ⟨pre, post, hpool, fun _ h => h, fun _ h => h, hpool ▸ hall⟩
  have hmem : w ∈ pool := by simp [hsplit]
  refine List.find?_eq_some_iff_append.2 ⟨List.all_eq_true.2 fun g hg => ?_, pre', post', hsplit, fun a ha => ?_⟩
  · have hle : rank g ≤ rank w := by
      obtain hg | rfl | hg := by simpa [hsplit] using hg
      · exact (hpre g (hpre' hg)).le
      · exact le_rfl
      · exact hpost g (hpost' hg)
    have hno : ¬beats g w = true := fun hb => hle.not_gt ((hbeats g w (hsame g hg)).1 hb)
    simpa using hno
  · have ha' : a ∈ pool := by simp [hsplit, ha]
    have hb : beats w a = true := (hbeats w a (hsame a ha').symm).2 (hpre a (hpre' ha))
    have hnot : ¬pool.all (fun g => !beats g a) = true := fun hall => by simpa [hb] using List.all_eq_true.1 hall w hmem
    simpa using hnot

/-- An F32 NaN (R106). -/
def idxNan (ty : Ty) (v : W64) : Bool := decide (ty = .f32) && fmtF32.isNan v.toNat

/-- The number of a lane value; 0 stands for a NaN. -/
def idxNum (ty : Ty) (v : W64) : Int := if ty = .f32 then (if idxNan ty v then 0 else fmtF32.key v.toNat) else Claim.num ty v

/-- A value of `.max` above, or of `.min` below, another. -/
def idxBeats (mx : Bool) (ty : Ty) (a b : W64) : Bool := if mx then decide (idxNum ty b < idxNum ty a) else decide (idxNum ty a < idxNum ty b)

/-- The types of REDIDX. -/
def IdxTy (ty : Ty) : Prop := ty = .s32 ∨ ty = .n32 ∨ ty = .f32

theorem idxKey_eq {ty : Ty} (hty : IdxTy ty) (v : W64) : idxKey ty v = if idxNan ty v then none else some (idxNum ty v) := by
  obtain rfl | rfl | rfl := hty
  · exact congrArg some (num_eq_val rfl v).symm
  · exact congrArg some (num_eq_val rfl v).symm
  · cases hnan : fmtF32.isNan v.toNat <;> simp [idxKey, idxNan, idxNum, hnan]

theorem idxNan_iff {ty : Ty} (hty : IdxTy ty) (mx : Bool) (v : W64) : idxNan ty v = true ↔ idxRank mx ty v = ⊥ := by
  cases hnan : idxNan ty v <;> simp [idxRank, idxKey_eq hty, hnan]

theorem idxBeats_iff {ty : Ty} (hty : IdxTy ty) (mx : Bool) {a b : W64} (h : idxNan ty a = idxNan ty b) :
    idxBeats mx ty a b = true ↔ idxRank mx ty b < idxRank mx ty a := by
  cases hnan : idxNan ty b with
  | true =>
    have hzero (v : W64) (hv : idxNan ty v = true) : idxNum ty v = 0 := by
      have hf : ty = .f32 := by simpa using (Bool.and_eq_true_iff.1 hv).1
      simp [idxNum, hf, hf ▸ hv]
    simp [idxRank, idxKey_eq hty, h, hnan, idxBeats, hzero a (h.trans hnan), hzero b hnan]
  | false => cases mx <;> simp [idxRank, idxKey_eq hty, h, hnan, idxBeats]

theorem redidxValue_of_best {mx : Bool} {ty : Ty} {l : List (Nat × W64)} {w : Nat × W64} (h : idxBest mx ty none l = some w) :
    redidxValue mx ty l = BitVec.ofNat 64 ((if idxNan ty w.2 then 0x7FC00000 else w.2.toNat % 2 ^ 32) * 2 ^ 32 + w.1) := by
  have hnan : fmtF32.nan = 0x7FC00000 := by decide
  unfold redidxValue idxNan
  rw [h, hnan]
  simp only [Bool.and_eq_true, decide_eq_true_eq]

/-- REDIDX gives the value and the lane that R106 says. -/
theorem redidxValue_eq {k : Marks} {mx : Bool} {ty : Ty} {x : SCode} {y : VCode} {m : MCode} (hty : IdxTy ty) (t : Strand) (f : Strand → W64)
    (hf : Claim.laneScalar (.redidx k mx ty x y m) = some (x, f)) : redidxValue mx ty (Claim.column t (.redidx k mx ty x y m)) = f t := by
  obtain rfl := (Prod.mk.inj (Option.some.inj hf)).2
  cases hc : Claim.column t (.redidx k mx ty x y m) with
  | nil =>
    simp only [hc]
    obtain rfl | rfl | rfl := hty <;> cases mx <;> rfl
  | cons e r =>
    obtain ⟨w, hbest, hwins⟩ := wins_idxBest mx ty e r
    have hfind := find?_of_wins (pool := if (e :: r).any (fun e => !idxNan ty e.2) then (e :: r).filter (fun e => !idxNan ty e.2) else e :: r)
      (nan := fun e => idxNan ty e.2) (beats := fun a b => idxBeats mx ty a.2 b.2) hwins rfl
      (fun e => idxNan_iff hty mx e.2) (fun a b h => idxBeats_iff hty mx h)
    unfold idxBeats idxNum idxNan at hfind
    simp only [hc]
    rw [hfind]
    exact redidxValue_of_best hbest

/-! ## VGET -/

/-- The high half of a lane of a 32-bit operand is 0. -/
theorem at_readV_lt (t : Strand) (y : VCode) (l : Nat) : ((t.readV ⟨y, false⟩).at l).toNat < 2 ^ 32 := by
  have hat : (t.readV ⟨y, false⟩).at l = (0 : W32) ++ (t.vec y.toNat).lane l := rfl
  rw [hat, BitVec.toNat_append]
  simpa using ((t.vec y.toNat).lane l).isLt

/-- The value of a lane that VGET writes: a signed one is sign-extended, another stands as it is (R109). -/
theorem val_vget {ty : Ty} (hty : ty = .b32 ∨ ty = .s32 ∨ ty = .n64) (t : Strand) (y : VCode) (l : Nat) :
    BitVec.ofInt 64 (ty.val ((t.readV ⟨y, ty.wide⟩).at l)) =
      if ty = .s32 then (((t.readV ⟨y, ty.wide⟩).at l).setWidth 32).signExtend 64 else (t.readV ⟨y, ty.wide⟩).at l := by
  obtain rfl | rfl | rfl := hty
  · have hlt := at_readV_lt t y l
    show BitVec.ofInt 64 (intOf 32 false ((t.readV ⟨y, false⟩).at l)) = (t.readV ⟨y, false⟩).at l
    rw [intOf_unsigned, BitVec.ofInt_natCast, BitVec.toNat_setWidth, Nat.mod_eq_of_lt hlt, BitVec.ofNat_toNat, BitVec.setWidth_eq]
  · exact congrArg (BitVec.ofInt 64) (intOf_signed _ (by decide))
  · show BitVec.ofInt 64 (intOf 64 false ((t.readV ⟨y, true⟩).at l)) = (t.readV ⟨y, true⟩).at l
    rw [intOf_unsigned, BitVec.ofInt_natCast, BitVec.setWidth_eq, BitVec.ofNat_toNat, BitVec.setWidth_eq]

/-- What VGET writes of lane `j` (R109). -/
def vgetValue (ty : Ty) (j : Nat) (t : Strand) (v : List VOpd) (m : LaneMap) : W64 :=
  match v with
  | [a] => if j < t.ext ∧ m.getLsbD j then BitVec.ofInt 64 (ty.val (a.at j)) else 0
  | _ => 0

/-! ## The three instructions -/

theorem tyRed_of_wellFormed {k : Marks} {op : RedOp} {ty : Ty} {x : SCode} {y : VCode} {m : MCode}
    (h : WellFormed true (.red k op ty x y m) = true) : Wf.tyRed op ty = true := by
  obtain ⟨⟨hty, -⟩, -⟩ : (Wf.tyRed op ty = true ∧ Wf.vsrc ty.wide y = true) ∧ Wf.map m = true := by simpa only [WellFormed, Bool.and_eq_true] using h
  exact hty

theorem idxTy_of_wellFormed {k : Marks} {mx : Bool} {ty : Ty} {x : SCode} {y : VCode} {m : MCode}
    (h : WellFormed true (.redidx k mx ty x y m) = true) : IdxTy ty := by
  cases ty <;> simp [WellFormed, IdxTy] at h ⊢

theorem tyVget_of_wellFormed {k : Marks} {ty : Ty} {x : SCode} {y : VCode} {z : SCode} {n : BitVec 10} {m : MCode}
    (h : WellFormed true (.vget k ty x y z n m) = true) : ty = .b32 ∨ ty = .s32 ∨ ty = .n64 := by
  cases ty <;> simp [WellFormed] at h ⊢

/-- The instructions that write a scalar from lanes. -/
theorem laneScalar_cases {i : Instr} {x : SCode} {f : Strand → W64} (h : Claim.laneScalar i = some (x, f)) :
    (∃ k op ty y m, i = .red k op ty x y m) ∨ (∃ k mx ty y m, i = .redidx k mx ty x y m) ∨ ∃ k ty y z n m, i = .vget k ty x y z n m := by
  unfold Claim.laneScalar at h
  split at h
  · obtain ⟨rfl, -⟩ := Prod.mk.inj (Option.some.inj h)
    exact .inl ⟨_, _, _, _, _, rfl⟩
  · obtain ⟨rfl, -⟩ := Prod.mk.inj (Option.some.inj h)
    exact .inr (.inl ⟨_, _, _, _, _, rfl⟩)
  · obtain ⟨rfl, -⟩ := Prod.mk.inj (Option.some.inj h)
    exact .inr (.inr ⟨_, _, _, _, _, _, rfl⟩)
  · cases h

/-- Settles O5: each is done with the scalar that its rule gives, once the map discipline lets it pass. -/
theorem laneScalarResults : Obligations.LaneScalarResults := by
  intro i x f hf hwf s hi hdisc
  have hreads (v : Strand → List VOpd → LaneMap → W64)
      (hv : v ((s.me.countDrop (operOf i)).popQ (operOf i)) ((operOf i).srcs.map s.me.readV) (s.me.operMap (operOf i)) = f s.me) :
      reads (operOf i) s (fun t o m => t.setS x (v t o m)) =
        .done (s.setMe (((s.me.countDrop (operOf i)).popQ (operOf i)).setS x (f s.me))) (s.me.lanesK (operOf i)) := by
    rw [reads_done hdisc, hv]
  obtain ⟨k, op, ty, y, m, rfl⟩ | ⟨k, mx, ty, y, m, rfl⟩ | ⟨k, ty, y, z, n, m, rfl⟩ := laneScalar_cases hf
  · change ∃ t, execRed k op ty x y m s = .next t ∧ _
    refine completes_scalar hi rfl (hreads _ ?_)
    rw [Strand.popQ_f, Strand.countDrop_f, Strand.popQ_ext, Strand.countDrop_ext]
    exact redValue_eq (tyRed_of_wellFormed hwf) s.me f hf
  · change ∃ t, execRedidx k mx ty x y m s = .next t ∧ _
    refine completes_scalar hi rfl (hreads _ ?_)
    rw [Strand.popQ_ext, Strand.countDrop_ext]
    exact redidxValue_eq (idxTy_of_wellFormed hwf) s.me f hf
  · obtain rfl := (Prod.mk.inj (Option.some.inj hf)).2
    change ∃ t, execVget k ty x y z n m s = .next t ∧ _
    refine completes_scalar hi rfl (hreads (vgetValue ty ((s.me.s z).toNat + n.toNat)) ?_)
    exact if_congr (by rw [Strand.popQ_ext, Strand.countDrop_ext]) (val_vget (tyVget_of_wellFormed hwf) s.me y _) rfl

end Sys2Proof.Machine
end

section
namespace Sys2Proof.Machine

/-! # Comparisons (O6) -/

/-! ## Lanes of maps -/

theorem mem_lanesIn {n l : Nat} {m : LaneMap} : l ∈ lanesIn n m ↔ l < n ∧ m.getLsbD l = true := by simp [lanesIn]

/-- A map of listed lanes holds those of them that it has room for. -/
theorem getLsbD_mapOf (ls : List Nat) (l : Nat) : (mapOf ls).getLsbD l = decide (l < 1024 ∧ l ∈ ls) := by
  have hfold (m : LaneMap) : (ls.foldl (fun m i => m ||| BitVec.ofNat 1024 (2 ^ i)) m).getLsbD l = (m.getLsbD l || decide (l < 1024 ∧ l ∈ ls)) := by
    induction ls generalizing m with
    | nil => simp
    | cons i r ih =>
      have hbit : (BitVec.ofNat 1024 (2 ^ i)).getLsbD l = (decide (l < 1024) && decide (i = l)) := by
        rw [BitVec.getLsbD_ofNat, Nat.testBit_two_pow]
      rw [List.foldl_cons, ih, BitVec.getLsbD_or, hbit, Bool.eq_iff_iff]
      simp only [Bool.or_eq_true, Bool.and_eq_true, decide_eq_true_eq, List.mem_cons]
      tauto
  exact (hfold 0).trans (by simp)

/-- Every other map register is as before. -/
theorem Strand.mapReg_setMapReg_ne (t : Strand) {c d : MCode} (m : LaneMap) (h : d ≠ c) : (t.setMapReg c m).mapReg d = t.mapReg d := by
  have hn : d.toNat ≠ c.toNat := fun e => h (BitVec.eq_of_toNat_eq e)
  unfold Strand.mapReg
  split
  · exact congrArg (fun l : List CEntry => match l with | e :: _ => e.map | [] => 0) (t.setMapReg_stack c m)
  · unfold Strand.setMapReg
    split
    · rfl
    · exact Tbl.get_set_ne _ _ _ hn

/-! ## What an issue that writes maps does -/

section
variable {i : Instr} {s : State} {h : Head} {body : State → Res} {r : Strand} {k n : Nat}

/-- A change of the running strand before does not show after. -/
theorem Quiet.of_setStrand {u c : Nat} {s t : State} {x : Strand} (hq : Quiet u c s t) : Quiet u c (s.setStrand u x) t where
  memory := hq.memory
  rest := hq.rest
  strands v hv := (hq.strands v hv).trans (State.strand_setStrand_ne s u x v hv).symm
  cores := hq.cores
  own := hq.own

/-- An instruction that has completed with strand `r` has gone on from the state with `r` set. -/
theorem goes_of_completes {c : ICls} {t : State} (hc : Completes c n s t r) : Goes c n s (s.setMe r) t := by
  obtain ⟨hquiet, hstill⟩ := hc
  rw [Goes, State.strand_setMe_same, State.spilled_setMe]
  refine ⟨?_, hstill⟩
  have hcur : (s.spilled s r).cur = s.cur := State.spilled_cur s s r
  rw [State.setMe, hcur]
  exact hquiet.of_setStrand

/-- The answer of a fault other than a TRAP's or BKPT's: its handler takes it, or it kills (R321, R322). -/
theorem does_fault {c : Code} {d : Nat} (hc : c ≠ .trap ∧ c ≠ .bkpt) (hexec : exec i s = .next (finish s h (.trap c d))) :
    Claim.Does i n s (.fault c d) := by
  simp only [Claim.Does]
  split
  next dest hdest => exact ⟨_, hexec, raises_of_trap s h c d dest hc hdest⟩
  next hnone =>
    rw [hexec, finish, if_neg (by simp [hc.1, hc.2])]
    exact congrArg _ (takeFault_of_trapTarget_none hnone)

/-- An instruction that writes maps and is done with strand `r`, once there is room for its sources: it goes on with `r` where its maps fit,
and else as room is found for them (R79, R80). -/
theorem does_roomed (hi : Issues i s) (hexec : exec i s = issue i h s body) (hcls : h.cls = .plain) (hw : writesMap i = true)
    (hx : (faultsOnRoom i && s.me.sourcesExhaust (operOf i)) = false) (hbody : body s = .done (s.setMe r) k) (hcore : r.core = s.me.core) :
    (r.mapsFit = true → ∃ t, exec i s = .next t ∧ Completes .plain h.n s t r) ∧ Claim.Does i h.n s (Claim.roomed i (.go (s.setMe r))) := by
  rw [issue_share hi, hbody] at hexec
  have hdone (w : Strand) (hwc : w.core = s.me.core) : Completes .plain h.n s (finish s h (.done (s.setMe w) k)) w :=
    hcls ▸ completes_of_done s h w k hwc
  have hgo (w : Strand) (hwc : w.core = s.me.core) (ha : settleRoom s i (.done (s.setMe r) k) = .done (s.setMe w) k) :
      Claim.Does i h.n s (.go (s.setMe w)) := ⟨_, ha ▸ hexec, goes_of_completes (hdone w hwc)⟩
  refine ⟨fun hfit => ?_, ?_⟩
  · rw [settleRoom_done hx hw (Strand.mapRoom_fit hfit i)] at hexec
    exact ⟨_, hexec, hdone r hcore⟩
  · simp only [Claim.roomed, State.me_setMe]
    cases hroom : r.mapRoom i with
    | ok w =>
      have hwc : w.core = s.me.core := by rw [Strand.mapRoom_eq hroom]; exact hcore
      simp only [State.setMe_setMe]
      exact hgo w hwc (settleRoom_done hx hw hroom k)
    | wait =>
      have hstall : settleRoom s i (.done (s.setMe r) k) = .stall := by simp [settleRoom, hx, hw, Res.share, hroom]
      rw [hstall] at hexec
      exact hexec
    | full =>
      cases hf : faultsOnRoom i with
      | true =>
        rw [settleRoom_full hf hroom] at hexec
        exact does_fault (by decide) hexec
      | false => exact hgo r hcore (settleRoom_over hf hw hroom k)

end

/-! ## PEG-EXHAUSTED for sources -/

theorem sumOf_eq_sum {α : Type} (f : α → Nat) (l : List α) : sumOf f l = (l.map f).sum := List.sum_eq_foldl.symm

/-- An instruction that takes no park and has no vector destination faults for its sources where they exceed the quota, or where one of them
is evicted: what could come back it would have waited for (R78, R80). -/
theorem sourcesExhaust_iff {i : Instr} {s : State} (hi : Issues i s) (hd : destOf i = []) : s.me.sourcesExhaust (operOf i) = true ↔
    s.me.pegquota < ((operOf i).vregs.dedup.map s.me.regPegs).sum + s.me.queuePegs ∨ ∃ r ∈ (operOf i).vregs, r ∈ s.me.evicted := by
  obtain ⟨-, hpark, -⟩ := hi
  have hstays : s.me.restores i = false := by
    unfold operandPark at hpark
    dsimp only at hpark
    split at hpark
    · cases hpark
    · by_contra hr
      rw [if_pos (by simpa using hr)] at hpark
      cases hpark
  have hkeep : keepOf i = (operOf i).vregs := by simp [keepOf, hd]
  have hlost : s.me.lost (operOf i) ≠ [] ↔ ∃ r ∈ (operOf i).vregs, r ∈ s.me.evicted := by
    simp [Strand.lost, List.filter_eq_nil_iff]
  have hfull : s.me.lost (operOf i) ≠ [] → s.me.restoreRoom (operOf i).vregs (s.me.lost (operOf i)) = .full := by
    simpa [Strand.restores, hkeep] using hstays
  rw [← hlost, ← sumOf_eq_sum]
  simp only [Strand.sourcesExhaust, Bool.or_eq_true, Bool.and_eq_true, decide_eq_true_eq]
  exact or_congr_right (and_iff_left_of_imp hfull)

/-! ## The two maps -/

/-- The lanes of the operating map where the condition holds. -/
def heldMap (a : Strand) (o : Oper) (f : Strand → W64 → W64 → Bool) : LaneMap :=
  mapOf ((lanesIn a.ext (a.operMap o)).filter (fun l => f a (((o.srcs.map a.readV).getD 0 ⟨[], [], []⟩).at l) (((o.srcs.map a.readV).getD 1 ⟨[], [], []⟩).at l)))

/-- A map split between two registers: `yes` to the first, the rest to the second where there is one. -/
def Strand.splitMap (t : Strand) (x pe : MCode) (m yes : LaneMap) : Strand :=
  if pe = 0 then t.setMapReg x yes else (t.setMapReg x yes).setMapReg pe (m ^^^ yes)

theorem getLsbD_heldMap (a : Strand) (o : Oper) (f : Strand → W64 → W64 → Bool) (l : Nat) :
    (heldMap a o f).getLsbD l = (decide (l < a.ext) && (a.operMap o).getLsbD l &&
      f a (((o.srcs.map a.readV).getD 0 ⟨[], [], []⟩).at l) (((o.srcs.map a.readV).getD 1 ⟨[], [], []⟩).at l)) := by
  have hroom : (a.operMap o).getLsbD l = true → l < 1024 := fun h => BitVec.lt_of_getLsbD h
  rw [heldMap, getLsbD_mapOf, Bool.eq_iff_iff]
  simp only [List.mem_filter, mem_lanesIn, decide_eq_true_eq, Bool.and_eq_true]
  exact and_iff_right_of_imp fun h => hroom h.1.2

section
variable (t : Strand) {x pe : MCode} (m yes : LaneMap)

@[simp] theorem Strand.splitMap_core : (t.splitMap x pe m yes).core = t.core := by
  unfold Strand.splitMap; split <;> simp

theorem Strand.mapReg_splitMap_first (hx : x ≠ 0) (hpe : pe ≠ 0 → pe ≠ x) : (t.splitMap x pe m yes).mapReg x = yes := by
  unfold Strand.splitMap
  split
  · exact t.mapReg_setMapReg_same x yes hx
  · next h => rw [Strand.mapReg_setMapReg_ne _ _ (hpe h).symm, Strand.mapReg_setMapReg_same _ _ _ hx]

theorem Strand.mapReg_splitMap_second (hpe : pe ≠ 0) : (t.splitMap x pe m yes).mapReg pe = m ^^^ yes := by
  rw [Strand.splitMap, if_neg hpe, Strand.mapReg_setMapReg_same _ _ _ hpe]

end

/-- A comparison writes its two maps, once the map discipline lets it pass (R98, R129). -/
theorem compare_done {i : Instr} {s : State} (hdisc : s.me.disc = 2 → s.me.dropCount (operOf i) = 0) (hsrcs : ∃ p q, (operOf i).srcs = [p, q])
    (x pe : MCode) (f : Strand → W64 → W64 → Bool) :
    compare i x pe s f = .done (s.setMe (((s.me.countDrop (operOf i)).popQ (operOf i)).splitMap x pe (s.me.operMap (operOf i)) (heldMap s.me (operOf i) f)))
      (s.me.lanesK (operOf i)) := by
  obtain ⟨p, q, hpq⟩ := hsrcs
  rw [compare, reads_done hdisc]
  simp only [hpq, heldMap, Strand.splitMap, Strand.popQ_ext, Strand.countDrop_ext, List.map_cons, List.map_nil]
  rfl

/-! ## The two instructions -/

/-- Instruction `i` compares its two sources by `f` into `x` and `pe`. -/
structure Compares (i : Instr) (x pe : MCode) (f : Strand → W64 → W64 → Bool) : Prop where
  runs : ∃ k op, ∀ s, exec i s = issue i ⟨k, op, 2, .plain⟩ s (fun s => compare i x pe s f)
  srcs : ∃ p q, (operOf i).srcs = [p, q]
  writes : writesMap i = true
  noVector : destOf i = []
  first : x ≠ 0
  second : pe ≠ 0 → pe ≠ x

theorem comparison_cases {i : Instr} {x pe : MCode} {f : Strand → W64 → W64 → Bool} (h : Claim.comparison i = some (x, pe, f)) :
    (∃ k ty cc y z m, i = .cmp k ty cc x pe y z m) ∨ ∃ k ty cc y z m, i = .fcmp k ty cc x pe y z m := by
  unfold Claim.comparison at h
  split at h
  · obtain ⟨rfl, hrest⟩ := Prod.mk.inj (Option.some.inj h)
    obtain ⟨rfl, -⟩ := Prod.mk.inj hrest
    exact .inl ⟨_, _, _, _, _, _, rfl⟩
  · obtain ⟨rfl, hrest⟩ := Prod.mk.inj (Option.some.inj h)
    obtain ⟨rfl, -⟩ := Prod.mk.inj hrest
    exact .inr ⟨_, _, _, _, _, _, rfl⟩
  · cases h

theorem ne_zero_of_mdst {x : MCode} (h : Wf.mdst x = true) : x ≠ 0 := by
  rintro rfl
  exact absurd h (by decide)

theorem ne_of_second {x pe : MCode} (h : Wf.second x pe = true) (hpe : pe ≠ 0) : pe ≠ x := by
  obtain ⟨-, hne⟩ : Wf.map pe = true ∧ (pe = 0 ∨ pe ≠ x) := by simpa [Wf.second] using h
  exact hne.resolve_left hpe

theorem compares_of_comparison {i : Instr} {x pe : MCode} {f : Strand → W64 → W64 → Bool} (h : Claim.comparison i = some (x, pe, f))
    (hwf : WellFormed true i = true) : Compares i x pe f := by
  obtain ⟨k, ty, cc, y, z, m, rfl⟩ | ⟨k, ty, cc, y, z, m, rfl⟩ := comparison_cases h
  · obtain ⟨⟨⟨⟨⟨hty, hx⟩, hpe⟩, -⟩, -⟩, -⟩ :
        ((((Wf.tyAdd ty = true ∧ Wf.mdst x = true) ∧ Wf.second x pe = true) ∧ Wf.vsrc ty.wide y = true) ∧ Wf.vsrc ty.wide z = true) ∧ Wf.map m = true := by
      simpa only [WellFormed, Bool.and_eq_true] using hwf
    obtain rfl := (Prod.mk.inj (Prod.mk.inj (Option.some.inj h)).2).2
    refine ⟨⟨k, 0x32, fun s => ?_⟩, ⟨_, _, rfl⟩, rfl, rfl, ne_zero_of_mdst hx, ne_of_second hpe⟩
    rw [show Claim.num ty = ty.val from funext (num_eq_val hty)]
    rfl
  · obtain ⟨⟨⟨⟨⟨-, hx⟩, hpe⟩, -⟩, -⟩, -⟩ :
        ((((Wf.tyFloat ty = true ∧ Wf.mdst x = true) ∧ Wf.second x pe = true) ∧ Wf.vsrc false y = true) ∧ Wf.vsrc false z = true) ∧ Wf.map m = true := by
      simpa only [WellFormed, Bool.and_eq_true] using hwf
    obtain rfl := (Prod.mk.inj (Prod.mk.inj (Option.some.inj h)).2).2
    exact ⟨⟨k, 0x47, fun s => rfl⟩, ⟨_, _, rfl⟩, rfl, rfl, ne_zero_of_mdst hx, ne_of_second hpe⟩

/-- Settles O6: a comparison whose sources have room splits its operating map, and then finds room for the maps. -/
theorem comparisonMaps : Obligations.ComparisonMaps := by
  intro i x pe f hf hwf s hi hdisc a v m lacks
  obtain ⟨⟨k, op, hruns⟩, hsrcs, hwrites, hnoVector, hfirst, hsecond⟩ := compares_of_comparison hf hwf
  have hbody := compare_done hdisc hsrcs x pe f
  have hlacks : lacks ↔ (faultsOnRoom i && s.me.sourcesExhaust (operOf i)) = true := by
    rw [Bool.and_eq_true, sourcesExhaust_iff hi hnoVector]
  refine ⟨fun hl => ?_, fun hl => ⟨_, does_roomed hi (hruns s) rfl hwrites (by simpa using mt hlacks.2 hl) hbody (by simp), ?_, ?_, ?_⟩⟩
  · have hexec := (hruns s).trans (issue_share hi _ _)
    rw [settleRoom_exhaust (hlacks.1 hl) _ (by simp [hbody])] at hexec
    exact does_fault (by decide) hexec
  · intro l
    rw [Strand.mapReg_splitMap_first _ _ _ hfirst hsecond]
    exact getLsbD_heldMap a (operOf i) f l
  · intro hpe l hl
    rw [Strand.mapReg_splitMap_first _ _ _ hfirst hsecond, Strand.mapReg_splitMap_second _ _ _ hpe, BitVec.getLsbD_xor, getLsbD_heldMap]
    have hsplit (p q : Bool) : (p ^^ (p && q)) = (p && !(p && q)) := by cases p <;> cases q <;> rfl
    rw [decide_eq_true hl, Bool.true_and]
    exact hsplit _ _
  · rw [Strand.mapReg_splitMap_first _ _ _ hfirst hsecond]
    by_cases hpe : pe = 0
    · rw [Strand.splitMap, if_pos hpe, if_pos hpe]
    · rw [Strand.mapReg_splitMap_second _ _ _ hpe, Strand.splitMap]

end Sys2Proof.Machine
end

section
namespace Sys2Proof.Machine

/-! # Floating point: NaNs, infinities, zeros, order and CVT (O11) -/

/-! ## Patterns -/

section
variable {f : Fmt}

/-- A format has exponent bits, so that infinity is above every subnormal. -/
theorem two_pow_mb_le_infBits (hf : Claim.IsFmt f) : 2 ^ f.mb ≤ f.infBits := by
  obtain rfl | rfl | rfl := hf <;> decide

theorem infBits_lt (f : Fmt) : f.infBits < 2 ^ f.bits := by
  have hpos : 0 < 2 ^ f.mb := Nat.two_pow_pos _
  have hexp : 0 < 2 ^ f.eb := Nat.two_pow_pos _
  rw [Fmt.infBits, Fmt.bits, pow_add]
  exact Nat.mul_lt_mul_of_pos_right (by omega) hpos

theorem mag_lt (f : Fmt) (x : Nat) : f.mag x < 2 ^ f.bits := Nat.mod_lt _ (Nat.two_pow_pos _)

theorem mag_signed {m : Nat} (hm : m < 2 ^ f.bits) (n : Bool) : f.mag (f.signed n m) = m := by
  cases n
  · exact Nat.mod_eq_of_lt hm
  · rw [Fmt.mag, Fmt.signed, if_pos rfl, Nat.add_mod_left, Nat.mod_eq_of_lt hm]

theorem neg_signed {m : Nat} (hm : m < 2 ^ f.bits) (n : Bool) : f.neg (f.signed n m) = n := by
  cases n
  · exact Nat.testBit_lt_two_pow hm
  · rw [Fmt.neg, Fmt.signed, if_pos rfl, Nat.testBit_two_pow_add_eq, Nat.testBit_lt_two_pow hm]
    rfl

/-- The patterns that the statements write are the model's. -/
theorem patternOf_eq (f : Fmt) (n : Bool) (m : Nat) : Claim.patternOf f n m = f.signed n m := by
  cases n
  · exact Nat.zero_add m
  · rfl

theorem minus_eq (f : Fmt) (x : Nat) : Claim.minus f x = f.neg x := (Nat.testBit_eq_decide_div_mod_eq ..).symm

theorem isNan_iff {x : Nat} : f.isNan x = true ↔ Claim.Nan f x := decide_eq_true_iff

/-! ## Flushing (R123) -/

theorem neg_flush (f : Fmt) (fz : Bool) (x : Nat) : f.neg (f.flush fz x) = f.neg x := by
  unfold Fmt.flush
  split
  · exact neg_signed (Nat.two_pow_pos _) _
  · exact neg_signed (mag_lt f x) _

theorem mag_flush (f : Fmt) (fz : Bool) (x : Nat) : f.mag (f.flush fz x) = if fz ∧ f.mag x < 2 ^ f.mb then 0 else f.mag x := by
  unfold Fmt.flush
  split
  · exact mag_signed (Nat.two_pow_pos _) _
  · exact mag_signed (mag_lt f x) _

/-- Flushing leaves every magnitude that is no subnormal. -/
theorem mag_flush_of_le {x : Nat} (h : 2 ^ f.mb ≤ f.mag x) (fz : Bool) : f.mag (f.flush fz x) = f.mag x := by
  rw [mag_flush, if_neg fun hc => hc.2.not_ge h]

theorem mag_flush_le (f : Fmt) (fz : Bool) (x : Nat) : f.mag (f.flush fz x) ≤ f.mag x := by
  rw [mag_flush]
  split
  · exact Nat.zero_le _
  · exact le_rfl

/-! ## The value of a flushed operand (R115, R123) -/

theorem value_flush_nan (hf : Claim.IsFmt f) {x : Nat} (h : Claim.Nan f x) (fz : Bool) : f.value (f.flush fz x) = .nan := by
  have hm : f.infBits < f.mag (f.flush fz x) := by rwa [mag_flush_of_le ((two_pow_mb_le_infBits hf).trans (le_of_lt h))]
  rw [Fmt.value]
  exact if_pos hm

theorem value_flush_of_inf (hf : Claim.IsFmt f) {x : Nat} (h : Claim.magOf f x = Claim.infinity f) (fz : Bool) :
    f.value (f.flush fz x) = .inf (Claim.minus f x) := by
  have hm : f.mag (f.flush fz x) = f.infBits := (mag_flush_of_le ((two_pow_mb_le_infBits hf).trans (le_of_eq h.symm)) fz).trans h
  simp [Fmt.value, hm, neg_flush, minus_eq]

theorem value_flush_inf (hf : Claim.IsFmt f) (fz p : Bool) : f.value (f.flush fz (Claim.patternOf f p (Claim.infinity f))) = .inf p := by
  have hmag : Claim.magOf f (Claim.patternOf f p (Claim.infinity f)) = Claim.infinity f := by
    rw [patternOf_eq]
    exact mag_signed (infBits_lt f) p
  rw [value_flush_of_inf hf hmag, minus_eq, patternOf_eq]
  exact congrArg _ (neg_signed (infBits_lt f) p)

/-- A finite operand has a finite value of its sign, which is zero where its flushed magnitude is. -/
theorem value_flush_fin {x : Nat} (h : Claim.Finite f x) (fz : Bool) :
    ∃ m e, f.value (f.flush fz x) = .fin (Claim.minus f x) m e ∧ (m = 0 ↔ Claim.magOf f (f.flush fz x) = 0) := by
  have hlt : f.mag (f.flush fz x) < f.infBits := (mag_flush_le f fz x).trans_lt h
  have hmag : Claim.magOf f (f.flush fz x) = f.mag (f.flush fz x) := rfl
  simp only [Fmt.value, hlt.not_gt, hlt.ne, if_false, neg_flush, minus_eq, hmag]
  have hdiv := Nat.div_add_mod (f.mag (f.flush fz x)) (2 ^ f.mb)
  split
  next he =>
    refine ⟨_, _, rfl, ?_⟩
    rw [he, Nat.mul_zero, Nat.zero_add] at hdiv
    rw [hdiv]
  next he =>
    have hpos : 0 < 2 ^ f.mb := Nat.two_pow_pos _
    refine ⟨_, _, rfl, by omega, fun hz => absurd (by rw [hz, Nat.zero_div]) he⟩

theorem value_flush_zero (hf : Claim.IsFmt f) (fz p : Bool) : f.value (f.flush fz (Claim.patternOf f p 0)) = .fin p 0 f.emin := by
  have hpos : 0 < 2 ^ f.bits := Nat.two_pow_pos _
  have hinf : 0 < f.infBits := (Nat.two_pow_pos _).trans_le (two_pow_mb_le_infBits hf)
  have hmag : f.mag (f.flush fz (f.signed p 0)) = 0 := Nat.le_zero.1 ((mag_flush_le f fz _).trans_eq (mag_signed hpos p))
  simp [Fmt.value, patternOf_eq, hmag, neg_flush, neg_signed hpos, hinf.ne]

/-- Every pattern is a NaN, an infinity or finite. -/
theorem nan_or_inf_or_finite (f : Fmt) (x : Nat) : Claim.Nan f x ∨ Claim.magOf f x = Claim.infinity f ∨ Claim.Finite f x := by
  obtain h | h | h := lt_trichotomy (Claim.magOf f x) (Claim.infinity f)
  · exact .inr (.inr h)
  · exact .inr (.inl h)
  · exact .inl h

end

/-! ## Operations on values -/

section
variable (f : Fmt) (rm : Nat) (fz : Bool) (v : FVal)

@[simp] theorem fvAdd_nan_left : fvAdd rm .nan v = .nan := by cases v <;> rfl
@[simp] theorem fvAdd_nan_right : fvAdd rm v .nan = .nan := by cases v <;> rfl
@[simp] theorem fvMul_nan_left : fvMul .nan v = .nan := by cases v <;> rfl
@[simp] theorem fvMul_nan_right : fvMul v .nan = .nan := by cases v <;> rfl
@[simp] theorem fvSub_nan_left : fvSub rm .nan v = .nan := by cases v <;> rfl
@[simp] theorem fvSub_nan_right : fvSub rm v .nan = .nan := by cases v <;> simp [fvSub, FVal.flip]
@[simp] theorem div_nan_left : f.div rm fz .nan v = f.nan := by cases v <;> rfl
@[simp] theorem div_nan_right : f.div rm fz v .nan = f.nan := by cases v <;> rfl
@[simp] theorem fvSub_inf_left (p : Bool) : fvSub rm (.inf p) v = fvAdd rm (.inf p) v.flip := by cases v <;> rfl
@[simp] theorem fvSub_inf_right (p : Bool) : fvSub rm v (.inf p) = fvAdd rm v (.inf !p) := by cases v <;> simp [fvSub, FVal.flip]
@[simp] theorem ofVal_nan : f.ofVal rm fz .nan = Claim.canonical f := rfl
@[simp] theorem ofVal_inf (p : Bool) : f.ofVal rm fz (.inf p) = Claim.patternOf f p (Claim.infinity f) := (patternOf_eq f p _).symm
@[simp] theorem div_inf_fin (a b : Bool) (m : Nat) (e : Int) : f.div rm fz (.inf a) (.fin b m e) = Claim.patternOf f (a != b) (Claim.infinity f) :=
  (patternOf_eq ..).symm
@[simp] theorem div_fin_inf (a b : Bool) (m : Nat) (e : Int) : f.div rm fz (.fin a m e) (.inf b) = Claim.patternOf f (a != b) 0 :=
  (patternOf_eq ..).symm
theorem div_fin_zero (a b : Bool) {m : Nat} (hm : m ≠ 0) (e e' : Int) :
    f.div rm fz (.fin a m e) (.fin b 0 e') = Claim.patternOf f (a != b) (Claim.infinity f) := (if_neg hm).trans (patternOf_eq ..).symm

end

/-! ## Results of NaNs, infinities and zeros (R117, R124, R126) -/

section
variable {f : Fmt} (hf : Claim.IsFmt f) (rm : Nat) (fz : Bool)
include hf

theorem arith_of_nan {x y : Nat} (op : FOp) (h : Claim.Nan f x ∨ Claim.Nan f y) : f.arith rm fz op x y = Claim.canonical f := by
  obtain h | h := h <;> cases op <;> simp [Fmt.arith, value_flush_nan hf h] <;> rfl

theorem fma_of_nan {x y : Nat} (z : Nat) (h : Claim.Nan f x ∨ Claim.Nan f y) :
    f.fma rm fz x y z = Claim.canonical f ∧ f.fma rm fz z x y = Claim.canonical f := by
  obtain h | h := h <;> simp [Fmt.fma, value_flush_nan hf h]

theorem func_of_nan {x : Nat} (op : FFun) (h : Claim.Nan f x) : f.func rm fz op x = Claim.canonical f := by
  cases op <;> simp [Fmt.func, value_flush_nan hf h] <;> rfl

theorem arith_inf_inf (p q : Bool) :
    let inf := Claim.infinity f
    let pat := Claim.patternOf f
    f.arith rm fz .add (pat p inf) (pat q inf) = (if p = q then pat p inf else Claim.canonical f) ∧
    f.arith rm fz .sub (pat p inf) (pat q inf) = (if p = q then Claim.canonical f else pat p inf) ∧
    f.arith rm fz .mul (pat p inf) (pat q inf) = pat (p != q) inf ∧ f.arith rm fz .div (pat p inf) (pat q inf) = Claim.canonical f := by
  simp only [Fmt.arith, value_flush_inf hf]
  refine ⟨?_, ?_, ?_, rfl⟩
  · cases p <;> cases q <;> simp [fvAdd]
  · cases p <;> cases q <;> simp [fvAdd]
  · exact ofVal_inf ..

theorem arith_inf_zero (p q : Bool) :
    let inf := Claim.infinity f
    let pat := Claim.patternOf f
    f.arith rm fz .mul (pat p inf) (pat q 0) = Claim.canonical f ∧ f.arith rm fz .mul (pat q 0) (pat p inf) = Claim.canonical f ∧
    f.arith rm fz .div (pat p 0) (pat q 0) = Claim.canonical f := by
  simp only [Fmt.arith, value_flush_inf hf, value_flush_zero hf]
  exact ⟨rfl, rfl, rfl⟩

/-- An infinity with a finite operand: sums, differences and quotients (R126). -/
theorem arith_inf_finite (p : Bool) {x : Nat} (hx : Claim.Finite f x) :
    let inf := Claim.infinity f
    let pat := Claim.patternOf f
    let sgn := Claim.minus f
    f.arith rm fz .add (pat p inf) x = pat p inf ∧ f.arith rm fz .add x (pat p inf) = pat p inf ∧
    f.arith rm fz .sub (pat p inf) x = pat p inf ∧ f.arith rm fz .sub x (pat p inf) = pat (!p) inf ∧
    f.arith rm fz .div (pat p inf) x = pat (p != sgn x) inf ∧ f.arith rm fz .div x (pat p inf) = pat (p != sgn x) 0 := by
  obtain ⟨m, e, hv, -⟩ := value_flush_fin hx fz
  simp only [Fmt.arith, value_flush_inf hf, hv, fvSub_inf_left, fvSub_inf_right, FVal.flip, fvAdd, ofVal_inf, div_inf_fin, div_fin_inf]
  exact ⟨trivial, trivial, trivial, trivial, trivial, by rw [bne_comm]⟩

/-- An infinity with a finite operand that is not flushed to zero: products and FMA, and its quotient by zero (R126). -/
theorem arith_inf_nonzero (p : Bool) {x : Nat} (hx : Claim.Finite f x) (h0 : Claim.magOf f (f.flush fz x) ≠ 0) :
    let inf := Claim.infinity f
    let pat := Claim.patternOf f
    let sgn := Claim.minus f
    f.arith rm fz .mul (pat p inf) x = pat (p != sgn x) inf ∧ f.arith rm fz .mul x (pat p inf) = pat (p != sgn x) inf ∧
    f.arith rm fz .div x (pat p 0) = pat (p != sgn x) inf := by
  obtain ⟨m, e, hv, hm⟩ := value_flush_fin hx fz
  have hm0 : m ≠ 0 := mt hm.1 h0
  simp only [Fmt.arith, value_flush_inf hf, value_flush_zero hf, hv, fvMul, hm0, if_false, ofVal_inf, div_fin_zero f rm fz _ _ hm0]
  exact ⟨trivial, by rw [bne_comm], by rw [bne_comm]⟩

/-- An infinite product and an addend. -/
theorem fma_of_inf_product (q : Bool) {x y : Nat} (z : Nat) (h : fvMul (f.value (f.flush fz x)) (f.value (f.flush fz y)) = .inf q) :
    f.fma rm fz x y z = Claim.withInfinite f q z := by
  rw [Fmt.fma, h, Claim.withInfinite]
  obtain hz | hz | hz := nan_or_inf_or_finite f z
  · simp [value_flush_nan hf hz, hz]
  · cases hs : Claim.minus f z <;> cases q <;> simp [value_flush_of_inf hf hz, hz, hs, fvAdd]
  · obtain ⟨m, e, hv, -⟩ := value_flush_fin hz fz
    have hnan : ¬Claim.Nan f z := hz.not_gt
    simp [hv, hnan, hz.ne, fvAdd]

theorem fma_inf_nonzero (p : Bool) {x : Nat} (z : Nat) (hx : Claim.Finite f x) (h0 : Claim.magOf f (f.flush fz x) ≠ 0) :
    f.fma rm fz (Claim.patternOf f p (Claim.infinity f)) x z = Claim.withInfinite f (p != Claim.minus f x) z ∧
    f.fma rm fz x (Claim.patternOf f p (Claim.infinity f)) z = Claim.withInfinite f (p != Claim.minus f x) z := by
  obtain ⟨m, e, hv, hm⟩ := value_flush_fin hx fz
  have hm0 : m ≠ 0 := mt hm.1 h0
  constructor <;> refine fma_of_inf_product hf rm fz _ z ?_ <;> rw [value_flush_inf hf, hv]
  · exact if_neg hm0
  · exact (if_neg hm0).trans (by rw [bne_comm])

theorem fma_inf_inf (p q : Bool) (z : Nat) :
    f.fma rm fz (Claim.patternOf f p (Claim.infinity f)) (Claim.patternOf f q (Claim.infinity f)) z = Claim.withInfinite f (p != q) z := by
  refine fma_of_inf_product hf rm fz _ z ?_
  rw [value_flush_inf hf, value_flush_inf hf, fvMul]

theorem fma_inf_zero (p q : Bool) (z : Nat) :
    f.fma rm fz (Claim.patternOf f p (Claim.infinity f)) (Claim.patternOf f q 0) z = Claim.canonical f ∧
    f.fma rm fz (Claim.patternOf f q 0) (Claim.patternOf f p (Claim.infinity f)) z = Claim.canonical f := by
  simp [Fmt.fma, value_flush_inf hf, value_flush_zero hf, fvMul]

/-- An infinite addend to a finite product. -/
theorem fma_finite_inf (p : Bool) {x y : Nat} (hx : Claim.Finite f x) (hy : Claim.Finite f y) :
    f.fma rm fz x y (Claim.patternOf f p (Claim.infinity f)) = Claim.patternOf f p (Claim.infinity f) := by
  obtain ⟨m, e, hvx, -⟩ := value_flush_fin hx fz
  obtain ⟨n, d, hvy, -⟩ := value_flush_fin hy fz
  rw [Fmt.fma, hvx, hvy, value_flush_inf hf, fvMul, fvAdd, ofVal_inf]
  all_goals simp

end

/-! ## Conversions, reciprocals, roots and logarithms (R126, R130) -/

section
variable {f : Fmt} (hf : Claim.IsFmt f) (rm : Nat) (fz : Bool)
include hf

theorem cvtFF_of_nan (g : Fmt) {x : Nat} (h : Claim.Nan f x) : cvtFF f g rm fz x = Claim.canonical g := by
  rw [cvtFF, value_flush_nan hf h, ofVal_nan]

theorem cvtFF_inf (g : Fmt) (p : Bool) : cvtFF f g rm fz (Claim.patternOf f p (Claim.infinity f)) = Claim.patternOf g p (Claim.infinity g) := by
  rw [cvtFF, value_flush_inf hf, ofVal_inf]

theorem cvtFI_of_nan (lo hi : ℤ) {x : Nat} (h : Claim.Nan f x) : cvtFI f rm fz lo hi x = 0 := by
  rw [cvtFI, value_flush_nan hf h, valToInt]

theorem cvtFI_inf (lo hi : ℤ) (p : Bool) : cvtFI f rm fz lo hi (Claim.patternOf f p (Claim.infinity f)) = if p then lo else hi := by
  rw [cvtFI, value_flush_inf hf, valToInt]

theorem func_zero (p : Bool) :
    let inf := Claim.infinity f
    let pat := Claim.patternOf f
    f.func rm fz .rcp (pat p 0) = pat p inf ∧ f.func rm fz .rcp (pat p inf) = pat p 0 ∧ f.func rm fz .rsq (pat p 0) = pat p inf ∧
    f.func rm fz .sqrt (pat p 0) = pat p 0 ∧ f.func rm fz .log2 (pat p 0) = pat true inf := by
  simp only [Fmt.func, value_flush_inf hf, value_flush_zero hf, div_fin_zero f rm fz _ _ Nat.one_ne_zero, div_fin_inf, Bool.false_bne]
  simp only [patternOf_eq]
  exact ⟨trivial, trivial, rfl, rfl, rfl⟩

/-- The pattern of 1. -/
theorem value_flush_one : f.value (f.flush fz (Claim.patternOf f false ((2 ^ (f.eb - 1) - 1) * 2 ^ f.mb))) = .fin false (2 ^ f.mb) (-f.mb) := by
  obtain rfl | rfl | rfl := hf <;> cases fz <;> decide

theorem func_inf :
    let inf := Claim.infinity f
    let pat := Claim.patternOf f
    f.func rm fz .rsq (pat false inf) = pat false 0 ∧ f.func rm fz .sqrt (pat false inf) = pat false inf ∧
    f.func rm fz .exp2 (pat false inf) = pat false inf ∧ f.func rm fz .exp2 (pat true inf) = pat false 0 ∧ f.func rm fz .log2 (pat false inf) = pat false inf := by
  simp only [Fmt.func, value_flush_inf hf]
  simp only [patternOf_eq]
  exact ⟨rfl, rfl, rfl, rfl, rfl⟩

theorem log2_one : f.func rm fz .log2 (Claim.patternOf f false ((2 ^ (f.eb - 1) - 1) * 2 ^ f.mb)) = Claim.patternOf f false 0 := by
  have hm : 2 ^ f.mb ≠ 0 := (Nat.two_pow_pos _).ne'
  simp only [Fmt.func, value_flush_one hf, Fmt.log2, hm, Bool.false_eq_true, if_false, Nat.log2_two_pow, if_true, neg_add_cancel]
  exact (patternOf_eq f false 0).symm

/-- A root or a logarithm of a negative number (R126). -/
theorem func_of_negative {x : Nat} (hs : Claim.minus f x = true) (h0 : 0 < Claim.magOf f (f.flush fz x)) :
    f.func rm fz .rsq x = Claim.canonical f ∧ f.func rm fz .sqrt x = Claim.canonical f ∧ f.func rm fz .log2 x = Claim.canonical f := by
  obtain hx | hx | hx := nan_or_inf_or_finite f x
  · exact ⟨func_of_nan hf rm fz _ hx, func_of_nan hf rm fz _ hx, func_of_nan hf rm fz _ hx⟩
  · simp only [Fmt.func, value_flush_of_inf hf hx, hs]
    exact ⟨rfl, rfl, rfl⟩
  · obtain ⟨m, e, hv, hm⟩ := value_flush_fin hx fz
    have hm0 : m ≠ 0 := mt hm.1 h0.ne'
    simp only [Fmt.func, hv, hs, Fmt.rsqrt, Fmt.sqrt, Fmt.log2, hm0, if_false, if_true]
    exact ⟨rfl, rfl, rfl⟩

end

/-! ## Order (R115, R127) -/

/-- A magnitude pattern in steps of the smallest subnormal. -/
def steps (f : Fmt) (b : Nat) : Nat :=
  if b / 2 ^ f.mb = 0 then b % 2 ^ f.mb else (2 ^ f.mb + b % 2 ^ f.mb) * 2 ^ (b / 2 ^ f.mb - 1)

theorem magValue_eq_steps (f : Fmt) (b : Nat) : Claim.magValue f b = steps f b * (2 : ℝ) ^ (2 - 2 ^ (f.eb - 1) - f.mb : ℤ) := by
  simp only [Claim.magValue, steps]
  split
  · rfl
  next he =>
    obtain ⟨k, hk⟩ := Nat.exists_eq_succ_of_ne_zero he
    have hexp : (2 - 2 ^ (f.eb - 1) - f.mb + (k.succ : Nat) - 1 : ℤ) = k + (2 - 2 ^ (f.eb - 1) - f.mb) := by push_cast; ring
    rw [hk, hexp, zpow_add₀ two_ne_zero, zpow_natCast, ← mul_assoc, Nat.succ_sub_one]
    push_cast
    rfl

theorem steps_mono (f : Fmt) : Monotone (steps f) := by
  intro b c hbc
  have hpos : 0 < 2 ^ f.mb := Nat.two_pow_pos _
  have hb := Nat.mod_lt b hpos
  have hdb := Nat.div_add_mod b (2 ^ f.mb)
  have hdc := Nat.div_add_mod c (2 ^ f.mb)
  obtain he | he := (Nat.div_le_div_right (c := 2 ^ f.mb) hbc).eq_or_lt
  · have hm : b % 2 ^ f.mb ≤ c % 2 ^ f.mb := by rw [he] at hdb; omega
    unfold steps
    rw [he]
    split
    · exact hm
    · exact Nat.mul_le_mul_right _ (by omega)
  · have hlow : steps f b ≤ 2 ^ f.mb * 2 ^ (b / 2 ^ f.mb) := by
      unfold steps
      split
      next h0 => rw [h0]; omega
      next h0 =>
        obtain ⟨k, hk⟩ := Nat.exists_eq_succ_of_ne_zero h0
        rw [hk, Nat.succ_sub_one, pow_succ, mul_comm (2 ^ k), ← mul_assoc]
        exact Nat.mul_le_mul_right _ (by omega)
    have hhigh : 2 ^ f.mb * 2 ^ (c / 2 ^ f.mb - 1) ≤ steps f c := by
      unfold steps
      rw [if_neg ((Nat.zero_le _).trans_lt he).ne']
      exact Nat.mul_le_mul_right _ (by omega)
    exact hlow.trans ((Nat.mul_le_mul_left _ (Nat.pow_le_pow_right (by decide) (Nat.le_sub_one_of_lt he))).trans hhigh)

theorem magValue_mono (f : Fmt) : Monotone (Claim.magValue f) := by
  intro b c hbc
  rw [magValue_eq_steps, magValue_eq_steps]
  exact mul_le_mul_of_nonneg_right (Nat.cast_le.2 (steps_mono f hbc)) (zpow_nonneg two_pos.le _)

theorem magValue_nonneg (f : Fmt) (b : Nat) : 0 ≤ Claim.magValue f b := by
  rw [magValue_eq_steps]
  positivity

/-- The order of FMIN and FMAX is that of the numbers, with −0 before +0. -/
theorem realOf_le_of_key0_le {f : Fmt} {a b : Nat} (h : f.key0 a ≤ f.key0 b) : Claim.realOf f a ≤ Claim.realOf f b := by
  have hmag (x : Nat) : Claim.magOf f x = f.mag x := rfl
  simp only [Claim.realOf, minus_eq, hmag]
  unfold Fmt.key0 at h
  cases ha : f.neg a <;> cases hb : f.neg b <;> simp only [ha, hb, if_true, if_false, Bool.false_eq_true] at h ⊢
  · exact magValue_mono f (by omega)
  · omega
  · exact (neg_nonpos.2 (magValue_nonneg f _)).trans (magValue_nonneg f _)
  · exact neg_le_neg (magValue_mono f (by omega))

/-! ## Minimum, maximum and signs (R127, R128) -/

section
variable {f : Fmt} (hf : Claim.IsFmt f) (fz mx : Bool)
include hf

theorem isNan_flush (x : Nat) : f.isNan (f.flush fz x) = true ↔ Claim.Nan f x := by
  obtain hx | hx := lt_or_ge (f.mag x) (2 ^ f.mb)
  · have hle : f.mag x ≤ f.infBits := hx.le.trans (two_pow_mb_le_infBits hf)
    exact iff_of_false (fun h => (isNan_iff.1 h).not_ge ((mag_flush_le f fz x).trans hle)) (fun h => hle.not_gt h)
  · rw [isNan_iff]
    show f.infBits < f.mag (f.flush fz x) ↔ _
    rw [mag_flush_of_le hx]
    rfl

theorem minmax_of_nans (x y : Nat) :
    (Claim.Nan f x → Claim.Nan f y → f.minmax fz mx x y = Claim.canonical f) ∧ (Claim.Nan f x → ¬Claim.Nan f y → f.minmax fz mx x y = f.flush fz y) ∧
    (¬Claim.Nan f x → Claim.Nan f y → f.minmax fz mx x y = f.flush fz x) := by
  simp only [← isNan_flush hf fz x, ← isNan_flush hf fz y, Fmt.minmax]
  refine ⟨fun hx hy => ?_, fun hx hy => ?_, fun hx hy => ?_⟩
  · simp [hx, hy]; rfl
  · simp [hx, hy]
  · simp [hx, hy]

theorem minmax_of_numbers {x y : Nat} (hx : ¬Claim.Nan f x) (hy : ¬Claim.Nan f y) :
    f.minmax fz mx x y = if decide (f.key0 (f.flush fz x) ≤ f.key0 (f.flush fz y)) != mx then f.flush fz x else f.flush fz y := by
  rw [← isNan_flush hf fz] at hx hy
  simp [Fmt.minmax, hx, hy]

/-- FMIN and FMAX give one of their operands, and none is on its other side. -/
theorem minmax_extreme {x y : Nat} (hx : ¬Claim.Nan f x) (hy : ¬Claim.Nan f y) :
    let a := f.flush fz x
    let b := f.flush fz y
    let r := f.minmax fz mx x y
    (r = a ∨ r = b) ∧ ∀ c, c = a ∨ c = b → if mx then Claim.realOf f c ≤ Claim.realOf f r else Claim.realOf f r ≤ Claim.realOf f c := by
  intro a b r
  have hr : r = if decide (f.key0 a ≤ f.key0 b) != mx then a else b := minmax_of_numbers hf fz mx hx hy
  rw [hr]
  obtain hle | hlt := le_or_gt (f.key0 a) (f.key0 b)
  · have hreal := realOf_le_of_key0_le hle
    cases mx <;> simp [hle, hreal]
  · have hreal := realOf_le_of_key0_le hlt.le
    cases mx <;> simp [hlt.not_ge, hreal]

omit hf in
theorem not_nan_zero (p : Bool) : ¬Claim.Nan f (Claim.patternOf f p 0) := by
  rw [patternOf_eq]
  show ¬f.infBits < f.mag (f.signed p 0)
  rw [mag_signed (Nat.two_pow_pos _)]
  exact Nat.not_lt_zero _

omit hf in
theorem flush_zero (p : Bool) : f.flush fz (Claim.patternOf f p 0) = Claim.patternOf f p 0 := by
  rw [patternOf_eq, Fmt.flush, mag_signed (Nat.two_pow_pos _), neg_signed (Nat.two_pow_pos _), ite_self]

omit hf in
theorem key0_zero (p : Bool) : f.key0 (Claim.patternOf f p 0) = if p then -1 else 0 := by
  rw [patternOf_eq, Fmt.key0, mag_signed (Nat.two_pow_pos _), neg_signed (Nat.two_pow_pos _)]
  cases p <;> rfl

theorem minmax_zeros (p : Bool) : f.minmax fz mx (Claim.patternOf f p 0) (Claim.patternOf f (!p) 0) = Claim.patternOf f (!mx) 0 := by
  rw [minmax_of_numbers hf fz mx (not_nan_zero p) (not_nan_zero !p), flush_zero, flush_zero, key0_zero, key0_zero]
  cases p <;> cases mx <;> rfl

omit hf in
theorem withSign_eq (x : Nat) (neg : Bool) : (Claim.Nan f x → f.withSign x neg = Claim.canonical f) ∧
    (¬Claim.Nan f x → f.withSign x neg = Claim.patternOf f neg (Claim.magOf f x)) := by
  rw [← isNan_iff, patternOf_eq]
  exact ⟨fun h => if_pos h, fun h => if_neg h⟩

end

/-! ## The tree of RED (R132) -/

section
variable (c : Nat → Nat → Nat)

theorem length_pairUp (l : List Nat) : (pairUp c l).length = (l.length + 1) / 2 := by
  induction l using List.twoStepInduction with
  | nil => rfl
  | singleton a => simp [pairUp]
  | cons_cons a b r ih _ => simp only [pairUp, List.length_cons, ih]; omega

/-- Two neighbours are combined. -/
theorem getElem?_pairUp_pair (l : List Nat) (j : Nat) {u v : Nat} (hu : l[2 * j]? = some u) (hv : l[2 * j + 1]? = some v) :
    (pairUp c l)[j]? = some (c u v) := by
  induction l using List.twoStepInduction generalizing j with
  | nil => simp at hu
  | singleton a => simp at hv
  | cons_cons a b r ih _ =>
    cases j with
    | zero => simp_all [pairUp]
    | succ j => exact ih j (by simpa [Nat.mul_succ] using hu) (by simpa [Nat.mul_succ] using hv)

/-- A last one without a neighbour passes unchanged. -/
theorem getElem?_pairUp_single (l : List Nat) (j : Nat) {u : Nat} (hu : l[2 * j]? = some u) (hv : l[2 * j + 1]? = none) :
    (pairUp c l)[j]? = some u := by
  induction l using List.twoStepInduction generalizing j with
  | nil => simp at hu
  | singleton a =>
    cases j with
    | zero => exact hu
    | succ j => simp [Nat.mul_succ] at hu
  | cons_cons a b r ih _ =>
    cases j with
    | zero => simp at hv
    | succ j => exact ih j (by simpa [Nat.mul_succ] using hu) (by simpa [Nat.mul_succ] using hv)

theorem treeOf_succ (n : Nat) (l : List Nat) : treeOf c (n + 1) l = pairUp c (treeOf c n l) := by
  induction n generalizing l with
  | zero => rfl
  | succ n ih => exact ih (pairUp c l)

theorem length_treeOf_le_one (n : Nat) {l : List Nat} (h : l.length ≤ 2 ^ n) : (treeOf c n l).length ≤ 1 := by
  induction n generalizing l with
  | zero => exact h
  | succ n ih =>
    refine ih ?_
    rw [length_pairUp]
    omega

/-- The levels of the tree, from the lanes down to the level `n`. -/
def treeLevels (n : Nat) (l : List Nat) : List (List Nat) := (List.range (n + 1)).map (fun k => treeOf c k l)

theorem head?_treeLevels (n : Nat) (l : List Nat) : (treeLevels c n l).head? = some l := by
  simp [treeLevels, List.range_succ_eq_map, treeOf]

theorem getLast?_treeLevels (n : Nat) (l : List Nat) : (treeLevels c n l).getLast? = some (treeOf c n l) := by
  simp [treeLevels, List.range_succ]

theorem treeLevels_next {n i : Nat} {l a b : List Nat} (ha : (treeLevels c n l)[i]? = some a) (hb : (treeLevels c n l)[i + 1]? = some b) :
    b = pairUp c a := by
  simp only [treeLevels, List.getElem?_map, Option.map_eq_some_iff, List.getElem?_eq_some_iff] at ha hb
  obtain ⟨p, ⟨_, rfl⟩, rfl⟩ := ha
  obtain ⟨q, ⟨_, rfl⟩, rfl⟩ := hb
  simp only [List.getElem_range]
  exact treeOf_succ c i l

end

/-- What RED combines two lanes by. -/
def redPair (rm : Nat) (fz : Bool) (op : Nat) (u v : Nat) : Nat :=
  if op = 0 then fmtF32.arith rm fz .add u v else fmtF32.minmax fz (decide (op = 2)) u v

/-- An F32 NaN by its bits. -/
theorem isNan_f32 (x : Nat) : fmtF32.isNan x = decide (0x7F800000 < x % 2 ^ 31) := by
  have hinf : fmtF32.infBits = 0x7F800000 := by decide
  rw [Fmt.isNan, hinf]
  rfl

/-- The result of RED from the last level of its tree, `unit` standing for no lane. -/
theorem redF_last (last : List Nat) {unit : Nat} (h : fmtF32.isNan unit = false) :
    (if fmtF32.isNan (last.headD unit) then fmtF32.nan else last.headD unit) = match last with
      | [] => unit
      | r :: _ => if 0x7F800000 < r % 2 ^ 31 then 0x7FC00000 else r := by
  have hnan : fmtF32.nan = 0x7FC00000 := by decide
  cases last with
  | nil => exact if_neg (by simp [h])
  | cons r _ => simp [isNan_f32, hnan]

theorem redF_eq (rm : Nat) (fz : Bool) {op : Nat} (hop : op < 3) (l : List Nat) :
    redF rm fz op l = match treeOf (redPair rm fz op) 10 (l.map (fmtF32.flush fz)) with
      | [] => if op = 0 then 0 else if op = 1 then 0x7F800000 else 0xFF800000
      | r :: _ => if 0x7F800000 < r % 2 ^ 31 then 0x7FC00000 else r := by
  obtain rfl | rfl | rfl : op = 0 ∨ op = 1 ∨ op = 2 := by omega
  · exact redF_last _ (by decide)
  · exact redF_last _ (by decide)
  · exact redF_last _ (by decide)

/-- The tree of RED: each level pairs the one above it, and the last has the result (R132). -/
theorem redF_tree (rm : Nat) (fz : Bool) {op : Nat} (l : List Nat) (hop : op < 3) (hl : l.length ≤ 1024) :
    ∃ levels : List (List Nat), levels.head? = some (l.map (fmtF32.flush fz)) ∧
    (∀ i a b, levels[i]? = some a → levels[i + 1]? = some b → b.length = (a.length + 1) / 2 ∧
      ∀ j, (∀ u v, a[2 * j]? = some u → a[2 * j + 1]? = some v →
          b[j]? = some (if op = 0 then fmtF32.arith rm fz .add u v else fmtF32.minmax fz (decide (op = 2)) u v)) ∧
        (∀ u, a[2 * j]? = some u → a[2 * j + 1]? = none → b[j]? = some u)) ∧
    ∃ last, levels.getLast? = some last ∧ last.length ≤ 1 ∧
      redF rm fz op l = (match last with
        | [] => if op = 0 then 0 else if op = 1 then 0x7F800000 else 0xFF800000
        | r :: _ => if 0x7F800000 < r % 2 ^ 31 then 0x7FC00000 else r) := by
  refine ⟨treeLevels (redPair rm fz op) 10 (l.map (fmtF32.flush fz)), head?_treeLevels .., fun i a b ha hb => ?_, _, getLast?_treeLevels ..,
    length_treeOf_le_one _ 10 (by simpa using hl), redF_eq rm fz hop l⟩
  obtain rfl := treeLevels_next _ ha hb
  exact ⟨length_pairUp _ a, fun j => ⟨fun u v => getElem?_pairUp_pair _ a j, fun u => getElem?_pairUp_single _ a j⟩⟩

/-! ## CVT between any two types (R92, R102, R130) -/

section
variable {ty : Ty}

theorem floatType_facts {f : Fmt} (h : Claim.floatType ty = some f) : isFloat ty = true ∧ ty.fmt = f ∧ Claim.IsFmt f := by
  cases ty <;> cases h
  · exact ⟨rfl, rfl, .inl rfl⟩
  · exact ⟨rfl, rfl, .inr (.inr rfl)⟩
  · exact ⟨rfl, rfl, .inr (.inl rfl)⟩

theorem integerType_facts {w : Nat} {sg : Bool} (h : Claim.integerType ty = some (w, sg)) : isFloat ty = false ∧ ty.width = w ∧ ty.isSigned = sg := by
  cases ty <;> cases h <;> exact ⟨rfl, rfl, rfl⟩

theorem lo_le_hi (ty : Ty) : ty.lo ≤ ty.hi := by cases ty <;> decide

/-- Saturation forces a number between the bounds of its type. -/
theorem saturated_eq {w : Nat} {sg : Bool} (h : Claim.integerType ty = some (w, sg)) (v : ℤ) : Claim.saturated w sg v = max ty.lo (min ty.hi v) := by
  obtain ⟨-, rfl, rfl⟩ := integerType_facts h
  unfold Claim.saturated Ty.lo Ty.hi
  cases ty.isSigned <;> rfl

theorem saturated_bounds {w : Nat} {sg : Bool} (h : Claim.integerType ty = some (w, sg)) :
    Claim.saturated w sg (-2 ^ 64) = ty.lo ∧ Claim.saturated w sg (2 ^ 64) = ty.hi := by
  rw [saturated_eq h, saturated_eq h]
  cases ty <;> decide

theorem narrow_eq {w : Nat} {sg : Bool} (h : Claim.integerType ty = some (w, sg)) (v : ℤ) : ty.narrow true v = Claim.inBits w (Claim.saturated w sg v) := by
  have hclamp : (if v < ty.lo then ty.lo else if ty.hi < v then ty.hi else v) = max ty.lo (min ty.hi v) := by
    have := lo_le_hi ty
    omega
  rw [saturated_eq h, ← hclamp, ← (integerType_facts h).2.1]
  rfl

theorem val_eq_denotes {w : Nat} {sg : Bool} (h : Claim.integerType ty = some (w, sg)) (x : W64) : ty.val x = Claim.denotes w sg x := by
  obtain ⟨-, rfl, rfl⟩ := integerType_facts h
  rfl

end

section
variable {src dst : Ty} (rm : Nat) (fz : Bool) (x : W64)

theorem convert_float_float {f g : Fmt} (hs : Claim.floatType src = some f) (hd : Claim.floatType dst = some g) :
    convert src dst rm fz x = BitVec.ofNat 64 (cvtFF f g rm fz x.toNat) := by
  obtain ⟨hfs, rfl, -⟩ := floatType_facts hs
  obtain ⟨hfd, rfl, -⟩ := floatType_facts hd
  simp [convert, hfs, hfd]

theorem convert_float_integer {f : Fmt} {w : Nat} {sg : Bool} (hs : Claim.floatType src = some f) (hd : Claim.integerType dst = some (w, sg)) :
    convert src dst rm fz x = Claim.inBits w (if Claim.Nan f x.toNat then 0
      else cvtFI f rm fz (Claim.saturated w sg (-2 ^ 64)) (Claim.saturated w sg (2 ^ 64)) x.toNat) := by
  obtain ⟨hlo, hhi⟩ := saturated_bounds hd
  obtain ⟨hfs, rfl, hfmt⟩ := floatType_facts hs
  obtain ⟨hfd, rfl, -⟩ := integerType_facts hd
  have hnan : cvtFI src.fmt rm fz dst.lo dst.hi x.toNat = if Claim.Nan src.fmt x.toNat then 0 else cvtFI src.fmt rm fz dst.lo dst.hi x.toNat := by
    split
    next h => exact cvtFI_of_nan hfmt rm fz _ _ h
    next => rfl
  rw [hlo, hhi, ← hnan]
  simp only [convert, hfs, hfd, if_true, Bool.false_eq_true, if_false]
  rfl

theorem convert_integer_float {g : Fmt} {w : Nat} {sg : Bool} (hs : Claim.integerType src = some (w, sg)) (hd : Claim.floatType dst = some g) :
    convert src dst rm fz x = BitVec.ofNat 64 (cvtIF g rm fz (Claim.denotes w sg x)) := by
  obtain ⟨hfd, rfl, -⟩ := floatType_facts hd
  rw [← val_eq_denotes hs]
  simp [convert, (integerType_facts hs).1, hfd]

theorem convert_integer_integer {v w : Nat} {sv sg : Bool} (hs : Claim.integerType src = some (v, sv)) (hd : Claim.integerType dst = some (w, sg)) :
    convert src dst rm fz x = Claim.inBits w (Claim.saturated w sg (Claim.denotes v sv x)) := by
  rw [← val_eq_denotes hs, ← narrow_eq hd]
  simp [convert, (integerType_facts hs).1, (integerType_facts hd).1]

end

/-! ## The statement -/

/-- Settles O11: what an operand's value is after flushing decides each result, the tree pairs level by level, and CVT saturates between the bounds
of its type; the results worked by hand are computed. -/
theorem floatPins : Obligations.FloatPins := by
  refine ⟨fun f hf rm hrm fz => ?_, fun rm fz op l _ hop hl => redF_tree rm fz l hop hl, fun src dst rm fz x _ => ⟨?_, ?_, ?_, ?_⟩, by decide, by decide,
    by decide +kernel⟩
  · dsimp only
    refine ⟨fun x y z op h => ⟨arith_of_nan hf rm fz op h, fma_of_nan hf rm fz z h⟩, fun x g h => func_of_nan hf rm fz g h, fun p q => ?_, fun p x hx => ?_,
      fun p q y => ?_, fun g _ x => ⟨fun h => cvtFF_of_nan hf rm fz g h, fun p => cvtFF_inf hf rm fz g p⟩,
      fun lo hi => ⟨fun x h => cvtFI_of_nan hf rm fz lo hi h, cvtFI_inf hf rm fz lo hi false, cvtFI_inf hf rm fz lo hi true⟩, func_zero hf rm fz, ?_,
      fun x hs h0 => func_of_negative hf rm fz hs h0, fun x y mx => ?_, fun x neg => withSign_eq x neg⟩
    · obtain ⟨hadd, hsub, hmul, hdiv⟩ := arith_inf_inf hf rm fz p q
      exact ⟨hadd, hsub, hmul, hdiv, arith_inf_zero hf rm fz p q⟩
    · obtain ⟨haddl, haddr, hsubl, hsubr, hdivl, hdivr⟩ := arith_inf_finite hf rm fz p hx
      exact ⟨haddl, haddr, hsubl, hsubr, hdivl, hdivr, arith_inf_nonzero hf rm fz p hx, fun h0 z => fma_inf_nonzero hf rm fz p z hx h0,
        fun y hy => fma_finite_inf hf rm fz p hx hy⟩
    · obtain ⟨hl, hr⟩ := fma_inf_zero hf rm fz p q y
      exact ⟨hl, hr, fma_inf_inf hf rm fz p q y⟩
    · obtain ⟨hrsq, hsqrt, hexp, hexp', hlog⟩ := func_inf hf rm fz
      exact ⟨hrsq, hsqrt, hexp, hexp', hlog, log2_one hf rm fz⟩
    · obtain ⟨hboth, hleft, hright⟩ := minmax_of_nans hf fz mx x y
      exact ⟨hboth, hleft, hright, minmax_extreme hf fz mx, minmax_zeros hf fz false true, minmax_zeros hf fz false false, minmax_zeros hf fz true true,
        minmax_zeros hf fz true false⟩
  · exact fun f g hs hd => convert_float_float rm fz x hs hd
  · exact fun f w sg hs hd => convert_float_integer rm fz x hs hd
  · exact fun g w sg hs hd => convert_integer_float rm fz x hs hd
  · exact fun v sv w sg hs hd => convert_integer_integer rm fz x hs hd

end Sys2Proof.Machine
end

section
namespace Sys2Proof.Machine

/-! # SETF and SETG (O7) -/

/-- The bits of F that R121 tests, as numbers. -/
theorem fValid_iff (f : W32) : fValid f = true ↔
    f.toNat / 2 ^ 13 = 0 ∧ f.toNat % 8 < 3 ∧ f.toNat / 2 ^ 9 % 4 ≠ 3 ∧ f.toNat / 2 ^ 11 % 4 ≠ 3 := by
  have hlt := f.isLt
  have hhigh : f.extractLsb' 13 19 = 0 ↔ f.toNat / 2 ^ 13 = 0 := by
    rw [← BitVec.toNat_inj, BitVec.extractLsb'_toNat, Nat.shiftRight_eq_div_pow]
    exact Eq.congr_left (Nat.mod_eq_of_lt (by omega))
  simp only [fValid, Bool.and_eq_true, decide_eq_true_eq, hhigh, fFMT, fSCL, fSPN, BitVec.extractLsb'_toNat, Nat.shiftRight_eq_div_pow]
  norm_num [and_assoc]

/-- The strands that G names, as R210 counts and tests them. -/
def gangStrands (g : BitVec 16) : List Nat := (List.range 16).filter (fun i => g.getLsbD i)

/-- What R210 asks of a value for G that is not 0. -/
theorem gang_iff (s : State) (t : Strand) (g : BitVec 16) :
    ¬(popcount g < 2 ∨ 6 < popcount g ∨ g.getLsbD t.sidx = false ∨
      (List.range 16).any (fun i => g.getLsbD i && (decide (t.fsize ≤ i) || (s.paired t && decide (i % 2 ≠ t.sidx % 2)))) = true) ↔
    2 ≤ (gangStrands g).length ∧ (gangStrands g).length ≤ 6 ∧ t.sidx ∈ gangStrands g ∧
      ∀ i ∈ gangStrands g, i < t.fsize ∧ (s.paired t = true → i % 2 = t.sidx % 2) := by
  have hpop : popcount g = (gangStrands g).length := rfl
  have hself : t.sidx ∈ gangStrands g ↔ g.getLsbD t.sidx = true := by
    simpa [gangStrands] using fun h => BitVec.lt_of_getLsbD h
  have hall : (List.range 16).any (fun i => g.getLsbD i && (decide (t.fsize ≤ i) || (s.paired t && decide (i % 2 ≠ t.sidx % 2)))) = true ↔
      ¬∀ i ∈ gangStrands g, i < t.fsize ∧ (s.paired t = true → i % 2 = t.sidx % 2) := by
    simp only [gangStrands, List.any_eq_true, List.mem_range, List.mem_filter, Bool.and_eq_true, Bool.or_eq_true, decide_eq_true_eq]
    push Not
    refine exists_congr fun i => ?_
    rw [and_assoc]
    refine and_congr_right fun _ => and_congr_right fun _ => ?_
    rw [or_iff_not_imp_left, not_le]
  rw [hpop, hself, hall, not_or, not_or, not_or, not_lt, not_lt, not_not, Bool.not_eq_false]

section
variable {i : Instr} {s : State} {h : Head} {body : State → Res} {k : Nat}

/-- A plain instruction that writes no map and is done with strand `r` goes on from the state with `r` set. -/
theorem does_go {r : Strand} (hi : Issues i s) (hexec : exec i s = issue i h s body) (hcls : h.cls = .plain) (hw : writesMap i = false)
    (hbody : body s = .done (s.setMe r) k) (hcore : r.core = s.me.core) : Claim.Does i h.n s (.go (s.setMe r)) := by
  rw [issue_eq hi hw, hbody] at hexec
  exact ⟨_, hexec, goes_of_completes (hcls ▸ completes_of_done s h r k hcore)⟩

/-- An instruction that writes no map and answers with a fault takes it. -/
theorem does_trap {c : Code} {d : Nat} (hi : Issues i s) (hexec : exec i s = issue i h s body) (hw : writesMap i = false) (hc : c ≠ .trap ∧ c ≠ .bkpt)
    (hbody : body s = .trap c d) (n : Nat) : Claim.Does i n s (.fault c d) := by
  rw [issue_eq hi hw, hbody] at hexec
  exact does_fault hc hexec

end

/-- SETF and SETG are the instructions of the table. -/
theorem registerFlow_cases {i : Instr} {f : State → Claim.Flow} (h : Claim.registerFlow i = some f) :
    (∃ k d a b, i = .setf k d a b) ∨ ∃ k d b, i = .setg k d b := by
  unfold Claim.registerFlow at h
  split at h
  · exact .inl ⟨_, _, _, _, rfl⟩
  · exact .inr ⟨_, _, _, rfl⟩
  · cases h

/-- Settles O7: the tests of R121 and R210 decide between the write and the fault. -/
theorem formatAndGangRegisters : Obligations.FormatAndGangRegisters := by
  intro i f hf s hi
  obtain ⟨k, d, a, b, rfl⟩ | ⟨k, d, b, rfl⟩ := registerFlow_cases hf
  · obtain rfl := Option.some.inj hf
    have hlow (x : W64) : x.extractLsb' 0 32 = x.setWidth 32 := (BitVec.setWidth_eq_extractLsb' (by decide)).symm
    have hexec : exec (.setf k d a b) s = execSetf k d a b s := rfl
    dsimp only
    rw [← if_congr (fValid_iff _) rfl rfl]
    split
    next hv =>
      refine does_go hi hexec rfl rfl (k := 1) ?_ (by simp)
      simp only [hlow, hv, if_true]
    next hv =>
      refine does_trap hi hexec rfl (by decide) ?_ 2
      simp only [hlow, hv]
      rfl
  · obtain rfl := Option.some.inj hf
    have hlow : (b.get s.me).extractLsb' 0 16 = (b.get s.me).setWidth 16 := (BitVec.setWidth_eq_extractLsb' (by decide)).symm
    have hexec : exec (.setg k d b) s = execSetg k d b s := rfl
    have hgang := gang_iff s s.me ((b.get s.me).setWidth 16)
    dsimp only
    split
    next hv =>
      refine does_go hi hexec rfl rfl (k := 1) ?_ (by simp)
      dsimp only
      rw [hlow]
      refine if_neg fun h => hv.elim h.1 fun hg => hgang.2 hg h.2
    next hv =>
      refine does_trap hi hexec rfl (by decide) ?_ 2
      dsimp only
      rw [hlow]
      obtain ⟨hzero, hbad⟩ := not_or.1 hv
      exact if_pos ⟨hzero, by_contra fun hok => hbad (hgang.1 hok)⟩

end Sys2Proof.Machine
end

section
namespace Sys2Proof.Machine

/-! # Floating-point lane instructions and CVT (O4) -/

/-! ## What a vector write leaves (R70) -/

section
variable (t a : Strand) (x : VCode) (wide : Bool) (m : LaneMap) (f : Nat → W64) (o : Oper)

@[simp] theorem Strand.putV_core : (t.putV x wide m f).core = t.core := by cases wide <;> rfl

/-- What a vector write changes is the vector registers, which of them are evicted and the order of writes. -/
theorem withVectors_putV : Claim.withVectors (t.putV x wide m f) a = Claim.withVectors t a := by cases wide <;> rfl

/-- A register put reads back, and every other vector register as before. -/
theorem Strand.vec_putReg {r q : Nat} (hq : q < 120) (v : VReg) : (t.putReg r v).vec q = if q = r then v else t.vec q := by
  simp only [Strand.vec, if_pos hq]
  exact Tbl.get_set [] t.v r q v

/-- A destination written on a map is placed there, the high halves of a pair in its second register (R59, R70). -/
theorem placed_putV {t a : Strand} {x : VCode} {wide : Bool} (hv : t.v = a.v) (hext : t.ext = a.ext)
    (hx : x.toNat < 120 ∧ (wide = true → x.toNat + 1 < 120)) (m : LaneMap) (f : Nat → W64) :
    Claim.Placed a (t.putV x wide m f) x wide m f := by
  have hlow (w : W64) : w.extractLsb' 0 32 = w.setWidth 32 := (BitVec.setWidth_eq_extractLsb' (by decide)).symm
  have hhigh (w : W64) : w.extractLsb' 32 32 = (w >>> 32).setWidth 32 := by
    ext j hj
    simp
  have hold (r : Nat) (hr : r < 120) : t.vec r = a.vec r := by simp only [Strand.vec, if_pos hr, hv]
  have hon (g : Nat → W32) : (lanesIn t.ext m).map (fun l => (l, g l)) = Claim.onMap a.ext m g := by rw [hext]; rfl
  simp only [Strand.putV, hlow, hhigh, hon, Claim.Placed]
  cases wide with
  | false =>
    simp only [Bool.false_eq_true, if_false, false_imp_iff, true_and]
    refine ⟨by rw [Strand.vec_putReg _ hx.1, if_pos rfl], fun r hr hne _ => ?_⟩
    rw [Strand.vec_putReg _ hr, if_neg hne, hold r hr]
  | true =>
    have hx' := hx.2 rfl
    simp only [if_true, true_imp_iff]
    refine ⟨?_, by rw [Strand.vec_putReg _ hx', if_pos rfl], fun r hr hne hne' => ?_⟩
    · rw [Strand.vec_putReg _ hx.1, if_neg (Nat.lt_succ_self _).ne, Strand.vec_putReg _ hx.1, if_pos rfl]
    · rw [Strand.vec_putReg _ hr, if_neg hne', Strand.vec_putReg _ hr, if_neg hne, hold r hr]

/-- Room for a result changes which registers are evicted and nothing else (R78). -/
theorem Strand.roomFor_eq {t w : Strand} {o : Oper} {x : VCode} {wide : Bool} {m : LaneMap} (h : t.roomFor o x wide m = .ok w) :
    w = { t with evicted := w.evicted } := by
  unfold Strand.roomFor at h
  exact Strand.makeRoom_eq (t := t.withBack o.vregs) h

/-- Which registers are evicted does not show in the count of dropped lanes and in the pops (R60, R72). -/
theorem withVectors_countDrop (e : List Nat) :
    Claim.withVectors ((Strand.countDrop { a with evicted := e } o).popQ o) a = (a.countDrop o).popQ o := by
  have hdrop : Strand.dropCount { a with evicted := e } o = a.dropCount o := rfl
  unfold Strand.countDrop
  rw [hdrop]
  split <;> rfl

@[simp] theorem Strand.popQ_v : (t.popQ o).v = t.v := rfl
@[simp] theorem Strand.countDrop_v : (t.countDrop o).v = t.v := by unfold Strand.countDrop; split <;> rfl

end

/-! ## Instructions with a vector destination -/

/-- Instruction `i` writes its destination by `r`, which lies in the vector registers, and writes no map. -/
structure WritesLanes (i : Instr) (r : Claim.LaneRes) : Prop where
  runs : ∃ (k : Marks) (op : Nat) (f : State → Strand → List VOpd → Nat → W64),
    (∀ s, exec i s = issue i ⟨k, op, r.n, .plain⟩ s (fun s => writes (operOf i) r.x r.wide s (f s))) ∧
    ∀ s l, f s s.me ((operOf i).srcs.map s.me.readV) l = r.val s.me ((operOf i).srcs.map s.me.readV) l
  dest : Wf.vdst r.wide r.x = true
  noMap : writesMap i = false

theorem vdst_iff {wide : Bool} {x : VCode} : Wf.vdst wide x = true ↔ x.toNat ≤ 119 ∧ (wide = true → x.toNat % 2 = 0) := by
  cases wide <;> simp [Wf.vdst]

/-- The registers of a vector destination are vector registers. -/
theorem lt_of_vdst {wide : Bool} {x : VCode} (h : Wf.vdst wide x = true) : x.toNat < 120 ∧ (wide = true → x.toNat + 1 < 120) := by
  obtain ⟨hle, heven⟩ := vdst_iff.1 h
  exact ⟨by omega, fun hw => by have := heven hw; omega⟩

/-- An instruction with a vector destination has completed, once the map discipline lets it pass and there is room for the result. -/
theorem laneDone_of_writesLanes {i : Instr} {r : Claim.LaneRes} (h : WritesLanes i r) {s : State} (hi : Issues i s) (hfits : Claim.Fits i r.x r.wide s) :
    ∃ t, exec i s = .next t ∧ Claim.LaneDone i r s t := by
  obtain ⟨⟨k, op, f, hexec, hval⟩, hdest, hmap⟩ := h
  obtain ⟨hdisc, w, hroom⟩ := hfits
  have hw := Strand.roomFor_eq hroom
  have hbody : writes (operOf i) r.x r.wide s (f s) =
      .done (s.setMe (((w.countDrop (operOf i)).popQ (operOf i)).putV r.x r.wide (s.me.operMap (operOf i))
        (r.val s.me ((operOf i).srcs.map s.me.readV)))) (s.me.lanesK (operOf i)) := by
    rw [← funext (hval s), writes, if_neg fun hd => hd.2 (hdisc hd.1)]
    simp only [hroom]
  refine ⟨_, (hexec s).trans (issue_eq hi hmap _ _), _, ?_, placed_putV (t := (w.countDrop (operOf i)).popQ (operOf i)) ?_ ?_ (lt_of_vdst hdest) _ _, ?_⟩
  · rw [hbody]
    exact completes_of_done s _ _ _ (by rw [Strand.putV_core, Strand.popQ_core, Strand.countDrop_core, hw])
  · rw [Strand.popQ_v, Strand.countDrop_v, hw]
  · rw [Strand.popQ_ext, Strand.countDrop_ext, hw]
  · rw [withVectors_putV, hw]
    exact withVectors_countDrop s.me (operOf i) w.evicted

/-! ## The instructions -/

theorem vdst_of_v3 {ty : Ty} {x y z : VCode} {m : MCode} (h : (Wf.tyFloat ty && Wf.v3 ty x y z m) = true) : Wf.vdst false x = true := by
  simp only [Wf.v3, Bool.and_eq_true] at h
  obtain ⟨-, ⟨⟨hx, -⟩, -⟩, -⟩ := h
  exact vdst_iff.2 ⟨(vdst_iff.1 hx).1, nofun⟩

theorem vdst_of_v2 {ty : Ty} {x y : VCode} {m : MCode} (h : (Wf.tyFloat ty && Wf.v2 ty x y m) = true) : Wf.vdst false x = true := by
  simp only [Wf.v2, Bool.and_eq_true] at h
  obtain ⟨-, ⟨hx, -⟩, -⟩ := h
  exact vdst_iff.2 ⟨(vdst_iff.1 hx).1, nofun⟩

section
variable {i : Instr} {k : Marks} {n : Nat} {x : VCode} {ty : Ty} {wide : Bool} {u v w : VSrc}

/-- A result from one source under F. -/
theorem writesLanes_one (g : W32 → W64 → W64) (hsrcs : (operOf i).srcs = [u])
    (hexec : ∀ s, exec i s = issue i ⟨k, n, 2, .plain⟩ s (fun s => lane1 i x wide s (g s.me.f))) (hx : Wf.vdst wide x = true)
    (hmap : writesMap i = false) : WritesLanes i ⟨x, wide, 2, fun t v l => g t.f ((v.getD 0 ⟨[], [], []⟩).at l)⟩ :=
  ⟨⟨k, n, _, hexec, fun _ _ => by rw [hsrcs]; rfl⟩, hx, hmap⟩

/-- A result from two sources under F. -/
theorem writesLanes_two (g : W32 → W64 → W64 → W64) (hsrcs : (operOf i).srcs = [u, v])
    (hexec : ∀ s, exec i s = issue i ⟨k, n, 2, .plain⟩ s (fun s => lane2 i x wide s (g s.me.f))) (hx : Wf.vdst wide x = true)
    (hmap : writesMap i = false) :
    WritesLanes i ⟨x, wide, 2, fun t v l => g t.f ((v.getD 0 ⟨[], [], []⟩).at l) ((v.getD 1 ⟨[], [], []⟩).at l)⟩ :=
  ⟨⟨k, n, _, hexec, fun _ _ => by rw [hsrcs]; rfl⟩, hx, hmap⟩

/-- A result from three sources under F. -/
theorem writesLanes_three (g : W32 → W64 → W64 → W64 → W64) (hsrcs : (operOf i).srcs = [u, v, w])
    (hexec : ∀ s, exec i s = issue i ⟨k, n, 3, .plain⟩ s (fun s => lane3 i x wide s (g s.me.f))) (hx : Wf.vdst wide x = true)
    (hmap : writesMap i = false) : WritesLanes i
      ⟨x, wide, 3, fun t v l => g t.f ((v.getD 0 ⟨[], [], []⟩).at l) ((v.getD 1 ⟨[], [], []⟩).at l) ((v.getD 2 ⟨[], [], []⟩).at l)⟩ :=
  ⟨⟨k, n, _, hexec, fun _ _ => by rw [hsrcs]; rfl⟩, hx, hmap⟩

/-- A rounded two-operand instruction (R126). -/
theorem writesLanes_farith {op : FOp} (hsrcs : (operOf i).srcs = [u, v])
    (hexec : ∀ s, exec i s = issue i ⟨k, n, 2, .plain⟩ s (farith i ty op x)) (hx : Wf.vdst false x = true) (hmap : writesMap i = false) :
    WritesLanes i ⟨x, false, 2, fun t v l => Claim.floatLane.arith t v l ty op⟩ :=
  writesLanes_two (fun f a b => BitVec.ofNat 64 (ty.fmt.arith (fRM f) (fFZ f) op a.toNat b.toNat)) hsrcs hexec hx hmap

/-- A rounded one-operand instruction (R126). -/
theorem writesLanes_ffunc {op : FFun} (hsrcs : (operOf i).srcs = [u])
    (hexec : ∀ s, exec i s = issue i ⟨k, n, 2, .plain⟩ s (ffunc i ty op x)) (hx : Wf.vdst false x = true) (hmap : writesMap i = false) :
    WritesLanes i ⟨x, false, 2, fun t v l => Claim.floatLane.func t v l ty op⟩ :=
  writesLanes_one (fun f a => BitVec.ofNat 64 (ty.fmt.func (fRM f) (fFZ f) op a.toNat)) hsrcs hexec hx hmap

end

/-- What CVT gives a lane under F (R102, R130, R131). -/
def cvtLane (src : CvtSrc) (ty : Ty) (f : W32) (a : W64) : W64 :=
  match CvtSrc.ty src with
  | some st => convert st ty (fRM f) (fFZ f) a
  | none => BitVec.ofNat 64 (orderKey (decide (src = .f32ord)) a.toNat)

/-- Every row of the table is written by the model as its rule says (R126 to R131). -/
theorem writesLanes_of_floatLane {i : Instr} {r : Claim.LaneRes} (h : Claim.floatLane i = some r) (hwf : WellFormed true i = true) : WritesLanes i r := by
  unfold Claim.floatLane at h
  split at h
  case h_17 => cases h
  all_goals obtain rfl := Option.some.inj h
  case h_1 | h_2 | h_3 | h_4 => exact writesLanes_farith rfl (fun _ => rfl) (vdst_of_v3 hwf) rfl
  case h_11 | h_12 | h_13 | h_14 | h_15 => exact writesLanes_ffunc rfl (fun _ => rfl) (vdst_of_v2 hwf) rfl
  case h_5 k ty x y z w m =>
    obtain ⟨hv3, -⟩ := Bool.and_eq_true_iff.1 hwf
    exact writesLanes_three (fun f a b c => BitVec.ofNat 64 (ty.fmt.fma (fRM f) (fFZ f) a.toNat b.toNat c.toNat)) rfl (fun _ => rfl) (vdst_of_v3 hv3) rfl
  case h_6 k ty x y z m =>
    exact writesLanes_two (fun f a b => BitVec.ofNat 64 (ty.fmt.minmax (fFZ f) false a.toNat b.toNat)) rfl (fun _ => rfl) (vdst_of_v3 hwf) rfl
  case h_7 k ty x y z m =>
    exact writesLanes_two (fun f a b => BitVec.ofNat 64 (ty.fmt.minmax (fFZ f) true a.toNat b.toNat)) rfl (fun _ => rfl) (vdst_of_v3 hwf) rfl
  case h_8 k ty x y m =>
    exact writesLanes_one (fun _ a => BitVec.ofNat 64 (ty.fmt.withSign a.toNat (!ty.fmt.neg a.toNat))) rfl (fun _ => rfl) (vdst_of_v2 hwf) rfl
  case h_9 k ty x y m =>
    exact writesLanes_one (fun _ a => BitVec.ofNat 64 (ty.fmt.withSign a.toNat false)) rfl (fun _ => rfl) (vdst_of_v2 hwf) rfl
  case h_10 k ty x y z m =>
    exact writesLanes_two (fun _ a b => BitVec.ofNat 64 (ty.fmt.withSign a.toNat (ty.fmt.neg b.toNat))) rfl (fun _ => rfl) (vdst_of_v3 hwf) rfl
  case h_16 k src ty x y m =>
    simp only [WellFormed, Bool.and_eq_true] at hwf
    obtain ⟨⟨⟨⟨-, hx⟩, -⟩, -⟩, -⟩ := hwf
    exact writesLanes_one (cvtLane src ty) rfl (fun _ => rfl) hx rfl

/-- Settles O4: each instruction's meaning is a vector write of the result that its rule gives, on the operating map. -/
theorem floatLaneResults : Obligations.FloatLaneResults :=
  fun _ _ hr hwf _ hi hfits => laneDone_of_writesLanes (writesLanes_of_floatLane hr hwf) hi hfits

end Sys2Proof.Machine
end

section
namespace Sys2Proof.Machine

/-! # Rounding is exact (O10) -/

/-! ## The numbers of neighbouring patterns (R115) -/

section
variable (f : Fmt)

/-- The pattern that lies `n` steps of size `2 ^ t` above zero: the patterns of one exponent, and the least one of the next, are equally spaced. -/
theorem steps_place {t n : Nat} (hn : n ≤ 2 ^ (f.mb + 1)) (ht : t = 0 ∨ 2 ^ f.mb ≤ n) : steps f (t * 2 ^ f.mb + n) = n * 2 ^ t := by
  have hpos : 0 < 2 ^ f.mb := Nat.two_pow_pos _
  rw [pow_succ] at hn
  obtain hlt | ⟨j, rfl⟩ := lt_or_ge n (2 ^ f.mb) |>.imp_right Nat.exists_eq_add_of_le
  · obtain rfl := ht.resolve_right hlt.not_ge
    simp [steps, Nat.div_eq_of_lt hlt, Nat.mod_eq_of_lt hlt]
  · have hsum : t * 2 ^ f.mb + (2 ^ f.mb + j) = j + 2 ^ f.mb * (t + 1) := by ring
    have hexp : j / 2 ^ f.mb + (t + 1) ≠ 0 := Nat.succ_ne_zero _
    rw [hsum, steps, Nat.add_mul_div_left _ _ hpos, Nat.add_mul_mod_self_left, if_neg hexp]
    obtain hj | hj : j < 2 ^ f.mb ∨ j = 2 ^ f.mb := by omega
    · rw [Nat.div_eq_of_lt hj, Nat.mod_eq_of_lt hj, Nat.zero_add, Nat.add_sub_cancel]
    · rw [hj, Nat.div_self hpos, Nat.mod_self, show 1 + (t + 1) - 1 = t + 1 by omega]
      ring

/-- Every pattern lies so. -/
theorem exists_place (b : Nat) : ∃ t n, b = t * 2 ^ f.mb + n ∧ n < 2 ^ (f.mb + 1) ∧ (t = 0 ∨ 2 ^ f.mb ≤ n) := by
  have hpos : 0 < 2 ^ f.mb := Nat.two_pow_pos _
  have hdiv := Nat.div_add_mod' b (2 ^ f.mb)
  have hmod := Nat.mod_lt b hpos
  rw [pow_succ]
  cases hq : b / 2 ^ f.mb with
  | zero => exact ⟨0, b, by omega, by rw [hq] at hdiv; omega, .inl rfl⟩
  | succ t =>
    rw [hq, Nat.succ_mul] at hdiv
    exact ⟨t, 2 ^ f.mb + b % 2 ^ f.mb, by omega, by omega, .inr (by omega)⟩

theorem steps_strictMono : StrictMono (steps f) := by
  refine strictMono_nat_of_lt_succ fun b => ?_
  obtain ⟨t, n, rfl, hn, ht⟩ := exists_place f b
  rw [add_assoc, steps_place f hn.le ht, steps_place f hn (ht.imp_right Nat.le_succ_of_le)]
  exact Nat.mul_lt_mul_of_pos_right (Nat.lt_succ_self n) (Nat.two_pow_pos t)

theorem magValue_strictMono : StrictMono (Claim.magValue f) := by
  intro b c hbc
  rw [magValue_eq_steps, magValue_eq_steps]
  exact mul_lt_mul_of_pos_right (Nat.cast_lt.2 (steps_strictMono f hbc)) (zpow_pos two_pos _)

theorem magValue_place {t n : Nat} (hn : n ≤ 2 ^ (f.mb + 1)) (ht : t = 0 ∨ 2 ^ f.mb ≤ n) :
    Claim.magValue f (t * 2 ^ f.mb + n) = n * (2 : ℝ) ^ (f.emin + t) := by
  rw [magValue_eq_steps, steps_place f hn ht, zpow_add₀ two_ne_zero, zpow_natCast]
  push_cast [Fmt.emin]
  ring

end

/-! ## The choice between two neighbours (R122) -/

/-- An amount `u` from `lo` up to but not with `hi` goes to `hi` where `up` is set, and to `lo` otherwise, as `awayMode` says: 0 never, 1 unless
`u` is `lo`, 2 where `hi` is nearer, and on a tie where the number `k` of `lo` is odd. -/
structure Picks (a : Nat) (lo hi u : ℝ) (k : Nat) (up : Bool) : Prop where
  lower : lo ≤ u
  upper : u < hi
  trunc : a = 0 → up = false
  away : a = 1 → (up = true ↔ lo < u)
  nearUp : a = 2 → up = true → hi - u ≤ u - lo ∧ (hi - u = u - lo → k % 2 = 1)
  nearDown : a = 2 → up = false → u - lo ≤ hi - u ∧ (u - lo = hi - u → k % 2 = 0)

section
variable {a k : Nat} {lo hi u : ℝ} {up : Bool}

theorem Picks.scale (h : Picks a lo hi u k up) {c : ℝ} (hc : 0 < c) : Picks a (lo * c) (hi * c) (u * c) k up where
  lower := mul_le_mul_of_nonneg_right h.lower hc.le
  upper := mul_lt_mul_of_pos_right h.upper hc
  trunc := h.trunc
  away ha := (h.away ha).trans (mul_lt_mul_iff_left₀ hc).symm
  nearUp ha hup := by
    rw [← sub_mul, ← sub_mul, mul_le_mul_iff_left₀ hc, mul_left_inj' hc.ne']
    exact h.nearUp ha hup
  nearDown ha hup := by
    rw [← sub_mul, ← sub_mul, mul_le_mul_iff_left₀ hc, mul_left_inj' hc.ne']
    exact h.nearDown ha hup

/-- Only the parity of a neighbour's number counts. -/
theorem Picks.congr (h : Picks a lo hi u k up) {j : Nat} (hj : j % 2 = k % 2) : Picks a lo hi u j up :=
  { h with nearUp := by rw [hj]; exact h.nearUp, nearDown := by rw [hj]; exact h.nearDown }

/-- What is exact stays, whatever the mode. -/
theorem Picks.exact (a : Nat) (N : Nat) : Picks a N (N + 1 : ℕ) N N false where
  lower := le_rfl
  upper := Nat.cast_lt.2 N.lt_succ_self
  trunc _ := rfl
  away _ := by simp
  nearUp _ h := by cases h
  nearDown _ _ := by push_cast; exact ⟨by norm_num, fun h => by norm_num at h⟩

end

/-- What `roundShift` adds to the quotient of its shift. -/
def roundsUp (rm : Nat) (neg : Bool) (m sh : Nat) (st : Bool) : Bool :=
  match awayMode rm neg with
  | 0 => false
  | 1 => !(decide (m % 2 ^ sh = 0) && !st)
  | _ =>
    if m.log2 + 2 < sh ∨ sh = 0 then false
    else decide (2 ^ (sh - 1) < m % 2 ^ sh) || (decide (m % 2 ^ sh = 2 ^ (sh - 1)) && (st || decide (m / 2 ^ sh % 2 = 1)))

/-- A magnitude that `roundShift` takes for far below 1 is less than a quarter. -/
theorem lt_two_pow_of_far {m sh : Nat} (h : m.log2 + 2 < sh) : 4 * m < 2 ^ sh := by
  have hm : m < 2 ^ (m.log2 + 1) := Nat.lt_log2_self
  have hle : 2 ^ (m.log2 + 1 + 2) ≤ 2 ^ sh := Nat.pow_le_pow_right two_pos h
  rw [pow_add] at hle
  omega

theorem roundShift_eq (rm : Nat) (neg : Bool) (m sh : Nat) (st : Bool) : roundShift rm neg m sh st = m / 2 ^ sh + (roundsUp rm neg m sh st).toNat := by
  have hquot : (if m.log2 + 2 < sh then 0 else m >>> sh) = m / 2 ^ sh := by
    split
    next h => exact (Nat.div_eq_of_lt (by have := lt_two_pow_of_far h; omega)).symm
    next => exact Nat.shiftRight_eq_div_pow m sh
  have hrem : (if m.log2 + 2 < sh then m else m - (m / 2 ^ sh) <<< sh) = m % 2 ^ sh := by
    split
    next h => exact (Nat.mod_eq_of_lt (by have := lt_two_pow_of_far h; omega)).symm
    next => rw [Nat.shiftLeft_eq, ← Nat.mod_eq_sub_div_mul]
  have hadd (up : Bool) (n : Nat) : (if up = true then n + 1 else n) = n + up.toNat := by cases up <;> rfl
  simp only [roundShift, decide_eq_true_eq, hquot, hrem, Nat.one_shiftLeft, hadd]
  rfl

/-- Without a shift nothing is rounded. -/
theorem roundsUp_exact (rm : Nat) (neg : Bool) (m : Nat) : roundsUp rm neg m 0 false = false := by
  unfold roundsUp
  split <;> simp [Nat.mod_one]

section
variable {m sh : Nat} {st : Bool} {c : ℝ} {rm : Nat} {neg : Bool}

/-- Up is taken above the half, and on it where the quotient is odd; `r` is the remainder of the shift, with what is still to be added. -/
theorem roundsUp_near (ha : awayMode rm neg = 2) {r : ℝ} (hlo : (m % 2 ^ sh : ℕ) ≤ r) (hhi : r < (m % 2 ^ sh : ℕ) + 1)
    (hst : st = true ↔ (m % 2 ^ sh : ℕ) < r) (hsh : st = true → 0 < sh) :
    if roundsUp rm neg m sh st then (2 : ℝ) ^ sh ≤ 2 * r ∧ (2 ^ sh = 2 * r → m / 2 ^ sh % 2 = 1)
    else 2 * r ≤ 2 ^ sh ∧ (2 * r = 2 ^ sh → m / 2 ^ sh % 2 = 0) := by
  have hbelow (h : 2 * r < 2 ^ sh) : 2 * r ≤ 2 ^ sh ∧ (2 * r = 2 ^ sh → m / 2 ^ sh % 2 = 0) := ⟨h.le, fun he => absurd he h.ne⟩
  have habove (h : 2 ^ sh < 2 * r) : (2 : ℝ) ^ sh ≤ 2 * r ∧ (2 ^ sh = 2 * r → m / 2 ^ sh % 2 = 1) := ⟨h.le, fun he => absurd he h.ne⟩
  have hexact : st = false → r = (m % 2 ^ sh : ℕ) := fun h => le_antisymm (not_lt.1 fun hc => by simp [hst.2 hc] at h) hlo
  by_cases hfar : m.log2 + 2 < sh
  · have hup : roundsUp rm neg m sh st = false := by simp [roundsUp, ha, hfar]
    rw [hup, if_neg Bool.false_ne_true]
    refine hbelow ?_
    have hm : 4 * (m % 2 ^ sh) < 2 ^ sh := (Nat.mul_le_mul_left 4 (Nat.mod_le _ _)).trans_lt (lt_two_pow_of_far hfar)
    have h8 : 2 ^ 3 ≤ 2 ^ sh := Nat.pow_le_pow_right two_pos (by omega)
    have hnat : 2 * (m % 2 ^ sh) + 2 ≤ 2 ^ sh := by omega
    have hreal : 2 * ((m % 2 ^ sh : ℕ) : ℝ) + 2 ≤ 2 ^ sh := by exact_mod_cast hnat
    linarith
  by_cases hzero : sh = 0
  · have hup : roundsUp rm neg m sh st = false := by simp [roundsUp, ha, hzero]
    rw [hup, if_neg Bool.false_ne_true]
    refine hbelow ?_
    rw [hexact (Bool.eq_false_iff.2 fun h => (hsh h).ne' hzero), hzero]
    simp [Nat.mod_one]
  obtain ⟨j, rfl⟩ := Nat.exists_eq_succ_of_ne_zero hzero
  have hup : roundsUp rm neg m j.succ st =
      (decide (2 ^ j < m % 2 ^ j.succ) || (decide (m % 2 ^ j.succ = 2 ^ j) && (st || decide (m / 2 ^ j.succ % 2 = 1)))) := by
    simp only [roundsUp, ha, if_neg (not_or.2 ⟨hfar, hzero⟩), Nat.succ_sub_one]
  rw [hup]
  have hhalf : (2 : ℝ) ^ j.succ = 2 * ((2 ^ j : ℕ) : ℝ) := by push_cast; exact pow_succ' 2 j
  obtain hlt | heq | hgt := lt_trichotomy (m % 2 ^ j.succ) (2 ^ j)
  · have hreal : ((m % 2 ^ j.succ : ℕ) : ℝ) + 1 ≤ (2 ^ j : ℕ) := by exact_mod_cast hlt
    simpa [hlt.not_gt, hlt.ne] using hbelow (by linarith)
  · rw [heq] at hlo hhi hst hexact ⊢
    cases st with
    | true =>
      have hr := hst.1 rfl
      simpa using habove (by linarith)
    | false =>
      have hr : 2 * r = 2 ^ j.succ := by rw [hexact rfl, hhalf]
      by_cases hodd : m / 2 ^ j.succ % 2 = 1
      · simp [hr, hodd]
      · simpa [hr, hodd] using Nat.mod_two_ne_one.1 hodd
  · have hreal : ((2 ^ j : ℕ) : ℝ) + 1 ≤ (m % 2 ^ j.succ : ℕ) := by exact_mod_cast hgt
    simpa [hgt] using habove (by linarith)

/-- An integer `m`, to which something less than 1 is still to be added where `st` is set, is rounded by its shift to one of its two neighbours. -/
theorem roundShift_picks (hlo : m ≤ c) (hhi : c < m + 1) (hst : st = true ↔ m < c) (hsh : st = true → 0 < sh) (rm : Nat) (neg : Bool) :
    Picks (awayMode rm neg) ((m / 2 ^ sh : ℕ) * 2 ^ sh) ((m / 2 ^ sh + 1 : ℕ) * 2 ^ sh) c (m / 2 ^ sh) (roundsUp rm neg m sh st) := by
  have hdiv : ((m / 2 ^ sh : ℕ) : ℝ) * 2 ^ sh + (m % 2 ^ sh : ℕ) = m := by exact_mod_cast Nat.div_add_mod' m (2 ^ sh)
  have hmod : ((m % 2 ^ sh : ℕ) : ℝ) + 1 ≤ 2 ^ sh := by exact_mod_cast Nat.mod_lt m (Nat.two_pow_pos sh)
  have hrem : (0 : ℝ) ≤ (m % 2 ^ sh : ℕ) := Nat.cast_nonneg _
  have hnear (ha : awayMode rm neg = 2) := roundsUp_near ha (r := c - (m / 2 ^ sh : ℕ) * 2 ^ sh) (by rwa [le_sub_iff_add_le', hdiv])
    (by rwa [sub_lt_iff_lt_add', ← add_assoc, hdiv]) (by rwa [lt_sub_iff_add_lt', hdiv]) hsh
  have hhigh : ((m / 2 ^ sh + 1 : ℕ) : ℝ) * 2 ^ sh = (m / 2 ^ sh : ℕ) * 2 ^ sh + 2 ^ sh := by push_cast; ring
  rw [hhigh]
  refine ⟨by linarith, by linarith, fun ha => by simp only [roundsUp, ha], fun ha => ?_, fun ha hup => ?_, fun ha hup => ?_⟩
  · simp only [roundsUp, ha]
    cases st with
    | true => simpa using (by linarith [hst.1 rfl] : ((m / 2 ^ sh : ℕ) : ℝ) * 2 ^ sh < c)
    | false =>
      have hc : c = m := le_antisymm (not_lt.1 fun hc => by simpa using hst.2 hc) hlo
      rw [hc, ← hdiv, lt_add_iff_pos_right, Nat.cast_pos, Nat.pos_iff_ne_zero]
      simp
  · have h := hnear ha
    rw [hup, if_pos rfl] at h
    exact ⟨by linarith, fun he => h.2 (by linarith)⟩
  · have h := hnear ha
    rw [hup, if_neg Bool.false_ne_true] at h
    exact ⟨by linarith, fun he => h.2 (by linarith)⟩

end

/-! ## Rounding to a format -/

theorem awayMode_cases {rm : Nat} (hrm : rm < 4) (neg : Bool) :
    (awayMode rm neg = 2 ↔ rm = 0) ∧ (awayMode rm neg = 0 ↔ rm = 1 ∨ (rm = 2 ∧ neg = true) ∨ (rm = 3 ∧ neg = false)) ∧
    (awayMode rm neg = 1 ↔ (rm = 2 ∧ neg = false) ∨ (rm = 3 ∧ neg = true)) := by
  revert rm
  cases neg <;> decide

/-- A magnitude within a format, or past its largest finite one in the way that overflow is answered (R122). -/
def Fmt.clamp (f : Fmt) (a b : Nat) : Nat := if b < f.infBits then b else if a = 0 then f.infBits - 1 else f.infBits

theorem round_eq (f : Fmt) (rm : Nat) (neg : Bool) {m : Nat} {st : Bool} (h : ¬(m = 0 ∧ st = false)) (e : Int) :
    let q := max ((m.log2 : Int) + e - f.mb) f.emin
    f.round rm neg m e st = f.signed neg (f.clamp (awayMode rm neg) ((q - f.emin).toNat * 2 ^ f.mb +
      if q ≤ e then roundShift rm neg (m <<< (e - q).toNat) 0 st else roundShift rm neg m (q - e).toNat st)) := by
  intro q
  rw [Fmt.round, if_neg h, Fmt.clamp]
  exact (apply_ite (f.signed neg) ..).symm

section
variable {f : Fmt}

theorem clamp_le (f : Fmt) (a b : Nat) : f.clamp a b ≤ f.infBits := by unfold Fmt.clamp; split_ifs <;> omega

section
variable {a B : Nat} {u : ℝ} {up : Bool} (h : Picks a (Claim.magValue f B) (Claim.magValue f (B + 1)) u B up)
include h

theorem Picks.le_of_le {j : Nat} (hj : Claim.magValue f j ≤ u) : j ≤ B :=
  Nat.lt_succ_iff.1 ((magValue_strictMono f).lt_iff_lt.1 (hj.trans_lt h.upper))

/-- Downward, the result is the greatest finite pattern that is not above. -/
theorem Picks.clamp_down (ha : a = 0) (hinf : 0 < f.infBits) {k : Nat} (hk : k = f.clamp a (B + up.toNat)) :
    k < f.infBits ∧ Claim.magValue f k ≤ u ∧ ∀ j, j < f.infBits → Claim.magValue f j ≤ u → j ≤ k := by
  replace hk : k = min B (f.infBits - 1) := by
    simp only [hk, Fmt.clamp, ha, h.trunc ha, Bool.toNat_false, if_true]
    split_ifs <;> omega
  refine ⟨by omega, ((magValue_mono f) (by omega)).trans h.lower, fun j hj hle => ?_⟩
  have hjB := h.le_of_le hle
  omega

/-- Upward, the result is the least pattern that is not below, or infinity. -/
theorem Picks.clamp_up (ha : a = 1) {k : Nat} (hk : k = f.clamp a (B + up.toNat)) :
    (k = f.infBits ∨ u ≤ Claim.magValue f k) ∧ ∀ j, j < f.infBits → u ≤ Claim.magValue f j → k ≤ j := by
  replace hk : k = min (B + up.toNat) f.infBits := by
    simp only [hk, Fmt.clamp, ha, one_ne_zero, if_false]
    split_ifs <;> omega
  have hreach : u ≤ Claim.magValue f (B + up.toNat) := by
    cases up with
    | false => exact not_lt.1 fun hlt => Bool.false_ne_true ((h.away ha).2 hlt)
    | true => exact h.upper.le
  have hleast {j : Nat} (hj : u ≤ Claim.magValue f j) : B + up.toNat ≤ j := by
    cases up with
    | false => exact (magValue_strictMono f).le_iff_le.1 (h.lower.trans hj)
    | true => exact (magValue_strictMono f).lt_iff_lt.1 (((h.away ha).1 rfl).trans_le hj)
  refine ⟨?_, fun j _ hle => ?_⟩
  · obtain hlt | hge := lt_or_ge (B + up.toNat) f.infBits
    · exact .inr (by rwa [hk, min_eq_left hlt.le])
    · exact .inl (by rw [hk, min_eq_right hge])
  · have := hleast hle
    omega

/-- To nearest, no pattern is nearer than the result, and on a tie the result is even. -/
theorem Picks.clamp_near (ha : a = 2) {k : Nat} (hk : k = f.clamp a (B + up.toNat)) :
    ∀ j, j ≤ f.infBits → |Claim.magValue f k - u| ≤ |Claim.magValue f j - u| ∧
      (|Claim.magValue f k - u| = |Claim.magValue f j - u| → j = k ∨ k % 2 = 0) := by
  intro j hj
  have hmono := magValue_mono f
  have hinj {b c : Nat} (he : Claim.magValue f b = Claim.magValue f c) : b = c := (magValue_strictMono f).injective he
  replace hk : k = min (B + up.toNat) f.infBits := by
    simp only [hk, Fmt.clamp, ha, OfNat.ofNat_ne_zero, if_false]
    split_ifs <;> omega
  have hlow {b : Nat} (hb : b ≤ B) : |Claim.magValue f b - u| = u - Claim.magValue f b := by
    rw [abs_sub_comm, abs_of_nonneg (by linarith [hmono hb, h.lower])]
  have hhigh {b : Nat} (hb : B + 1 ≤ b) : |Claim.magValue f b - u| = Claim.magValue f b - u :=
    abs_of_nonneg (by linarith [hmono hb, h.upper])
  obtain hover | hunder := le_or_gt f.infBits B
  · obtain rfl : k = f.infBits := by omega
    rw [hlow hover, hlow (hj.trans hover)]
    exact ⟨by linarith [hmono hj], fun he => .inl (hinj (by linarith))⟩
  cases up with
  | false =>
    obtain ⟨hle, htie⟩ := h.nearDown ha rfl
    obtain rfl : k = B := by rw [hk, Bool.toNat_false]; omega
    rw [hlow le_rfl]
    obtain hjB | hjB := le_or_gt j k
    · rw [hlow hjB]
      exact ⟨by linarith [hmono hjB], fun he => .inl (hinj (by linarith))⟩
    · rw [hhigh hjB]
      have := hmono hjB
      exact ⟨by linarith, fun he => .inr (htie (by linarith))⟩
  | true =>
    obtain ⟨hle, htie⟩ := h.nearUp ha rfl
    have hkB : k = B + 1 := by rw [hk, Bool.toNat_true]; omega
    rw [hkB, hhigh le_rfl]
    obtain hjB | hjB := le_or_gt j B
    · rw [hlow hjB]
      have := hmono hjB
      exact ⟨by linarith, fun he => .inr (by have := htie (by linarith); omega)⟩
    · rw [hhigh hjB]
      exact ⟨by linarith [hmono hjB], fun he => .inl (hinj (by linarith))⟩

/-- The choice between the two neighbours of a number in a format is its rounding. -/
theorem rounds_of_picks (hf : Claim.IsFmt f) {rm : Nat} (hrm : rm < 4) {v : ℝ} {neg : Bool} (hneg : neg = true ↔ v < 0) (hv : v ≠ 0) (hu : |v| = u)
    (ha : a = awayMode rm neg) : Claim.Rounds f rm v (f.signed neg (f.clamp a (B + up.toNat))) := by
  obtain ⟨hnear, hdown, hup⟩ := awayMode_cases hrm neg
  rw [← ha] at hnear hdown hup
  have hpos : neg = false ↔ 0 < v := by
    rw [← Bool.not_eq_true, hneg, not_lt]
    exact ⟨fun hle => hle.lt_of_ne hv.symm, le_of_lt⟩
  rw [hneg, hpos] at hdown hup
  have hle := clamp_le f a (B + up.toNat)
  have hmag : Claim.magOf f (f.signed neg (f.clamp a (B + up.toNat))) = f.clamp a (B + up.toNat) := mag_signed (hle.trans_lt (infBits_lt f)) neg
  have hminus : Claim.minus f (f.signed neg (f.clamp a (B + up.toNat))) = neg := (minus_eq ..).trans (neg_signed (hle.trans_lt (infBits_lt f)) neg)
  simp only [Claim.Rounds, hmag, hminus, hu]
  exact ⟨hle, hneg, (patternOf_eq ..).symm, fun h0 => h.clamp_near (hnear.2 h0) rfl,
    fun h0 => h.clamp_down (hdown.2 h0) ((Nat.two_pow_pos _).trans_le (two_pow_mb_le_infBits hf)) rfl, fun h0 => h.clamp_up (hup.2 h0) rfl⟩

end

/-- The choice that a rounding to a format makes, between the two multiples of `2 ^ q` next to a magnitude `c * 2 ^ e`. -/
theorem round_picks {m : Nat} {st : Bool} {c : ℝ} (hlo : m ≤ c) (hhi : c < m + 1) (hst : st = true ↔ m < c) {e q : Int} (hq : st = true → e < q)
    (rm : Nat) (neg : Bool) : ∃ (N : Nat) (up : Bool),
      (if q ≤ e then roundShift rm neg (m <<< (e - q).toNat) 0 st else roundShift rm neg m (q - e).toNat st) = N + up.toNat ∧
      Picks (awayMode rm neg) (N * 2 ^ q) ((N + 1 : ℕ) * 2 ^ q) (c * 2 ^ e) N up := by
  split
  next hle =>
    obtain ⟨d, hd⟩ := Int.eq_ofNat_of_zero_le (sub_nonneg.2 hle)
    have hst' : st = false := Bool.eq_false_iff.2 fun h => (hq h).not_ge hle
    have hc : c = m := le_antisymm (not_lt.1 fun hlt => Bool.eq_false_iff.1 hst' (hst.2 hlt)) hlo
    obtain rfl : e = d + q := by omega
    have hu : c * (2 : ℝ) ^ ((d : Int) + q) = (m <<< d : ℕ) * 2 ^ q := by
      rw [hc, Nat.shiftLeft_eq, zpow_add₀ two_ne_zero, zpow_natCast]
      push_cast
      ring
    refine ⟨m <<< d, false, ?_, ?_⟩
    · rw [roundShift_eq, hd]
      rw [hst', roundsUp_exact, pow_zero, Nat.div_one]
      rfl
    · rw [hu]
      exact (Picks.exact _ _).scale (zpow_pos two_pos q)
  next hlt =>
    obtain ⟨d, hd⟩ := Int.eq_ofNat_of_zero_le (sub_nonneg.2 (not_le.1 hlt).le)
    obtain rfl : q = d + e := by omega
    refine ⟨m / 2 ^ d, roundsUp rm neg m d st, ?_, ?_⟩
    · rw [roundShift_eq, hd, Int.toNat_natCast]
    · rw [zpow_add₀ two_ne_zero, zpow_natCast, ← mul_assoc, ← mul_assoc]
      exact (roundShift_picks hlo hhi hst (fun _ => by omega) rm neg).scale (zpow_pos two_pos e)

section
variable (hf : Claim.IsFmt f)
include hf

theorem mb_pos : 0 < f.mb := by obtain rfl | rfl | rfl := hf <;> decide
theorem mb_le : f.mb ≤ 23 := by obtain rfl | rfl | rfl := hf <;> decide

/-- A number of magnitude `c * 2 ^ e`, of which `m` is the integer part of `c` and `st` tells whether there is more, is rounded once (R122). -/
theorem round_rounds {rm : Nat} (hrm : rm < 4) {neg : Bool} {m : Nat} {e : Int} {st : Bool} {c : ℝ} (hm : m ≠ 0) (hlo : m ≤ c) (hhi : c < m + 1)
    (hst : st = true ↔ m < c) (hprec : st = true → f.mb < m.log2) {v : ℝ} (hneg : neg = true ↔ v < 0) (hv : |v| = c * 2 ^ e) :
    Claim.Rounds f rm v (f.round rm neg m e st) := by
  set q := max ((m.log2 : Int) + e - f.mb) f.emin with hq
  have heq : st = true → e < q := fun h => by have := hprec h; omega
  obtain ⟨N, up, hround, hpick⟩ := round_picks hlo hhi hst heq rm neg
  have htwo (k : Int) : (0 : ℝ) < 2 ^ k := zpow_pos two_pos k
  have hpow : (2 : ℝ) ^ (m.log2 : Int) ≤ c ∧ c < 2 ^ ((m.log2 : Int) + 1) := by
    have hle : ((2 ^ m.log2 : ℕ) : ℝ) ≤ m := Nat.cast_le.2 (Nat.log2_self_le hm)
    have hlt : ((m + 1 : ℕ) : ℝ) ≤ (2 ^ (m.log2 + 1) : ℕ) := Nat.cast_le.2 Nat.lt_log2_self
    push_cast at hle hlt
    refine ⟨?_, ?_⟩
    · exact_mod_cast hle.trans hlo
    · exact_mod_cast hhi.trans_le hlt
  -- the lower neighbour is no more than the greatest fraction with its leading bit, and no less than the least unless the exponent is the least one
  have hN : N < 2 ^ (f.mb + 1) := by
    have hlt : (N : ℝ) * 2 ^ q < 2 ^ ((f.mb : Int) + 1) * 2 ^ q := calc
      (N : ℝ) * 2 ^ q ≤ c * 2 ^ e := hpick.lower
      _ < 2 ^ ((m.log2 : Int) + 1) * 2 ^ e := mul_lt_mul_of_pos_right hpow.2 (htwo e)
      _ ≤ 2 ^ ((f.mb : Int) + 1) * 2 ^ q := by
        rw [← zpow_add₀ two_ne_zero, ← zpow_add₀ two_ne_zero]
        exact zpow_le_zpow_right₀ one_le_two (by omega)
    exact_mod_cast lt_of_mul_lt_mul_right hlt (htwo q).le
  have hplace : (q - f.emin).toNat = 0 ∨ 2 ^ f.mb ≤ N := by
    refine or_iff_not_imp_left.2 fun ht => Nat.lt_succ_iff.1 ?_
    have hlt : (2 : ℝ) ^ (f.mb : Int) * 2 ^ q < (N + 1 : ℕ) * 2 ^ q := calc
      (2 : ℝ) ^ (f.mb : Int) * 2 ^ q = 2 ^ (m.log2 : Int) * 2 ^ e := by
        rw [← zpow_add₀ two_ne_zero, ← zpow_add₀ two_ne_zero]
        exact congrArg _ (by omega)
      _ ≤ c * 2 ^ e := mul_le_mul_of_nonneg_right hpow.1 (htwo e).le
      _ < (N + 1 : ℕ) * 2 ^ q := hpick.upper
    exact_mod_cast lt_of_mul_lt_mul_right hlt (htwo q).le
  have hexp : f.emin + ((q - f.emin).toNat : Int) = q := by omega
  have hval {n : Nat} (hn : n ≤ 2 ^ (f.mb + 1)) (hn' : (q - f.emin).toNat = 0 ∨ 2 ^ f.mb ≤ n) :
      Claim.magValue f ((q - f.emin).toNat * 2 ^ f.mb + n) = n * 2 ^ q := by rw [magValue_place f hn hn', hexp]
  have heven : ((q - f.emin).toNat * 2 ^ f.mb + N) % 2 = N % 2 := by
    obtain ⟨j, hj⟩ := Nat.exists_eq_succ_of_ne_zero (mb_pos hf).ne'
    rw [hj, pow_succ, ← mul_assoc]
    omega
  have hpos : 0 < c := (htwo _).trans_le hpow.1
  rw [round_eq f rm neg (fun h => hm h.1) e, ← hq, hround, ← add_assoc]
  refine rounds_of_picks (u := c * 2 ^ e) ?_ hf hrm hneg (abs_pos.1 (hv ▸ mul_pos hpos (htwo e))) hv rfl
  rw [hval hN.le hplace, add_assoc, hval hN (hplace.imp_right Nat.le_succ_of_le)]
  exact hpick.congr heven

end

end

/-! ## Finite values as real numbers -/

/-- The sign of a value as a factor. -/
noncomputable def sgn (n : Bool) : ℝ := if n then -1 else 1

/-- The number of a finite value of the model. -/
noncomputable def finReal (n : Bool) (m : Nat) (e : Int) : ℝ := sgn n * (m * 2 ^ e)

theorem sgn_bne (a b : Bool) : sgn (a != b) = sgn a * sgn b := by cases a <;> cases b <;> simp [sgn]
theorem sgn_not (a : Bool) : sgn (!a) = -sgn a := by cases a <;> simp [sgn]
theorem sgn_mul_self (a : Bool) : sgn a * sgn a = 1 := by cases a <;> simp [sgn]
theorem sgn_ne_zero (a : Bool) : sgn a ≠ 0 := by cases a <;> simp [sgn]
theorem abs_sgn_mul (a : Bool) (u : ℝ) : |sgn a * u| = |u| := by cases a <;> simp [sgn]
theorem sgn_mul_neg_iff (a : Bool) {u : ℝ} (hu : 0 < u) : a = true ↔ sgn a * u < 0 := by cases a <;> simp [sgn, hu, hu.le]

theorem finReal_eq_zero {n : Bool} {m : Nat} {e : Int} : finReal n m e = 0 ↔ m = 0 := by
  simp [finReal, sgn_ne_zero, zpow_ne_zero]

theorem finReal_neg_iff {n : Bool} {m : Nat} (hm : m ≠ 0) (e : Int) : n = true ↔ finReal n m e < 0 :=
  sgn_mul_neg_iff n (mul_pos (Nat.cast_pos.2 (Nat.pos_of_ne_zero hm)) (zpow_pos two_pos e))

theorem finReal_mul (a b : Bool) (m n : Nat) (d e : Int) : finReal (a != b) (m * n) (d + e) = finReal a m d * finReal b n e := by
  rw [finReal, finReal, finReal, sgn_bne, zpow_add₀ two_ne_zero]
  push_cast
  ring

theorem finReal_not (a : Bool) (m : Nat) (e : Int) : finReal (!a) m e = -finReal a m e := by rw [finReal, finReal, sgn_not, neg_mul]

/-- An integer is the finite value of its sign and magnitude. -/
theorem finReal_int (v : ℤ) : finReal (decide (v < 0)) v.natAbs 0 = v := by
  obtain hv | hv := lt_or_ge v 0
  · rw [finReal, decide_eq_true hv, ← Int.cast_natCast v.natAbs, Int.ofNat_natAbs_of_nonpos hv.le]
    simp [sgn]
  · rw [finReal, decide_eq_false hv.not_gt, ← Int.cast_natCast v.natAbs, Int.natAbs_of_nonneg hv]
    simp [sgn]

/-- The value that the model gives a finite operand is its number (R115). -/
theorem value_flush_real {f : Fmt} {x : Nat} (h : Claim.Finite f x) :
    ∃ m e, f.value (f.flush false x) = .fin (Claim.minus f x) m e ∧ Claim.realOf f x = finReal (Claim.minus f x) m e ∧
      (m = 0 ↔ Claim.magOf f x = 0) ∧ m < 2 ^ (f.mb + 1) := by
  have hmag : f.mag (f.flush false x) = Claim.magOf f x := by rw [mag_flush, if_neg (by simp)]; rfl
  have hreal : Claim.realOf f x = sgn (Claim.minus f x) * Claim.magValue f (Claim.magOf f x) := by
    unfold Claim.realOf sgn
    split <;> ring
  have hpos : 0 < 2 ^ f.mb := Nat.two_pow_pos _
  have hmod := Nat.mod_lt (Claim.magOf f x) hpos
  have hdiv := Nat.div_add_mod (Claim.magOf f x) (2 ^ f.mb)
  have hnan : ¬f.infBits < Claim.magOf f x := h.not_gt
  have hinf : Claim.magOf f x ≠ f.infBits := h.ne
  simp only [Fmt.value, hmag, hnan, hinf, if_false, minus_eq, neg_flush, hreal, Claim.magValue, pow_succ]
  split
  next he =>
    rw [he, Nat.mul_zero, Nat.zero_add] at hdiv
    exact ⟨_, _, rfl, rfl, by rw [hdiv], by omega⟩
  next he => exact ⟨_, _, rfl, rfl, iff_of_false (by omega) fun hz => he (by rw [hz, Nat.zero_div]), by omega⟩

/-! ## Results of finite values -/

theorem flush_false_signed {f : Fmt} {k : Nat} (hk : k < 2 ^ f.bits) (n : Bool) : f.flush false (f.signed n k) = f.signed n k := by
  rw [Fmt.flush, if_neg (by simp), neg_signed hk, mag_signed hk]

theorem exists_round_eq_signed (f : Fmt) (rm : Nat) (neg : Bool) (m : Nat) (e : Int) (st : Bool) :
    ∃ k, k < 2 ^ f.bits ∧ f.round rm neg m e st = f.signed neg k := by
  by_cases h : m = 0 ∧ st = false
  · exact ⟨0, Nat.two_pow_pos _, if_pos h⟩
  · exact ⟨_, (clamp_le f _ _).trans_lt (infBits_lt f), round_eq f rm neg h e⟩

/-- Without flushing a rounded result stands as it is. -/
theorem roundF_false (f : Fmt) (rm : Nat) (neg : Bool) (m : Nat) (e : Int) (st : Bool) : f.roundF rm false neg m e st = f.round rm neg m e st := by
  obtain ⟨k, hk, hround⟩ := exists_round_eq_signed f rm neg m e st
  rw [Fmt.roundF, hround, flush_false_signed hk]

section
variable {f : Fmt} (hf : Claim.IsFmt f) {rm : Nat} (hrm : rm < 4)
include hf hrm

/-- A result whose significand is `m` and, where `st` is set, a part of 1 more, is the rounded one (R122). -/
theorem roundF_rounds (n : Bool) {m : Nat} (e : Int) {st : Bool} {c : ℝ} (hm : m ≠ 0) (hlo : m ≤ c) (hhi : c < m + 1)
    (hst : st = true ↔ m < c) (hprec : st = true → f.mb < m.log2) : Claim.Rounds f rm (sgn n * (c * 2 ^ e)) (f.roundF rm false n m e st) := by
  have hc : 0 < c := (Nat.cast_pos.2 (Nat.pos_of_ne_zero hm)).trans_le hlo
  have hu : 0 < c * (2 : ℝ) ^ e := mul_pos hc (zpow_pos two_pos e)
  rw [roundF_false]
  exact round_rounds hf hrm hm hlo hhi hst hprec (sgn_mul_neg_iff n hu) (by rw [abs_sgn_mul, abs_of_pos hu])

/-- A finite value as a result: rounded where it is not 0, else a zero of its sign. -/
theorem gives_fin {n : Bool} {m : Nat} {e : Int} {neg : Bool} (hz : m = 0 → n = neg) :
    Claim.Gives f rm (finReal n m e) neg (f.ofVal rm false (.fin n m e)) := by
  refine ⟨fun h0 => ?_, fun h0 => ?_⟩
  · exact roundF_rounds hf hrm n e (mt finReal_eq_zero.2 h0) le_rfl (lt_add_one _) (by simp) (by simp)
  · obtain rfl := finReal_eq_zero.1 h0
    obtain rfl := hz rfl
    rw [patternOf_eq]
    exact (roundF_false ..).trans (if_pos ⟨rfl, rfl⟩)

end

/-! ## Sums, differences and products (R122, R126) -/

/-- A significand brought to a lower exponent. -/
theorem shiftLeft_mul_zpow (m : Nat) {d e : Int} (h : d ≤ e) : ((m <<< (e - d).toNat : ℕ) : ℝ) * 2 ^ d = m * 2 ^ e := by
  obtain ⟨k, hk⟩ := Int.eq_ofNat_of_zero_le (sub_nonneg.2 h)
  obtain rfl : e = k + d := by omega
  rw [hk, Int.toNat_natCast, Nat.shiftLeft_eq, zpow_add₀ two_ne_zero, zpow_natCast]
  push_cast
  ring

/-- The sum of two finite values is exact, and a zero one has the sign of R122. -/
theorem finAdd_exact (rm : Nat) (n1 n2 : Bool) (m1 m2 : Nat) (e1 e2 : Int) : ∃ n m e, finAdd rm n1 m1 e1 n2 m2 e2 = (n, m, e) ∧
    finReal n m e = finReal n1 m1 e1 + finReal n2 m2 e2 ∧ (m = 0 → n = if n1 = n2 then n1 else decide (rm = 3)) := by
  have h1 := shiftLeft_mul_zpow m1 (min_le_left e1 e2)
  have h2 := shiftLeft_mul_zpow m2 (min_le_right e1 e2)
  simp only [finAdd, finReal, ← h1, ← h2]
  generalize m1 <<< (e1 - min e1 e2).toNat = a
  generalize m2 <<< (e2 - min e1 e2).toNat = b
  by_cases hn : n1 = n2
  · subst hn
    refine ⟨_, _, _, if_pos rfl, ?_, fun _ => (if_pos rfl).symm⟩
    push_cast
    ring
  · obtain rfl : n2 = !n1 := by cases n1 <;> cases n2 <;> simp_all
    simp only [hn, if_false, sgn_not]
    obtain hlt | heq | hgt := lt_trichotomy a b
    · simp only [hlt.ne, hlt.not_gt, if_false]
      refine ⟨_, _, _, rfl, ?_, fun h => absurd h (Nat.sub_pos_of_lt hlt).ne'⟩
      rw [Nat.cast_sub hlt.le, sgn_not]
      ring
    · simp only [heq, if_true]
      exact ⟨_, _, _, rfl, by push_cast; ring, fun _ => rfl⟩
    · simp only [hgt.ne', hgt, if_false, if_true]
      refine ⟨_, _, _, rfl, ?_, fun h => absurd h (Nat.sub_pos_of_lt hgt).ne'⟩
      rw [Nat.cast_sub hgt.le]
      ring

section
variable {f : Fmt} (hf : Claim.IsFmt f) {rm : Nat} (hrm : rm < 4) (n1 n2 : Bool) (m1 m2 : Nat) (e1 e2 : Int)
include hf hrm

theorem gives_fvAdd : Claim.Gives f rm (finReal n1 m1 e1 + finReal n2 m2 e2) (if n1 = n2 then n1 else decide (rm = 3))
    (f.ofVal rm false (fvAdd rm (.fin n1 m1 e1) (.fin n2 m2 e2))) := by
  obtain ⟨n, m, e, hsum, hreal, hzero⟩ := finAdd_exact rm n1 n2 m1 m2 e1 e2
  rw [← hreal, fvAdd, hsum]
  exact gives_fin hf hrm hzero

/-- A difference of two zeros of one sign has that sign (log 85). -/
theorem gives_fvSub : Claim.Gives f rm (finReal n1 m1 e1 - finReal n2 m2 e2) (if m1 = 0 ∧ n1 = n2 then n1 else decide (rm = 3))
    (f.ofVal rm false (fvSub rm (.fin n1 m1 e1) (.fin n2 m2 e2))) := by
  by_cases hzero : m1 = 0 ∧ m2 = 0
  · obtain ⟨rfl, rfl⟩ := hzero
    have hreal (n : Bool) (e : Int) : finReal n 0 e = 0 := finReal_eq_zero.2 rfl
    rw [hreal, hreal, sub_zero, ← hreal (if n1 = n2 then n1 else decide (rm = 3)) e1]
    exact gives_fin hf hrm fun _ => by simp
  · have hsub : fvSub rm (.fin n1 m1 e1) (.fin n2 m2 e2) = fvAdd rm (.fin n1 m1 e1) (.fin (!n2) m2 e2) := by
      unfold fvSub
      split
      next h => injections; exact absurd ⟨‹m1 = 0›, ‹m2 = 0›⟩ hzero
      next => rfl
    obtain ⟨hround, hzeros⟩ := gives_fvAdd hf hrm n1 (!n2) m1 m2 e1 e2
    rw [hsub, sub_eq_add_neg, ← finReal_not]
    refine ⟨hround, fun h0 => (hzeros h0).trans ?_⟩
    rw [finReal_not, ← sub_eq_add_neg, sub_eq_zero] at h0
    have hm : m1 = 0 ↔ m2 = 0 := by rw [← finReal_eq_zero (n := n1) (e := e1), h0, finReal_eq_zero]
    have hne : m1 ≠ 0 := fun h => hzero ⟨h, hm.1 h⟩
    have hsign : n1 = n2 := Bool.eq_iff_iff.2 (by rw [finReal_neg_iff hne e1, h0, finReal_neg_iff (mt hm.2 hne) e2])
    simp [hne, hsign]

theorem gives_fvMul : Claim.Gives f rm (finReal n1 m1 e1 * finReal n2 m2 e2) (n1 != n2) (f.ofVal rm false (fvMul (.fin n1 m1 e1) (.fin n2 m2 e2))) := by
  rw [← finReal_mul]
  exact gives_fin hf hrm fun _ => rfl

end

/-! ## Quotients and roots (R126) -/

/-- The integer part of a quotient; there is more where the remainder is not 0. -/
theorem div_parts (X : Nat) {d : Nat} (hd : d ≠ 0) : ((X / d : ℕ) : ℝ) ≤ (X : ℝ) / d ∧ (X : ℝ) / d < (X / d : ℕ) + 1 ∧
    (decide (X % d ≠ 0) = true ↔ ((X / d : ℕ) : ℝ) < (X : ℝ) / d) := by
  have hpos : (0 : ℝ) < d := Nat.cast_pos.2 (Nat.pos_of_ne_zero hd)
  have hsum : (X : ℝ) = (X / d : ℕ) * d + (X % d : ℕ) := by exact_mod_cast (Nat.div_add_mod' X d).symm
  have hlt : ((X % d : ℕ) : ℝ) < d := Nat.cast_lt.2 (Nat.mod_lt X (Nat.pos_of_ne_zero hd))
  have hnonneg : (0 : ℝ) ≤ (X % d : ℕ) := Nat.cast_nonneg _
  rw [le_div_iff₀ hpos, div_lt_iff₀ hpos, lt_div_iff₀ hpos, add_mul, one_mul]
  generalize ((X / d : ℕ) : ℝ) = Q at *
  refine ⟨by linarith, by linarith, ?_⟩
  rw [hsum, lt_add_iff_pos_right, Nat.cast_pos, Nat.pos_iff_ne_zero, decide_eq_true_iff]

theorem isqrtFrom_spec (n : Nat) : ∀ i r, r * r ≤ n → n < (r + 2 ^ i) * (r + 2 ^ i) →
    isqrtFrom n i r * isqrtFrom n i r ≤ n ∧ n < (isqrtFrom n i r + 1) * (isqrtFrom n i r + 1)
  | 0, r, hle, hlt => ⟨hle, hlt⟩
  | i + 1, r, hle, hlt => by
    rw [pow_succ, mul_two, ← add_assoc] at hlt
    unfold isqrtFrom
    split
    next h => exact isqrtFrom_spec n i _ h hlt
    next h => exact isqrtFrom_spec n i _ hle (not_le.1 h)

/-- The square root found bit by bit is the floor of the square root. -/
theorem isqrt_eq (n : Nat) : isqrt n = Nat.sqrt n := by
  have hlt : n < (0 + 2 ^ (n.log2 / 2 + 1)) * (0 + 2 ^ (n.log2 / 2 + 1)) := calc
    n < 2 ^ (n.log2 + 1) := Nat.lt_log2_self
    _ ≤ 2 ^ ((n.log2 / 2 + 1) + (n.log2 / 2 + 1)) := Nat.pow_le_pow_right two_pos (by omega)
    _ = _ := by rw [Nat.zero_add, pow_add]
  exact Nat.eq_sqrt.2 (isqrtFrom_spec n _ 0 (Nat.zero_le _) hlt)

/-- The integer part of the root of `X / d`; there is more where it is no root of it. -/
theorem sqrt_parts (X : Nat) {d : Nat} (hd : d ≠ 0) : ((isqrt (X / d) : ℕ) : ℝ) ≤ √((X : ℝ) / d) ∧ √((X : ℝ) / d) < (isqrt (X / d) : ℕ) + 1 ∧
    (decide (isqrt (X / d) * isqrt (X / d) * d ≠ X) = true ↔ ((isqrt (X / d) : ℕ) : ℝ) < √((X : ℝ) / d)) := by
  obtain ⟨hle, hlt⟩ := Nat.eq_sqrt.1 (isqrt_eq (X / d))
  generalize isqrt (X / d) = r at *
  have hpos : 0 < d := Nat.pos_of_ne_zero hd
  have hpos' : (0 : ℝ) < d := Nat.cast_pos.2 hpos
  have hmul : r * r * d ≤ X := (Nat.le_div_iff_mul_le hpos).1 hle
  have hmul' : X < (r + 1) * (r + 1) * d := (Nat.div_lt_iff_lt_mul hpos).1 hlt
  have hr : (0 : ℝ) ≤ r := Nat.cast_nonneg r
  refine ⟨Real.le_sqrt_of_sq_le ?_, (Real.sqrt_lt' (by linarith)).2 ?_, ?_⟩
  · rw [le_div_iff₀ hpos', sq]
    exact_mod_cast hmul
  · rw [div_lt_iff₀ hpos', sq]
    exact_mod_cast hmul'
  · rw [Real.lt_sqrt hr, lt_div_iff₀ hpos', sq, decide_eq_true_iff, ← lt_iff_le_and_ne.trans (and_iff_right hmul)]
    exact_mod_cast Iff.rfl

theorem le_log2_of_le {k n : Nat} (h : 2 ^ k ≤ n) : k ≤ n.log2 :=
  (Nat.le_log2 ((Nat.two_pow_pos k).trans_le h).ne').2 h

section
variable {f : Fmt} (hf : Claim.IsFmt f) {rm : Nat} (hrm : rm < 4)
include hf hrm

/-- The 64 more bits of the dividend leave more than the fraction bits in the quotient. -/
theorem gives_div (n1 n2 : Bool) (m1 : Nat) {m2 : Nat} (h0 : m2 ≠ 0) (h2 : m2 < 2 ^ (f.mb + 1)) (e1 e2 : Int) :
    Claim.Gives f rm (finReal n1 m1 e1 / finReal n2 m2 e2) (n1 != n2) (f.div rm false (.fin n1 m1 e1) (.fin n2 m2 e2)) := by
  have hmb := mb_le hf
  rw [Fmt.div, if_neg h0, Nat.shiftLeft_eq]
  by_cases hm1 : m1 = 0
  · subst hm1
    have hreal : finReal n1 0 e1 / finReal n2 m2 e2 = finReal (n1 != n2) 0 (e1 - e2 - 64) := by
      rw [finReal_eq_zero.2 rfl, finReal_eq_zero.2 rfl, zero_div]
    rw [hreal, Nat.zero_mul, Nat.zero_div, Nat.zero_mod]
    exact gives_fin hf hrm fun _ => rfl
  obtain ⟨hlo, hhi, hst⟩ := div_parts (m1 * 2 ^ 64) h0
  have hreal : finReal n1 m1 e1 / finReal n2 m2 e2 = sgn (n1 != n2) * (((m1 * 2 ^ 64 : ℕ) : ℝ) / m2 * 2 ^ (e1 - e2 - 64)) := by
    rw [finReal, finReal, sgn_bne, sub_sub, zpow_sub₀ two_ne_zero, zpow_add₀ two_ne_zero, div_eq_mul_inv]
    have hs : (sgn n2)⁻¹ = sgn n2 := inv_eq_of_mul_eq_one_left (sgn_mul_self n2)
    have hp : (2 : ℝ) ^ (64 : ℤ) = 2 ^ 64 := zpow_natCast 2 64
    rw [mul_inv, hs, hp, Nat.cast_mul, Nat.cast_pow, Nat.cast_ofNat]
    field_simp
  have hbig : 2 ^ 40 ≤ m1 * 2 ^ 64 / m2 := by
    rw [Nat.le_div_iff_mul_le (Nat.pos_of_ne_zero h0)]
    have h24 : m2 < 2 ^ 24 := h2.trans_le (Nat.pow_le_pow_right two_pos (by omega))
    omega
  have hne : m1 * 2 ^ 64 / m2 ≠ 0 := ((Nat.two_pow_pos 40).trans_le hbig).ne'
  have hprec := le_log2_of_le hbig
  have hrounds := roundF_rounds hf hrm (n1 != n2) (e1 - e2 - 64) hne hlo hhi hst fun _ => by omega
  rw [← hreal] at hrounds
  refine ⟨fun _ => hrounds, fun hz => absurd hz ?_⟩
  rw [div_eq_zero_iff, finReal_eq_zero, finReal_eq_zero]
  exact not_or.2 ⟨hm1, h0⟩

end

/-- The significand with an even exponent, of which the roots are taken. -/
def evenSig (m : Nat) (e : Int) : Nat := if e % 2 = 0 then m else 2 * m

/-- Half of that exponent. -/
def halfExp (e : Int) : Int := (if e % 2 = 0 then e else e - 1) / 2

theorem sqrt_finReal (m : Nat) (e : Int) : √(finReal false m e) = √(evenSig m e) * 2 ^ halfExp e := by
  have hreal : finReal false m e = evenSig m e * ((2 : ℝ) ^ halfExp e) ^ 2 := by
    rw [finReal, sgn, if_neg Bool.false_ne_true, one_mul, ← zpow_natCast, ← zpow_mul]
    unfold evenSig halfExp
    split
    next h => rw [show e / 2 * ((2 : ℕ) : ℤ) = e by push_cast; omega]
    next h =>
      rw [show (e - 1) / 2 * ((2 : ℕ) : ℤ) = e - 1 by push_cast; omega, zpow_sub_one₀ two_ne_zero]
      push_cast
      ring
  rw [hreal, Real.sqrt_mul (Nat.cast_nonneg _), Real.sqrt_sq (zpow_pos two_pos _).le]

section
variable {f : Fmt} (hf : Claim.IsFmt f) {rm : Nat} (hrm : rm < 4) {m : Nat} (h0 : m ≠ 0) (e : Int)
include hf hrm h0

omit hf hrm in
theorem evenSig_bounds : m ≤ evenSig m e ∧ evenSig m e ≤ 2 * m ∧ evenSig m e ≠ 0 := by
  unfold evenSig
  split <;> omega

theorem sqrt_rounds : Claim.Rounds f rm √(finReal false m e) (f.sqrt rm false (.fin false m e)) := by
  have hmb := mb_le hf
  obtain ⟨hle, -, hne⟩ := evenSig_bounds h0 e
  have hsqrt : f.sqrt rm false (.fin false m e) = f.roundF rm false false (isqrt (evenSig m e * 2 ^ 64)) (halfExp e - 32)
      (decide (isqrt (evenSig m e * 2 ^ 64) * isqrt (evenSig m e * 2 ^ 64) ≠ evenSig m e * 2 ^ 64)) := by
    rw [Fmt.sqrt, if_neg h0, if_neg Bool.false_ne_true, ← Nat.shiftLeft_eq]
    rfl
  obtain ⟨hlo, hhi, hst⟩ := sqrt_parts (evenSig m e * 2 ^ 64) one_ne_zero
  simp only [Nat.div_one, Nat.cast_one, div_one, mul_one] at hlo hhi hst
  have hreal : √(finReal false m e) = sgn false * (√((evenSig m e * 2 ^ 64 : ℕ) : ℝ) * 2 ^ (halfExp e - 32)) := by
    have hroot : √((2 : ℝ) ^ 64) = 2 ^ 32 := by rw [show (2 : ℝ) ^ 64 = (2 ^ 32) ^ 2 by norm_num, Real.sqrt_sq (by norm_num)]
    have hp : (2 : ℝ) ^ (32 : ℤ) = 2 ^ 32 := zpow_natCast 2 32
    rw [Nat.cast_mul, Nat.cast_pow, Nat.cast_ofNat, sqrt_finReal, Real.sqrt_mul (Nat.cast_nonneg _), hroot, zpow_sub₀ two_ne_zero, hp, sgn, if_neg Bool.false_ne_true]
    field_simp
  have hbig : 2 ^ 32 ≤ isqrt (evenSig m e * 2 ^ 64) := by
    rw [isqrt_eq, Nat.le_sqrt]
    omega
  have hprec := le_log2_of_le hbig
  rw [hsqrt, hreal]
  exact roundF_rounds hf hrm false _ ((Nat.two_pow_pos 32).trans_le hbig).ne' hlo hhi hst fun _ => by omega

theorem rsqrt_rounds (hlt : m < 2 ^ (f.mb + 1)) : Claim.Rounds f rm (1 / √(finReal false m e)) (f.rsqrt rm false (.fin false m e)) := by
  have hmb := mb_le hf
  obtain ⟨-, hle, hne⟩ := evenSig_bounds h0 e
  have hrsqrt : f.rsqrt rm false (.fin false m e) = f.roundF rm false false (isqrt (2 ^ 128 / evenSig m e)) (-halfExp e - 64)
      (decide (isqrt (2 ^ 128 / evenSig m e) * isqrt (2 ^ 128 / evenSig m e) * evenSig m e ≠ 2 ^ 128)) := by
    rw [Fmt.rsqrt, if_neg h0, if_neg Bool.false_ne_true]
    rfl
  obtain ⟨hlo, hhi, hst⟩ := sqrt_parts (2 ^ 128) hne
  have hreal : 1 / √(finReal false m e) = sgn false * (√((2 ^ 128 : ℕ) / (evenSig m e : ℝ)) * 2 ^ (-halfExp e - 64)) := by
    have hroot : √(((2 ^ 128 : ℕ) : ℝ)) = 2 ^ 64 := by
      rw [show ((2 ^ 128 : ℕ) : ℝ) = (2 ^ 64) ^ 2 by norm_num, Real.sqrt_sq (by norm_num)]
    have hp : (2 : ℝ) ^ (64 : ℤ) = 2 ^ 64 := zpow_natCast 2 64
    rw [sqrt_finReal, Real.sqrt_div (Nat.cast_nonneg _), hroot, zpow_sub₀ two_ne_zero, zpow_neg, hp, sgn, if_neg Bool.false_ne_true]
    field_simp
  have hbig : 2 ^ 32 ≤ isqrt (2 ^ 128 / evenSig m e) := by
    rw [isqrt_eq, Nat.le_sqrt, Nat.le_div_iff_mul_le (Nat.pos_of_ne_zero hne)]
    have h24 : m < 2 ^ 24 := hlt.trans_le (Nat.pow_le_pow_right two_pos (by omega))
    omega
  have hprec := le_log2_of_le hbig
  rw [hrsqrt, hreal]
  exact roundF_rounds hf hrm false _ ((Nat.two_pow_pos 32).trans_le hbig).ne' hlo hhi hst fun _ => by omega

end

/-! ## FEXP2 of integers and FLOG2 of powers of two (R126) -/

/-- An integer of a sign and a magnitude. -/
def signedInt (n : Bool) (k : Nat) : ℤ := if n then -(k : ℤ) else k

theorem cast_signedInt (n : Bool) (k : Nat) : ((signedInt n k : ℤ) : ℝ) = sgn n * k := by cases n <;> simp [signedInt, sgn]

/-- What FEXP2 takes for the exponent of its result where its operand is an integer `n`: where that is beyond every exponent, ±2^20 in its place. -/
def ExpFor (n n' : ℤ) : Prop := n' = n ∨ (2 ^ 20 ≤ n ∧ n' = 2 ^ 20) ∨ (n ≤ -2 ^ 20 ∧ n' = -2 ^ 20)

section
variable (f : Fmt) (rm : Nat) (fz : Bool) {s : Bool} {m : Nat} {e n : ℤ}

/-- The operand is a whole significand shifted to the left. -/
theorem exp2_of_int_shifted (he : 0 ≤ e) (hm : m ≠ 0) (h : finReal s m e = n) :
    ∃ n', f.exp2 rm fz (.fin s m e) = f.roundF rm fz false 1 n' false ∧ ExpFor n n' := by
  have hn : signedInt s (m <<< e.toNat) = n := by
    have hshift := shiftLeft_mul_zpow m he
    rw [sub_zero, zpow_zero, mul_one] at hshift
    have hreal : ((signedInt s (m <<< e.toNat) : ℤ) : ℝ) = n := by rw [cast_signedInt, hshift, ← h, finReal]
    exact_mod_cast hreal
  refine ⟨_, if_pos (.inl he), ?_⟩
  rw [if_neg hm]
  by_cases hbig : 64 ≤ e
  · right
    rw [if_pos hbig]
    have hle : 2 ^ 64 ≤ m <<< e.toNat := by
      rw [Nat.shiftLeft_eq]
      exact (Nat.pow_le_pow_right two_pos (by omega)).trans (Nat.le_mul_of_pos_left _ (Nat.pos_of_ne_zero hm))
    cases s with
    | false =>
      simp only [signedInt, Bool.false_eq_true, if_false] at hn
      exact .inl ⟨by omega, rfl⟩
    | true =>
      simp only [signedInt, if_true] at hn
      exact .inr ⟨by omega, rfl⟩
  · rw [if_neg hbig]
    exact .inl hn

/-- The operand is a significand shifted to the right, and no fraction is left. -/
theorem exp2_of_int_fraction (he : e < 0) (hm : m ≠ 0) (h : finReal s m e = n) : f.exp2 rm fz (.fin s m e) = f.roundF rm fz false 1 n false := by
  have hv : signedInt s m = n * 2 ^ (-e).toNat := by
    have hreal : ((signedInt s m : ℤ) : ℝ) = n * 2 ^ (-e).toNat := by
      rw [cast_signedInt, ← h, finReal, ← zpow_natCast, mul_assoc, mul_assoc, ← zpow_add₀ two_ne_zero, Int.toNat_of_nonneg (by omega)]
      simp
    exact_mod_cast hreal
  have hwhole : (signedInt s m % 2 ^ (-e).toNat).toNat = 0 := by rw [hv, Int.mul_emod_left, Int.toNat_zero]
  have hquot : signedInt s m / 2 ^ (-e).toNat = n := by rw [hv, Int.mul_ediv_cancel _ (pow_ne_zero _ two_ne_zero)]
  refine (if_neg (not_or.2 ⟨he.not_ge, hm⟩)).trans ((if_pos hwhole).trans ?_)
  exact congrArg (fun i => f.roundF rm fz false 1 i false) hquot

theorem exp2_of_int (h : finReal s m e = n) : ∃ n', f.exp2 rm fz (.fin s m e) = f.roundF rm fz false 1 n' false ∧ ExpFor n n' := by
  by_cases hm : m = 0
  · have hn : n = 0 := by rw [finReal_eq_zero.2 hm] at h; exact_mod_cast h.symm
    refine ⟨_, if_pos (.inr hm), .inl ?_⟩
    simp [hm, hn]
  obtain he | he := le_or_gt 0 e
  · exact exp2_of_int_shifted f rm fz he hm h
  · exact ⟨n, exp2_of_int_fraction f rm fz he hm h, .inl rfl⟩

end

/-- Far below the format's least step, 1 rounds up away from zero and else to nothing. -/
theorem roundsUp_one_of_far {sh : Nat} (h : 2 < sh) (rm : Nat) (neg : Bool) : roundsUp rm neg 1 sh false = decide (awayMode rm neg = 1) := by
  have hlog : Nat.log2 1 + 2 < sh := by rwa [show Nat.log2 1 = 0 by decide]
  have hmod : 1 % 2 ^ sh = 1 := Nat.mod_eq_of_lt (Nat.one_lt_two_pow (by omega))
  unfold roundsUp
  split <;> simp_all

theorem clamp_of_le {f : Fmt} {a b : Nat} (h : f.infBits ≤ b) : f.clamp a b = f.clamp a f.infBits := by
  rw [Fmt.clamp, Fmt.clamp, if_neg h.not_gt, if_neg (lt_irrefl _)]

section
variable {f : Fmt} (hf : Claim.IsFmt f)
include hf

theorem round_one {rm : Nat} (hrm : rm < 4) : f.round rm false 1 0 false = Claim.patternOf f false ((2 ^ (f.eb - 1) - 1) * 2 ^ f.mb) := by
  revert rm
  obtain rfl | rfl | rfl := hf <;> decide

theorem emin_bounds : -149 ≤ f.emin ∧ f.emin ≤ 0 ∧ 2 ^ f.eb ≤ 256 := by obtain rfl | rfl | rfl := hf <;> decide

/-- Past ±2^20 the power of two of an exponent overflows, or is less than every step, and rounds as that of ±2^20. -/
theorem round_one_of_expFor (rm : Nat) {n n' : ℤ} (h : ExpFor n n') : f.round rm false 1 n' false = f.round rm false 1 n false := by
  have hmb := mb_le hf
  obtain ⟨hmin, hmin', heb⟩ := emin_bounds hf
  have hone : ¬((1 : ℕ) = 0 ∧ false = false) := by simp
  have hlog : Nat.log2 1 = 0 := by decide
  have hover {j : ℤ} (hj : 2 ^ 20 ≤ j) : f.round rm false 1 j false = f.signed false (f.clamp (awayMode rm false) f.infBits) := by
    rw [round_eq f rm false hone j, hlog]
    have hexp : 2 ^ f.eb ≤ (max (((0 : ℕ) : Int) + j - f.mb) f.emin - f.emin).toNat := by omega
    exact congrArg _ (clamp_of_le ((Nat.mul_le_mul_right _ ((Nat.sub_le _ 1).trans hexp)).trans (Nat.le_add_right _ _)))
  have hunder {j : ℤ} (hj : j ≤ -2 ^ 20) : f.round rm false 1 j false = f.signed false (f.clamp (awayMode rm false) (decide (awayMode rm false = 1)).toNat) := by
    rw [round_eq f rm false hone j, hlog, max_eq_right (by omega), if_neg (by omega), sub_self, Int.toNat_zero, Nat.zero_mul, Nat.zero_add, roundShift_eq,
      roundsUp_one_of_far (by omega), Nat.div_eq_of_lt (Nat.one_lt_two_pow (by omega)), Nat.zero_add]
  obtain rfl | ⟨hn, rfl⟩ | ⟨hn, rfl⟩ := h
  · rfl
  · rw [hover le_rfl, hover hn]
  · rw [hunder le_rfl, hunder hn]

section
variable {rm : Nat} (hrm : rm < 4) {s : Bool} {m : Nat} {e n : ℤ}
include hrm

theorem exp2_rounds (h : finReal s m e = n) : Claim.Rounds f rm ((2 : ℝ) ^ n) (f.exp2 rm false (.fin s m e)) := by
  obtain ⟨n', hexp, hfor⟩ := exp2_of_int f rm false h
  have hrounds := roundF_rounds hf hrm false n one_ne_zero (Nat.cast_one (R := ℝ)).le (by norm_num) (st := false) (by simp) (by simp)
  rw [hexp, roundF_false, round_one_of_expFor hf rm hfor, ← roundF_false]
  simpa [sgn] using hrounds

theorem exp2_one (h : finReal s m e = n) (hn : (2 : ℝ) ^ n = 1) :
    f.exp2 rm false (.fin s m e) = Claim.patternOf f false ((2 ^ (f.eb - 1) - 1) * 2 ^ f.mb) := by
  obtain rfl := (zpow_eq_one_iff_right₀ (by norm_num) (by norm_num)).1 hn
  obtain ⟨n', hexp, hfor⟩ := exp2_of_int f rm false h
  rw [hexp, roundF_false, round_one_of_expFor hf rm hfor, round_one hf hrm]

theorem log2_rounds (hn : n ≠ 0) (h : finReal s m e = (2 : ℝ) ^ n) : Claim.Rounds f rm n (f.log2 rm false (.fin s m e)) := by
  have hpos : (0 : ℝ) < 2 ^ n := zpow_pos two_pos n
  have hm : m ≠ 0 := mt finReal_eq_zero.2 (by rw [h]; exact hpos.ne')
  obtain rfl : s = false := Bool.eq_false_iff.2 fun hs => ((finReal_neg_iff hm e).1 hs).not_gt (h ▸ hpos)
  have hreal : (m : ℝ) = 2 ^ (n - e) := by
    rw [finReal, sgn, if_neg Bool.false_ne_true, one_mul] at h
    rw [zpow_sub₀ two_ne_zero, ← h, mul_div_cancel_right₀ _ (zpow_ne_zero e two_ne_zero)]
  have hle : 0 ≤ n - e := by
    have hone : (2 : ℝ) ^ (0 : ℤ) ≤ 2 ^ (n - e) := by rw [zpow_zero, ← hreal]; exact_mod_cast Nat.pos_of_ne_zero hm
    exact (zpow_le_zpow_iff_right₀ one_lt_two).1 hone
  obtain ⟨k, hk⟩ := Int.eq_ofNat_of_zero_le hle
  obtain rfl : m = 2 ^ k := by rw [hk, zpow_natCast] at hreal; exact_mod_cast hreal
  have hlog : f.log2 rm false (.fin false (2 ^ k) e) = f.ofVal rm false (.fin (decide (n < 0)) n.natAbs 0) := by
    have hexp : e + (k : Int) = n := by omega
    simp only [Fmt.log2, hm, Nat.log2_two_pow, hexp, hn, if_true, if_false, Bool.false_eq_true]
    rfl
  have hgives := gives_fin hf hrm (n := decide (n < 0)) (m := n.natAbs) (e := 0) (neg := decide (n < 0)) fun _ => rfl
  rw [finReal_int] at hgives
  rw [hlog]
  exact hgives.1 (Int.cast_ne_zero.2 hn)

/-- CVT of an integer to a float (R130). -/
theorem cvtIF_gives (v : ℤ) : Claim.Gives f rm v false (cvtIF f rm false v) := by
  rw [← finReal_int v]
  exact gives_fin hf hrm fun h => by simp [Int.natAbs_eq_zero.1 h]

end

end

/-! ## Rounding to an integer (R130) -/

/-- The choice between the two integers next to a number is its rounding. -/
theorem roundsInt_of_picks {rm : Nat} (hrm : rm < 4) {neg : Bool} {N : Nat} {u : ℝ} {up : Bool}
    (h : Picks (awayMode rm neg) N (N + 1 : ℕ) u N up) : Claim.RoundsInt rm (sgn neg * u) (signedInt neg (N + up.toNat)) := by
  obtain ⟨hnear, hdown, hup⟩ := awayMode_cases hrm neg
  have hlo := h.lower
  have hhi := h.upper
  have hN : (0 : ℝ) ≤ N := Nat.cast_nonneg N
  push_cast at hhi
  have hfloor (ha : awayMode rm neg = 0) : up.toNat = 0 := by rw [h.trunc ha]; rfl
  have hceil (ha : awayMode rm neg = 1) : u ≤ (N + up.toNat : ℕ) ∧ ((N + up.toNat : ℕ) : ℝ) < u + 1 := by
    have hiff := h.away ha
    cases up with
    | false => exact ⟨not_lt.1 fun hlt => Bool.false_ne_true (hiff.2 hlt), by push_cast [Bool.toNat_false]; linarith⟩
    | true => push_cast [Bool.toNat_true]; exact ⟨hhi.le, by linarith [hiff.1 rfl]⟩
  have hhalf (ha : awayMode rm neg = 2) : |((N + up.toNat : ℕ) : ℝ) - u| ≤ 1 / 2 ∧ (|((N + up.toNat : ℕ) : ℝ) - u| = 1 / 2 → (N + up.toNat) % 2 = 0) := by
    cases up with
    | false =>
      obtain ⟨hle, htie⟩ := h.nearDown ha rfl
      push_cast [Bool.toNat_false] at hle htie ⊢
      rw [add_zero, abs_sub_comm, abs_of_nonneg (by linarith)]
      exact ⟨by linarith, fun he => htie (by linarith)⟩
    | true =>
      obtain ⟨hle, htie⟩ := h.nearUp ha rfl
      push_cast [Bool.toNat_true] at hle htie ⊢
      rw [abs_of_nonneg (by linarith)]
      exact ⟨by linarith, fun he => by have := htie (by linarith); omega⟩
  have hparity (k : Nat) : signedInt neg k % 2 = 0 ↔ k % 2 = 0 := by unfold signedInt; split <;> omega
  rw [Claim.RoundsInt, hparity, cast_signedInt, ← mul_sub, abs_sgn_mul, abs_sgn_mul, abs_sgn_mul, Nat.abs_cast, abs_of_nonneg (hN.trans hlo)]
  refine ⟨fun h0 => hhalf (hnear.2 h0), fun h1 => ?_, fun h2 => ?_, fun h3 => ?_⟩
  · rw [hfloor (hdown.2 (.inl h1)), mul_mul_mul_comm, sgn_mul_self, one_mul]
    exact ⟨hlo, hhi, mul_nonneg hN (hN.trans hlo)⟩
  · cases neg with
    | false => simpa [sgn] using hceil (hup.2 (.inl ⟨h2, rfl⟩))
    | true =>
      rw [hfloor (hdown.2 (.inr (.inl ⟨h2, rfl⟩)))]
      simp only [sgn, if_true, add_zero]
      exact ⟨by linarith, by linarith⟩
  · cases neg with
    | false =>
      rw [hfloor (hdown.2 (.inr (.inr ⟨h3, rfl⟩)))]
      simp only [sgn, Bool.false_eq_true, if_false, add_zero]
      exact ⟨by linarith, by linarith⟩
    | true =>
      obtain ⟨hle, hlt⟩ := hceil (hup.2 (.inr ⟨h3, rfl⟩))
      simp only [sgn, if_true]
      exact ⟨by linarith, by linarith⟩

theorem roundShift_exact (rm : Nat) (neg : Bool) (m : Nat) : roundShift rm neg m 0 false = m := by
  rw [roundShift_eq, roundsUp_exact, pow_zero, Nat.div_one]
  rfl

theorem sat_eq {lo hi : ℤ} (h : lo ≤ hi) (v : ℤ) : sat lo hi v = max lo (min hi v) := by
  unfold sat
  split_ifs <;> omega

/-- A finite value is rounded to an integer and forced into the range. -/
theorem valToInt_rounds {rm : Nat} (hrm : rm < 4) {lo hi : ℤ} (h : lo ≤ hi) (s : Bool) (m : Nat) (e : Int) :
    ∃ n, Claim.RoundsInt rm (finReal s m e) n ∧ valToInt rm lo hi (.fin s m e) = max lo (min hi n) := by
  have hval : valToInt rm lo hi (.fin s m e) = max lo (min hi (signedInt s (if 0 ≤ e then m <<< e.toNat else roundShift rm s m (-e).toNat false))) := by
    rw [← sat_eq h]
    rfl
  obtain ⟨N, up, hround, hpick⟩ := round_picks (e := e) (q := 0) (st := false) le_rfl (lt_add_one (m : ℝ)) (by simp) (by simp) rm s
  rw [sub_zero, zero_sub, roundShift_exact] at hround
  rw [zpow_zero, mul_one, mul_one] at hpick
  refine ⟨_, roundsInt_of_picks hrm hpick, ?_⟩
  rw [hval, hround]

/-! ## Flushing of operands and results (R123) -/

section
variable {f : Fmt}

theorem flush_signed {k : Nat} (hk : k < 2 ^ f.bits) (fz n : Bool) : f.flush fz (f.signed n k) = f.signed n (if fz ∧ k < 2 ^ f.mb then 0 else k) := by
  rw [Fmt.flush, mag_signed hk, neg_signed hk]
  split <;> rfl

theorem flush_eq (f : Fmt) (fz : Bool) (x : Nat) : f.flush fz x = f.signed (f.neg x) (f.mag (f.flush fz x)) := by
  rw [mag_flush, Fmt.flush]
  split <;> rfl

/-- A flushed operand is not changed by flushing it again, or by reading it without flushing. -/
theorem flush_flush_operand (f : Fmt) (x : Nat) : f.flush false (f.flush true x) = f.flush true x := by
  rw [flush_eq f true, flush_false_signed (mag_lt f _)]

/-- A rounded result flushed is the result rounded without flushing, and then flushed. -/
@[simp] theorem flush_roundF (f : Fmt) (rm : Nat) (neg : Bool) (m : Nat) (e : Int) (st : Bool) :
    f.flush true (f.roundF rm false neg m e st) = f.roundF rm true neg m e st := by
  rw [roundF_false, Fmt.roundF]

@[simp] theorem flush_signed_zero (f : Fmt) (n : Bool) : f.flush true (f.signed n 0) = f.signed n 0 := by
  rw [flush_signed (Nat.two_pow_pos _), ite_self]

@[simp] theorem flush_zero_pattern (f : Fmt) : f.flush true 0 = 0 := flush_signed_zero f false

section
variable (hf : Claim.IsFmt f)
include hf

theorem flush_signed_inf (n : Bool) : f.flush true (f.signed n f.infBits) = f.signed n f.infBits := by
  rw [flush_signed (infBits_lt f), if_neg fun h => h.2.not_ge (two_pow_mb_le_infBits hf)]

theorem flush_inf : f.flush true f.infBits = f.infBits := flush_signed_inf hf false

theorem flush_nan : f.flush true f.nan = f.nan := by obtain rfl | rfl | rfl := hf <;> decide

/-- Every result under FZ is the result without, flushed; what is no rounded result is no subnormal. -/
theorem ofVal_flush (rm : Nat) (v : FVal) : f.ofVal rm true v = f.flush true (f.ofVal rm false v) := by
  cases v with
  | nan => exact (flush_nan hf).symm
  | inf n => exact (flush_signed_inf hf n).symm
  | fin n m e => exact (flush_roundF ..).symm

theorem div_flush (rm : Nat) (v w : FVal) : f.div rm true v w = f.flush true (f.div rm false v w) := by
  cases v <;> cases w <;> simp only [Fmt.div, apply_ite (f.flush true), flush_nan hf, flush_signed_inf hf, flush_signed_zero, flush_roundF]

theorem sqrt_flush (rm : Nat) (v : FVal) : f.sqrt rm true v = f.flush true (f.sqrt rm false v) := by
  cases v <;> simp only [Fmt.sqrt, apply_ite (f.flush true), flush_nan hf, flush_inf hf, flush_signed_zero, flush_roundF]

theorem rsqrt_flush (rm : Nat) (v : FVal) : f.rsqrt rm true v = f.flush true (f.rsqrt rm false v) := by
  cases v <;> simp only [Fmt.rsqrt, apply_ite (f.flush true), flush_nan hf, flush_signed_inf hf, flush_zero_pattern, flush_roundF]

theorem exp2_flush (rm : Nat) (v : FVal) : f.exp2 rm true v = f.flush true (f.exp2 rm false v) := by
  cases v <;> simp only [Fmt.exp2, apply_ite (f.flush true), flush_nan hf, flush_inf hf, flush_zero_pattern, flush_roundF]

theorem log2_flush (rm : Nat) (v : FVal) : f.log2 rm true v = f.flush true (f.log2 rm false v) := by
  cases v <;> simp only [Fmt.log2, apply_ite (f.flush true), flush_nan hf, flush_inf hf, flush_signed_inf hf, flush_zero_pattern, flush_roundF]

theorem arith_flush (rm : Nat) (op : FOp) (x y : Nat) : f.arith rm true op x y = f.flush true (f.arith rm false op (f.flush true x) (f.flush true y)) := by
  cases op <;> simp only [Fmt.arith, flush_flush_operand, ofVal_flush hf rm, div_flush hf rm]

theorem fma_flush (rm x y z : Nat) :
    f.fma rm true x y z = f.flush true (f.fma rm false (f.flush true x) (f.flush true y) (f.flush true z)) := by
  simp only [Fmt.fma, flush_flush_operand, ofVal_flush hf rm]

theorem func_flush (rm : Nat) (op : FFun) (x : Nat) : f.func rm true op x = f.flush true (f.func rm false op (f.flush true x)) := by
  cases op <;> simp only [Fmt.func, flush_flush_operand, div_flush hf rm, rsqrt_flush hf rm, sqrt_flush hf rm, exp2_flush hf rm, log2_flush hf rm]

end

/-- A subnormal is flushed to a zero of its sign, and any other pattern is kept. -/
theorem flush_true_eq (f : Fmt) (x : Nat) :
    (Claim.magOf f x < 2 ^ f.mb → f.flush true x = Claim.patternOf f (Claim.minus f x) 0) ∧
    (2 ^ f.mb ≤ Claim.magOf f x → f.flush true x = Claim.patternOf f (Claim.minus f x) (Claim.magOf f x)) := by
  rw [patternOf_eq, patternOf_eq, minus_eq]
  exact ⟨fun h => if_pos ⟨rfl, h⟩, fun h => if_neg fun hc => hc.2.not_ge h⟩

end

/-! ## The statement -/

section
variable {f : Fmt} (hf : Claim.IsFmt f) {rm : Nat} (hrm : rm < 4)
include hf hrm

/-- Sums, differences, products, quotients and FMA of finite operands. -/
theorem arith_gives {x y : Nat} (hx : Claim.Finite f x) (hy : Claim.Finite f y) :
    let a := Claim.realOf f x
    let b := Claim.realOf f y
    let sum (p q : Bool) : Bool := if p = q then p else decide (rm = 3)
    let diff (x y : Nat) : Bool := if Claim.magOf f x = 0 ∧ Claim.minus f x = Claim.minus f y then Claim.minus f x else decide (rm = 3)
    Claim.Gives f rm (a + b) (sum (Claim.minus f x) (Claim.minus f y)) (f.arith rm false .add x y) ∧
    Claim.Gives f rm (a - b) (diff x y) (f.arith rm false .sub x y) ∧
    Claim.Gives f rm (a * b) (Claim.minus f x != Claim.minus f y) (f.arith rm false .mul x y) ∧
    (b ≠ 0 → Claim.Gives f rm (a / b) (Claim.minus f x != Claim.minus f y) (f.arith rm false .div x y)) ∧
    ∀ z, Claim.Finite f z → Claim.Gives f rm (a * b + Claim.realOf f z) (sum (Claim.minus f x != Claim.minus f y) (Claim.minus f z)) (f.fma rm false x y z) := by
  obtain ⟨m1, e1, hvx, hrx, hzx, -⟩ := value_flush_real hx
  obtain ⟨m2, e2, hvy, hry, -, hlt⟩ := value_flush_real hy
  simp only [Fmt.arith, Fmt.fma, hvx, hvy, hrx, hry, ← hzx]
  refine ⟨gives_fvAdd hf hrm .., gives_fvSub hf hrm .., gives_fvMul hf hrm .., fun h0 => ?_, fun z hz => ?_⟩
  · exact gives_div hf hrm _ _ _ (mt finReal_eq_zero.2 h0) hlt ..
  · obtain ⟨m3, e3, hvz, hrz, -⟩ := value_flush_real hz
    rw [hvz, hrz, ← finReal_mul]
    exact gives_fvAdd hf hrm ..

/-- Reciprocals, roots, powers, logarithms and conversions of a finite operand. -/
theorem func_rounds {x : Nat} (hx : Claim.Finite f x) :
    let a := Claim.realOf f x
    (a ≠ 0 → Claim.Rounds f rm (1 / a) (f.func rm false .rcp x)) ∧
    (0 < a → Claim.Rounds f rm (Real.sqrt a) (f.func rm false .sqrt x) ∧ Claim.Rounds f rm (1 / Real.sqrt a) (f.func rm false .rsq x)) ∧
    (∀ n : ℤ, a = n → Claim.Rounds f rm ((2 : ℝ) ^ n) (f.func rm false .exp2 x) ∧
      ((2 : ℝ) ^ n = 1 → f.func rm false .exp2 x = Claim.patternOf f false ((2 ^ (f.eb - 1) - 1) * 2 ^ f.mb))) ∧
    (∀ n : ℤ, n ≠ 0 → a = (2 : ℝ) ^ n → Claim.Rounds f rm (n : ℝ) (f.func rm false .log2 x)) ∧
    (∀ g, Claim.IsFmt g → Claim.Gives g rm a (Claim.minus f x) (cvtFF f g rm false x)) ∧
    ∀ lo hi : ℤ, lo ≤ hi → ∃ n, Claim.RoundsInt rm a n ∧ cvtFI f rm false lo hi x = max lo (min hi n) := by
  obtain ⟨m, e, hv, hreal, -, hlt⟩ := value_flush_real hx
  simp only [Fmt.func, cvtFF, cvtFI, hv, hreal]
  generalize Claim.minus f x = s
  refine ⟨fun h0 => ?_, fun hpos => ?_, fun n hn => ⟨exp2_rounds hf hrm hn, exp2_one hf hrm hn⟩, fun n h0 hn => log2_rounds hf hrm h0 hn,
    fun g hg => gives_fin hg hrm fun _ => rfl, fun lo hi h => valToInt_rounds hrm h s m e⟩
  · have hone : finReal false 1 0 = 1 := by simp [finReal, sgn]
    rw [← hone]
    exact (gives_div hf hrm false s 1 (mt finReal_eq_zero.2 h0) hlt 0 e).1 (div_ne_zero (by rw [hone]; exact one_ne_zero) h0)
  · have hm : m ≠ 0 := mt finReal_eq_zero.2 hpos.ne'
    obtain rfl : s = false := Bool.eq_false_iff.2 fun hs => ((finReal_neg_iff hm e).1 hs).not_gt hpos
    exact ⟨sqrt_rounds hf hrm hm e, rsqrt_rounds hf hrm hm e hlt⟩

end

/-- Settles O10: a finite operand's value is its number, each operation gives an exact result or one with what is left of it marked, and the one
rounding goes to a neighbour of it by the mode. -/
theorem roundingIsExact : Obligations.RoundingIsExact := by
  refine fun f hf rm hrm => ⟨fun x y hx hy => arith_gives hf hrm hx hy, fun x hx => func_rounds hf hrm hx, cvtIF_gives hf hrm,
    fun x y z op g => ⟨arith_flush hf rm op x y, fma_flush hf rm x y z, func_flush hf rm g x⟩, fun x v g lo hi hg => ⟨?_, ?_, ?_⟩, flush_true_eq f⟩
  · rw [cvtFF, cvtFF, flush_flush_operand, ofVal_flush hg]
  · rw [cvtFI, cvtFI, flush_flush_operand]
  · exact (flush_roundF ..).symm

end Sys2Proof.Machine
end

section
namespace Sys2Proof.Machine

/-! # A park that ends with the freeze (O49)

What loads and MRDs have read by a freeze returns in it (`freezeReturns`; log 70), and a value that returns takes its strand up as
at any other time (`deliver`, `wakeOne`). So a strand that the mark S holds until its returns are in (R41) does not keep that park
when its last value returns in the freeze: it becomes Ready, and is frozen as Ready. O49 says that every strand of a frame that is
saved is frozen in the park it has. -/

/-- An LDS into S5 whose value is performed and has not returned. -/
def performedLds : Ret :=
  { ord := 0, kind := .lds, dest := 0, wide := false, ty := .b32, dests := [5], units := [{ lane := 0, key := spadKey 0 0, off := 0, val := some 7 }],
    tag := ⟨0, 0, 0, 0⟩, addr := 0, insn := 0, pc := 0 }

/-- The strand of a loaded program, parked behind the mark S of that LDS. -/
def markerStrand : Strand := { (bootFrame State.reset).strand 1 with life := .parked .marker, ord := 1, rets := [performedLds] }

/-- That strand in the LIVE partition 0 of a started device. -/
def parkedAtMarker : State := { ((bootFrame State.reset).endRun 0).setStrand 1 markerStrand with powered := true, stage := 2 }

/-- The freeze returns the value, which ends the park. -/
theorem freeze_parkedAtMarker : ((freeze parkedAtMarker 0).strand 1).life = .frozenReady := by decide +kernel

/-- No core has sent anything. -/
theorem sent_parkedAtMarker (c : Nat) : (parkedAtMarker.core c).sent = [] := by
  have hcores : parkedAtMarker.cores.all (fun e => decide (e.2.sent = [])) = true := by decide +kernel
  generalize hl : parkedAtMarker.cores = l at hcores
  rw [State.core, hl]
  clear hl
  induction l with
  | nil => rfl
  | cons e r ih =>
    simp only [List.all_cons, Bool.and_eq_true, decide_eq_true_eq] at hcores
    rw [Tbl.get]
    split
    · exact hcores.1
    · exact ih hcores.2

/-- An accepted command answers and changes no strand. -/
theorem strand_of_accepted {w t : State} {fn : Nat} (h : Claim.Accepted w t fn) (u : Nat) : t.strand u = w.strand u := by
  obtain ⟨b, rfl⟩ := h
  rfl

/-- Refutes O49: a strand parked behind a marker whose last value returns in the freeze is frozen Ready. -/
theorem not_preemptAndResume : ¬ Obligations.PreemptAndResume := by
  rintro ⟨preempt, -, -⟩
  have hmanages : Claim.Manages parkedAtMarker 0 := by unfold Claim.Manages; decide
  obtain ⟨-, -, frozen⟩ := preempt 0 0 parkedAtMarker
  obtain ⟨t, -, haccepted, -, -, -, -, -, -, -, -, strands⟩ := frozen hmanages (by decide) (by decide +kernel)
  have hpart : (parkedAtMarker.strand 1).part = 0 := by decide +kernel
  have htwins : ∀ e ∈ parkedAtMarker.strands, e.2.part = 0 → e.2.twin = none := by decide +kernel
  have hsaved : ∀ f ∈ parkedAtMarker.frames, f.2.part = 0 → discards parkedAtMarker f.2 = false := by decide +kernel
  obtain ⟨hlife, -⟩ := strands 1 hpart sent_parkedAtMarker htwins hsaved
  have hparked : (parkedAtMarker.strand 1).life = .parked .marker := by decide +kernel
  have hfrozen : (t.strand 1).life = .frozenReady := by rw [strand_of_accepted haccepted, freeze_parkedAtMarker]
  rw [hparked, hfrozen] at hlife
  cases hlife

end Sys2Proof.Machine
end

section
namespace Sys2Proof.Machine

/-! # The state after reset (O60) -/

/-- Of the slots of a core at reset only slot 0, the firmware's, is listed (R221). -/
theorem slot_reset {j : Nat} (hj : 1 ≤ j) : Core.reset.slot j = ⟨0, 0, 0, 0, 0, .empty⟩ :=
  if_neg (Nat.one_le_iff_ne_zero.1 hj).symm

/-- Settles O60: no table of the reset state lists anything, so every entry has its reset value. -/
theorem resetState : Obligations.ResetState := by
  have hpart (p : Nat) : State.reset.part p = Part.free := rfl
  have hcore (c : Nat) : State.reset.core c = Core.reset := rfl
  have hdie (d : Nat) : State.reset.die d = Die.reset := rfl
  simp only [Obligations.ResetState, hpart, hcore, hdie]
  refine ⟨rfl, fun _ => rfl, rfl, rfl, fun _ => ⟨rfl, rfl, rfl, rfl, fun _ => rfl, fun _ => rfl⟩, fun _ => ⟨rfl, rfl, fun _ hj => slot_reset hj⟩,
    fun _ => rfl, fun _ => ⟨rfl, rfl⟩, fun _ => rfl, rfl, rfl, fun _ => rfl⟩

end Sys2Proof.Machine
end

section
namespace Sys2Proof.Machine

/-! # TRAP and BKPT (O13)

Both issue and are charged before their fault is taken, so it is taken from a state that differs from the one before in the
schedule, in ACT and in the count of issues. Where the handler is there, what the strand's scope evicts is carried from that state
(R79, R364): traffic does not depend on what differs. -/

/-- Traffic does not depend on the strands, the cores, ACT or the order of readiness. -/
theorem State.reach_schedule (s : State) (strands : Tbl Strand) (cores : Tbl Core) (act : Tbl W64) (clock part die k n cls : Nat) :
    ({ s with strands := strands, cores := cores, act := act, clock := clock } : State).reach part die k n cls =
      { s.reach part die k n cls with strands := strands, cores := cores, act := act, clock := clock } := by
  unfold State.reach State.cross State.carry State.request
  split <;> split <;> rfl

theorem State.carryBacking_schedule (s : State) (t : Strand) (l : List Nat) (strands : Tbl Strand) (cores : Tbl Core) (act : Tbl W64) (clock : Nat) :
    ({ s with strands := strands, cores := cores, act := act, clock := clock } : State).carryBacking t l =
      { s.carryBacking t l with strands := strands, cores := cores, act := act, clock := clock } := by
  unfold State.carryBacking State.carryWindow
  induction linesOf t.bkOff (32 * sumOf t.regPegs l) generalizing s with
  | nil => rfl
  | cons e m ih =>
    simp only [List.foldl_cons]
    rw [← ih, ← State.reach_schedule]
    rfl

theorem Quiet.carryBacking {u c : Nat} {s w : State} (h : Quiet u c s w) (t : Strand) (l : List Nat) :
    Quiet u c (s.carryBacking t l) (w.carryBacking t l) where
  memory := by simpa using h.memory
  rest := by
    conv_lhs => rw [h.rest, State.carryBacking_schedule]
    simp
  strands v hv := by simpa using h.strands v hv
  cores d hd := by simpa using h.cores d hd
  own := by simpa using h.own

/-- What a strand's evictions carry does not depend on its place in the schedule. -/
theorem State.spilled_still {w s : State} {a b : Strand} (h : a.still = b.still) : w.spilled s a = w.spilled s b := by
  change w.spilled s a.still = w.spilled s b.still
  rw [h]

/-- The state in which a TRAP or BKPT has issued, charged with `k`. -/
def trapIssued (s : State) (k : Nat) : State := (charge s k).setMe (s.me.counted .plain)

section
variable (s : State) (k : Nat)

@[simp] theorem trapIssued_cur : (trapIssued s k).cur = s.cur := rfl

@[simp] theorem trapIssued_me : (trapIssued s k).me = s.me.counted .plain := State.strand_setMe_same (charge s k) _

theorem quiet_trapIssued : Quiet s.cur s.me.core s (trapIssued s k) := (quiet_charge s k).1.trans (quiet_setStrand _ _ _ _)

/-- Issue and charge leave the handlers where they are. -/
theorem trapTarget_trapIssued (c : Code) : trapTarget (trapIssued s k) (s.me.counted .plain) c = trapTarget s s.me c := by
  have hcore : (trapIssued s k).core s.me.core =
      { s.core s.me.core with runCharge := (s.core s.me.core).runCharge + k, runLen := (s.core s.me.core).runLen + 1 } :=
    State.core_setCore_same s s.me.core _
  have hpc : ((trapIssued s k).core s.me.core).pcAt = (s.core s.me.core).pcAt := by rw [hcore]; rfl
  simp only [trapTarget, show (s.me.counted .plain).core = s.me.core from rfl, hpc]
  rfl

end

/-- A TRAP or BKPT takes its fault once it has issued, to be resumed behind it. -/
theorem exec_trapping {i : Instr} {c : Code} {d : Nat} {s : State}
    (h : ∃ k n, (i = .trap k n ∧ c = .trap ∨ i = .bkpt k n ∧ c = .bkpt) ∧ d = n.toNat) (hi : Issues i s) :
    exec i s = .next (takeFault (trapIssued s (weight s 0x0E)) s.cur c d s.me.pc (nextPC s s.me 2)) := by
  obtain ⟨k, n, ⟨rfl, rfl⟩ | ⟨rfl, rfl⟩, rfl⟩ := h
  · exact (issue_eq hi rfl ⟨k, 0x0E, 2, .plain⟩ _).trans rfl
  · exact (issue_eq hi rfl ⟨k, 0x0E, 2, .plain⟩ _).trans rfl

/-- Strand `a` with the trap of TRAPCODE `w` taken. -/
def Strand.trapped (a : Strand) (w : W64) (resume dest : PC) : Strand :=
  { a.counted .plain with trapcode := w, trappc := a.pc.bits, stack := ⟨a.scope, resume, a.f, .trap⟩ :: a.stack, pc := dest, slotEnd := none, passed := false, sMark := false }

theorem Strand.take_counted {c : Code} (hc : c ≠ .engineReset) (a : Strand) (d : Nat) (resume dest : PC) :
    (a.counted .plain).take c d a.pc resume dest = a.trapped (trapWord c d) resume dest := by
  simp only [Strand.take, if_neg hc]
  generalize trapWord c d = w
  rfl

/-- The strand that has taken a trap, but for its place in the schedule and what it evicts. -/
structure Strand.Trapped (a b : Strand) (w : W64) (resume dest : PC) : Prop where
  pc : b.pc = dest
  trapcode : b.trapcode = w
  trappc : b.trappc = a.pc.bits
  stack : b.stack = ⟨a.scope, resume, a.f, .trap⟩ :: a.stack
  evicted : ({ a with stack := b.stack } : Strand).mapsFit = true → b.evicted = a.evicted
  rest : ({ b with pc := a.pc, slotEnd := a.slotEnd, trapcode := a.trapcode, trappc := a.trappc, stack := a.stack, evicted := a.evicted } : Strand).still =
    (a.counted .plain).still

theorem trapped_of_still {a b : Strand} {w : W64} {resume dest : PC} (h : b.still = (a.trapped w resume dest).fitMaps.still) : a.Trapped b w resume dest := by
  have hevicted (hfit : (a.trapped w resume dest).mapsFit = true) : b.evicted = a.evicted := by
    rw [Strand.fitMaps, if_pos hfit] at h
    exact (congrArg Strand.evicted h :)
  rw [Strand.fitMaps_eq] at h
  generalize (a.trapped w resume dest).fitMaps.evicted = l at h
  have hstack : b.stack = ⟨a.scope, resume, a.f, .trap⟩ :: a.stack := congrArg Strand.stack h
  refine ⟨congrArg Strand.pc h, congrArg Strand.trapcode h, congrArg Strand.trappc h, hstack, fun hfit => hevicted ?_, ?_⟩
  · rw [hstack] at hfit
    exact hfit
  · exact (congrArg (fun x : Strand => ({ x with pc := a.pc, slotEnd := a.slotEnd, trapcode := a.trapcode, trappc := a.trappc, stack := a.stack, evicted := a.evicted } : Strand)) h :)

/-- TRAPCODE of TRAP and BKPT, whose number has 10 bits (R319, R320). -/
theorem trapWord_trapping {c : Code} {n : BitVec 10} (h : c = .trap ∨ c = .bkpt) :
    trapWord c n.toNat = BitVec.ofNat 64 (n.toNat * 2 ^ 32 + (if c = .trap then 21 else 22)) := by
  have hn : n.toNat % 2 ^ 24 = n.toNat := Nat.mod_eq_of_lt (n.isLt.trans (by decide))
  obtain rfl | rfl := h <;> simp only [trapWord, hn] <;> rfl

/-- A kill from a state in which the running strand has issued is a kill. -/
theorem killed_trapIssued {s t : State} {k : Nat} (h : Claim.Killed (trapIssued s k) t) : Claim.Killed s t := by
  simp only [Claim.Killed, trapIssued_me] at h
  exact h

/-- Settles O13: the fault is taken from the state in which the instruction has issued. -/
theorem trapAndBreakpoint : Obligations.TrapAndBreakpoint := by
  intro i c d hi s hissues
  have hexec := exec_trapping hi hissues
  obtain ⟨k, n, hcode, rfl⟩ := hi
  have hc : c = .trap ∨ c = .bkpt := hcode.imp And.right And.right
  rw [← trapWord_trapping hc]
  have htarget := trapTarget_trapIssued s (weight s 0x0E) c
  have hquiet := quiet_trapIssued s (weight s 0x0E)
  generalize weight s 0x0E = w at *
  split
  next hnone =>
    refine ⟨trapIssued s w, hquiet, trapIssued_me s w, ?_, killed_trapIssued (killed_kill (trapIssued s w) _ _)⟩
    rw [hexec, takeFault_of_trapTarget_none]
    rw [← trapIssued_cur s w, ← State.me_eq, trapIssued_me]
    exact htarget.trans hnone
  next dest hdest =>
    have hengine : c ≠ .engineReset := by obtain rfl | rfl := hc <;> decide
    obtain ⟨htaken, hstill⟩ := takeFault_eq (trapIssued s w) c n.toNat s.me.pc (nextPC s s.me 2) dest
      (by rw [trapIssued_me, htarget, hdest])
    rw [trapIssued_me, trapIssued_cur, Strand.take_counted hengine] at htaken hstill
    rw [State.spilled, trapIssued_me] at htaken
    refine ⟨_, hexec, ?_, ?_⟩
    · rw [State.spilled_still hstill]
      exact (hquiet.carryBacking _ _).trans htaken
    · obtain ⟨hpc, hcode, htrappc, hstack, hevicted, hrest⟩ := trapped_of_still hstill
      exact ⟨hpc, hcode, htrappc, hstack, hevicted, hrest⟩

end Sys2Proof.Machine
end

section
namespace Sys2Proof.Machine

/-! # EXIT (O15)

An EXIT releases its strand before it looks after the others. `Spares` leaves open what becomes of the released strand's life; the
lemmas below say that MEETs that others have parked do not touch the strand, and that an abandoned gang makes Ready only who waits in it. -/

section
variable {u v : Nat}

theorem strand_makeReady_ne (hv : v ≠ u) (s : State) : (s.makeReady v).strand u = s.strand u := (quiet_makeReady v 0 s).1.strands u hv.symm

@[simp] theorem strand_meetCheck (s : State) (fu j : Nat) : (meetCheck s fu j).strand u = s.strand u := by
  unfold meetCheck
  dsimp only
  split <;> rfl

theorem strand_meetCheckAll (s : State) (fu : Nat) : (meetCheckAll s fu).strand u = s.strand u :=
  List.foldlRecOn (motive := fun t => t.strand u = s.strand u) _ _ rfl fun t ht j _ => (strand_meetCheck t fu j).trans ht

theorem strand_meetArrival_ne (hv : v ≠ u) (s : State) (j n : Nat) : (meetArrival s v j n).strand u = s.strand u := by
  unfold meetArrival
  extract_lets t f m cnt arr m' s'
  exact (strand_meetCheck s' t.frame j).trans (State.strand_setStrand_ne _ v _ u hv.symm)

/-- Taking up the MEET of one strand leaves the others as they are. -/
theorem strand_meetWake_ne (hv : v ≠ u) (s : State) : (meetWake s v).1.strand u = s.strand u := by
  have hset (t : State) (x : Strand) : (t.setStrand v x).strand u = t.strand u := State.strand_setStrand_ne t v x u hv.symm
  have hfinish (j : Nat) (ph : BitVec 16) (x : SCode) : (meetFinish s v j ph x).strand u = s.strand u := hset s _
  have harrive (j n : Nat) : (meetArrival s v j n).strand u = s.strand u := strand_meetArrival_ne hv s j n
  have hready (t : State) : (t.makeReady v).strand u = t.strand u := strand_makeReady_ne hv t
  unfold meetWake
  extract_lets t f
  split
  · split <;> simp [hready, hfinish]
  · extract_lets m
    split
    · split <;> simp [hready, hset, hfinish]
    · split
      · split
        · simp [hset]
        · split
          · exact (hready _).trans ((hset _ _).trans (harrive _ _))
          · exact (hset _ _).trans (harrive _ _)
      · rfl
  · rfl

/-- The parked MEETs of a frame leave a strand alone that has left it. -/
theorem strand_meetWakeAll {fu : Nat} (n : Nat) (s : State) (hu : u ∉ (s.frame fu).strands) : (meetWakeAll fu n s).strand u = s.strand u := by
  induction n generalizing s with
  | zero => rfl
  | succ n ih =>
    obtain ⟨hmembers, hstrand⟩ := List.foldlRecOn (motive := fun (a : State × Bool) => Spares u s a.1 ∧ a.1.strand u = s.strand u) (s.frame fu).strands
      (fun (a : State × Bool) v => let (b, w) := meetWake a.1 v; (b, a.2 || w)) (b := (s, false)) ⟨Spares.refl u s, rfl⟩ fun a ha v hv =>
        have hne : v ≠ u := ne_of_mem_of_not_mem hv hu
        ⟨ha.1.trans (spares_meetWake hne a.1), (strand_meetWake_ne hne a.1).trans ha.2⟩
    unfold meetWakeAll
    dsimp only
    split
    · exact (ih _ (by rwa [hmembers.members fu])).trans hstrand
    · exact hstrand

/-- The abandonment of a gang makes Ready only who waits in it: a strand that is gone stays so. -/
theorem gone_abandonGang {s : State} (h : (s.strand u).life = .gone) (fu c : Nat) : ((abandonGang s fu c).strand u).life = .gone := by
  unfold abandonGang
  extract_lets f l s' _ s''
  have hlife : (s''.strand u).life = .gone := by
    refine (Tbl.get_map_view Strand.blank Strand.life _ (fun e => ?_) s.strands u).trans h
    split <;> exact ⟨rfl, rfl⟩
  refine List.foldlRecOn (motive := fun t : State => (t.strand u).life = .gone) _ _ hlife fun t ht v _ => ?_
  split
  next hgang =>
    have hv : v ≠ u := fun he => by rw [he, ht] at hgang; cases hgang
    split
    · rwa [strand_makeReady_ne hv]
    · exact ht
  next => exact ht

theorem gone_dropFrame {s : State} (h : (s.strand u).life = .gone) (fu : Nat) : ((s.dropFrame fu).strand u).life = .gone :=
  List.foldlRecOn (motive := fun t : State => (t.strand u).life = .gone) _ _ h fun t ht c _ => by
    split
    · exact gone_abandonGang ht fu c
    · exact ht

/-- The end of a frame, or its hand-over to its successor, when its last strand has left: that strand stays gone and outside. -/
theorem gone_endOfFrame {s : State} {fu : Nat} (hlife : (s.strand u).life = .gone) (hu : u ∉ (s.frame fu).strands) (next : Option TaskRec) :
    let w := if (s.frame fu).strands = [] then (match next with
      | some r => handOver s fu r
      | none => s.dropFrame fu) else s
    (w.strand u).settled = (s.strand u).settled ∧ (w.strand u).life = .gone ∧ u ∉ (w.frame fu).strands := by
  intro w
  simp only [w]
  split
  · split
    next r =>
      have hframe : ((handOver s fu r).frame fu).strands = [] := by
        rw [handOver, State.frame_setFrame_same]
      exact ⟨rfl, hlife, by simp [hframe]⟩
    next =>
      have hdrop : Spares u s (s.dropFrame fu) := spares_dropFrame fu s
      exact ⟨hdrop.strand, gone_dropFrame hlife fu, by rwa [hdrop.members fu]⟩
  · exact ⟨rfl, hlife, hu⟩

end

/-- What EXIT makes of its strand `a`: it is gone and released; what it has in its queues and channels stays (R155). -/
structure Strand.Exited (a b : Strand) : Prop where
  life : b.life = .gone
  bare : b.Bare
  sq : b.sq = a.sq
  copy : b.copy = a.copy

theorem Strand.sq_of_settled {a b : Strand} (h : a.settled = b.settled) : a.sq = b.sq := (congrArg Strand.sq h :)
theorem Strand.copy_of_settled {a b : Strand} (h : a.settled = b.settled) : a.copy = b.copy := (congrArg Strand.copy h :)

theorem sq_releaseStrand (s : State) (u : Nat) : ((s.releaseStrand u).strand u).sq = (s.strand u).sq := by rw [strand_releaseStrand]
theorem copy_releaseStrand (s : State) (u : Nat) : ((s.releaseStrand u).strand u).copy = (s.strand u).copy := by rw [strand_releaseStrand]

theorem exited_exitNow (s : State) (u : Nat) :
    (s.strand u).Exited ((exitNow s u).strand u) ∧ u ∉ ((exitNow s u).frame (s.strand u).frame).strands := by
  unfold exitNow
  extract_lets t fu next s1 s2 s3 s4 s5
  have hgang : Spares u s s1 := spares_gangCheck u s
  have hframe1 : (s1.strand u).frame = fu := hgang.frame_eq
  have hout2 : u ∉ (s2.frame fu).strands := hframe1 ▸ not_mem_strands_releaseStrand s1 u
  have hstrand3 : s3.strand u = s2.strand u := by simp only [s3]; split <;> rfl
  have hout3 : u ∉ (s3.frame fu).strands := by simp only [s3]; split <;> exact hout2
  have hcheck : Spares u s3 s4 := spares_meetCheckAll fu s3
  have hout4 : u ∉ (s4.frame fu).strands := by rwa [hcheck.members fu]
  have hstrand5 : s5.strand u = s2.strand u := (strand_meetWakeAll 64 s4 hout4).trans ((strand_meetCheckAll s3 fu).trans hstrand3)
  have hout5 : u ∉ (s5.frame fu).strands := by rwa [(spares_meetWakeAll 64 s4 hout4).members fu]
  have hlife5 : (s5.strand u).life = .gone := by rw [hstrand5, strand_releaseStrand]
  obtain ⟨hsettled, hlife, hout⟩ := gone_endOfFrame hlife5 hout5 next
  rw [hstrand5] at hsettled
  refine ⟨⟨hlife, (bare_releaseStrand s1 u).of_settled hsettled, ?_, ?_⟩, hout⟩
  · exact (Strand.sq_of_settled hsettled).trans ((sq_releaseStrand s1 u).trans (Strand.sq_of_settled hgang.strand))
  · exact (Strand.copy_of_settled hsettled).trans ((copy_releaseStrand s1 u).trans (Strand.copy_of_settled hgang.strand))

/-! ## The instruction -/

/-- The last live strand of a frame is its only one. -/
theorem lastLive_iff {s : State} {u : Nat} : lastLive s u = true ↔ ∀ v ∈ (s.frame (s.strand u).frame).strands, v = u := by
  simp [lastLive]

/-- LAUNCH-MISMATCH is raised where the frame does not fit its successor (R155, R278). -/
theorem exitMismatch_iff (s : State) : exitMismatch s s.cur = true ↔ Claim.Mismatch s := by
  unfold exitMismatch Claim.Mismatch successorOf
  dsimp only
  rw [← State.me_eq]
  split
  next r hr => simp [hr, lastLive_iff, ← State.me_eq, imp_iff_not_or, or_assoc]
  next hr => simp [hr]

/-- The meaning of an EXIT that takes no park before issue. -/
def exitRes (s : State) : Res :=
  if s.me.rets ≠ [] then .gone (((charge s (weight s 0x0C)).setMe { s.me with life := .exiting }).endRun s.me.core)
  else if exitMismatch s s.cur then .trap .launchMismatch 0
  else .gone (wakeAll (exitNow (charge s (weight s 0x0C)) s.cur))

theorem exec_exit (k : Marks) (s : State) : exec (.exit k) s = issue (.exit k) ⟨k, 0x0C, 2, .engine⟩ s exitRes := rfl

/-- An EXIT that answers with a state goes there. -/
theorem exec_exit_gone {k : Marks} {s t : State} (hi : Issues (.exit k) s) (h : exitRes s = .gone t) : exec (.exit k) s = .next t := by
  rw [exec_exit, issue_eq hi rfl, h]
  rfl

/-- Settles O15: the three answers of `exitRes`. -/
theorem exitEndsStrand : Obligations.ExitEndsStrand := by
  intro k s hi
  refine ⟨fun hrets => ?_, fun hrets hmis => ?_, fun hrets hmis => ?_⟩
  · refine ⟨_, exec_exit_gone hi (if_pos hrets), ?_, ?_⟩
    · exact ((quiet_charge s _).1.trans (quiet_setStrand _ _ _ _)).trans (quiet_endRun _ _ _)
    · rw [State.strand_endRun]
      exact State.strand_setMe_same (charge s _) _
  · have hanswer : exitRes s = .trap .launchMismatch 0 := by
      rw [exitRes, if_neg (not_not_intro hrets), if_pos ((exitMismatch_iff s).2 hmis)]
    exact does_trap hi (exec_exit k s) rfl ⟨by decide, by decide⟩ hanswer 2
  · have hanswer : exitRes s = .gone (wakeAll (exitNow (charge s (weight s 0x0C)) s.cur)) := by
      rw [exitRes, if_neg (not_not_intro hrets), if_neg (mt (exitMismatch_iff s).1 hmis)]
    obtain ⟨⟨hlife, ⟨hv, hq, hp, hstack, -, hbkLen⟩, hsq, hcopy⟩, hout⟩ := exited_exitNow (charge s (weight s 0x0C)) s.cur
    refine ⟨_, exec_exit_gone hi hanswer, hlife, hv, hq, hp, hstack, hbkLen, hsq, hcopy, hout, fun j => ?_⟩
    rw [exitNow_mem, charge_mem]

end Sys2Proof.Machine
end

section
namespace Sys2Proof.Machine

/-! # Parks before issue (O12)

Every instruction is issued by one function, `issue`; what it waits for before its meaning is asked is the same for all. -/

/-- Every instruction but an event is issued; its head and its meaning do not depend on the state. -/
theorem exec_eq_issue {i : Instr} (hi : isEvent i = false) : ∃ h body, ∀ s, exec i s = issue i h s body := by
  cases i
  all_goals simp only [isEvent, toFields, Option.isNone_none, Bool.true_eq_false] at hi
  all_goals exact ⟨_, _, fun _ => rfl⟩

/-! ## The values that an instruction waits for (R156) -/

/-- What is left of lock `y` when the values of `l` have been read: the values that are none of them. -/
structure Ret.Left (l : List (Ret × RUnit)) (y y' : Ret) : Prop where
  kind : y'.kind = y.kind
  dest : y'.dest = y.dest
  ord : y'.ord = y.ord
  units : ∀ z ∈ y'.units, z ∈ y.units ∧ ∀ e ∈ l, e.1.ord = y.ord → e.2.lane ≠ z.lane
  empty : y'.units = [] → y.units = [] ∧ l = []

theorem Ret.Left.refl (y : Ret) : Ret.Left [] y y := ⟨rfl, rfl, rfl, fun _ hz => ⟨hz, by simp⟩, fun h => ⟨h, rfl⟩⟩

theorem Ret.Left.cons {e : Ret × RUnit} {l : List (Ret × RUnit)} {y y' y'' : Ret} (h : Ret.Left [e] y y') (g : Ret.Left l y' y'') : Ret.Left (e :: l) y y'' where
  kind := g.kind.trans h.kind
  dest := g.dest.trans h.dest
  ord := g.ord.trans h.ord
  units z hz := by
    obtain ⟨hmem, hrest⟩ := g.units z hz
    obtain ⟨hmem, hfirst⟩ := h.units z hmem
    rw [h.ord] at hrest
    exact ⟨hmem, List.forall_mem_cons.2 ⟨hfirst e (List.mem_singleton_self e), hrest⟩⟩
  empty hnil := by
    obtain ⟨-, hcontra⟩ := h.empty (g.empty hnil).1
    cases hcontra

/-- What reading the values of `l` leaves of a strand: its locks without them, its life and its twin. -/
structure Strand.Left (l : List (Ret × RUnit)) (t t' : Strand) : Prop where
  life : t'.life = t.life
  twin : t'.twin = t.twin
  locks : ∀ y' ∈ t'.locks, ∃ y ∈ t.locks, Ret.Left l y y'

theorem Strand.setMapWord_eq (t : Strand) (c w v : Nat) :
    t.setMapWord c w v = { t with p := (t.setMapWord c w v).p, evicted := (t.setMapWord c w v).evicted } := by
  unfold Strand.setMapWord
  dsimp only
  split
  · rfl
  · rw [Strand.fitMaps_eq]

/-- A value of an LDB or PLDM read is taken out of its lock (R156, R176). -/
theorem left_takeLock (t : Strand) (r : Ret) (x : RUnit) (v : Nat) : Strand.Left [(r, x)] t (t.takeLock r x v) := by
  unfold Strand.takeLock
  extract_lets t'
  have ht' : t'.life = t.life ∧ t'.twin = t.twin ∧ t'.locks = t.locks := by
    simp only [t']
    split
    · exact ⟨rfl, rfl, rfl⟩
    · rw [Strand.setMapWord_eq]
      exact ⟨rfl, rfl, rfl⟩
  obtain ⟨hlife, htwin, hlocks⟩ := ht'
  refine ⟨hlife, htwin, fun y' hy' => ?_⟩
  simp only [hlocks, List.mem_filter, List.mem_map, decide_eq_true_eq] at hy'
  obtain ⟨⟨y, hy, rfl⟩, hunits⟩ := hy'
  refine ⟨y, hy, ?_⟩
  by_cases hord : y.ord = r.ord
  · rw [if_pos hord] at hunits ⊢
    refine ⟨rfl, rfl, rfl, fun z hz => ?_, fun h => absurd h hunits⟩
    obtain ⟨hz, hlane⟩ := List.mem_filter.1 hz
    exact ⟨hz, by simpa [hord] using Ne.symm (of_decide_eq_true hlane)⟩
  · rw [if_neg hord] at hunits ⊢
    exact ⟨rfl, rfl, rfl, fun z hz => ⟨hz, by simpa using fun h => absurd h.symm hord⟩, fun h => absurd h hunits⟩

/-- What follows the reading of a value marks locks and changes none. -/
theorem left_loaded {l : List (Ret × RUnit)} {t t' : Strand} (h : Strand.Left l t t') (s : State) (r : Ret) (k : Nat) : Strand.Left l t (t'.loaded s r k) := by
  have hloaded : (t'.loaded s r k).life = t'.life ∧ (t'.loaded s r k).twin = t'.twin ∧ (t'.loaded s r k).locks = (t'.pass r.ord).locks := by
    unfold Strand.loaded
    dsimp only
    split <;> exact ⟨rfl, rfl, rfl⟩
  obtain ⟨hlife, htwin, hlocks⟩ := hloaded
  refine ⟨hlife.trans h.life, htwin.trans h.twin, fun y' hy' => ?_⟩
  rw [hlocks] at hy'
  obtain ⟨y, hy, rfl⟩ := List.mem_map.1 hy'
  obtain ⟨x, hx, hleft⟩ := h.locks y hy
  refine ⟨x, hx, ?_⟩
  split <;> exact ⟨hleft.kind, hleft.dest, hleft.ord, hleft.units, hleft.empty⟩

theorem sameButTraffic_carryLoad (s : State) (t : Strand) (r : Ret) (x : RUnit) : s.SameButTraffic (carryLoad s t r x) := by
  unfold carryLoad
  split
  · exact s.sameButTraffic_refl
  · exact s.sameButTraffic_reach ..

theorem left_readLock (s : State) (u : Nat) (r : Ret) (x : RUnit) :
    (readLock s u r x).cur = s.cur ∧ Strand.Left [(r, x)] (s.strand u) ((readLock s u r x).strand u) := by
  unfold readLock
  extract_lets t
  generalize ofBytes (seen s t r.ord x.key r.size) = v
  have hcarried := sameButTraffic_carryLoad (s.setEvicting u ((t.takeLock r x v).loaded s r x.key)) t r x
  have hcur := hcarried.field State.cur fun _ _ _ _ _ => rfl
  have hstrand := hcarried.field (fun w => w.strand u) fun _ _ _ _ _ => rfl
  refine ⟨hcur.trans (State.carryBacking_cur s _ _), ?_⟩
  rw [hstrand, State.setEvicting, State.strand_setStrand_same]
  exact left_loaded (left_takeLock t r x v) s r x.key

theorem left_readLocks {u : Nat} {l : List (Ret × RUnit)} {s w : State} (h : readLocks u l s = some w) :
    w.cur = s.cur ∧ Strand.Left l (s.strand u) (w.strand u) := by
  induction l generalizing s with
  | nil =>
    cases h
    exact ⟨rfl, rfl, rfl, fun y hy => ⟨y, hy, Ret.Left.refl y⟩⟩
  | cons e l ih =>
    obtain ⟨r, x⟩ := e
    unfold readLocks at h
    split at h
    · obtain ⟨hcur, hfirst⟩ := left_readLock s u r x
      obtain ⟨hcur', hrest⟩ := ih h
      refine ⟨hcur'.trans hcur, hrest.life.trans hfirst.life, hrest.twin.trans hfirst.twin, fun y'' hy'' => ?_⟩
      obtain ⟨y', hy', hleft'⟩ := hrest.locks y'' hy''
      obtain ⟨y, hy, hleft⟩ := hfirst.locks y' hy'
      exact ⟨y, hy, hleft.cons hleft'⟩
    · cases h

theorem waitsFor_congr {t t' : Strand} {y y' : Ret} (ht : t'.twin = t.twin) (hk : y'.kind = y.kind) (hd : y'.dest = y.dest) (i : Instr) :
    t'.waitsFor i y' = t.waitsFor i y := by
  simp only [Strand.waitsFor, ht, hk, hd]

/-- Where an instruction has the values read that it waits for, it waits for none any more; where there are none, nothing changes. -/
theorem unlocked_of_unlock {i : Instr} {s w : State} (h : unlock s i = some w) : w = s ∨ w.cur = s.cur ∧ w.me.life = s.me.life ∧ Unlocked i w := by
  unfold unlock at h
  generalize hl : (s.me.locks.filter (s.me.waitsFor i)).flatMap (fun r => r.units.map (fun x => (r, x))) = l at h
  obtain ⟨hcur, hleft⟩ := left_readLocks h
  by_cases hnil : l = []
  · rw [hnil] at h
    cases h
    exact .inl rfl
  have hme : w.me = w.strand s.cur := by rw [State.me_eq, hcur]
  refine .inr ⟨hcur, by rw [hme, hleft.life, ← State.me_eq], fun y' hy' => Bool.eq_false_iff.2 fun hwaits => ?_⟩
  rw [hme] at hy' hwaits
  obtain ⟨y, hy, hkind, hdest, -, hunits, hempty⟩ := hleft.locks y' hy'
  rw [waitsFor_congr hleft.twin hkind hdest] at hwaits
  obtain ⟨z, hz⟩ := List.exists_mem_of_ne_nil _ fun he => hnil (hempty he).2
  obtain ⟨hzy, hnot⟩ := hunits z hz
  have hmem : (y, z) ∈ l := by
    rw [← hl]
    exact List.mem_flatMap.2 ⟨y, List.mem_filter.2 ⟨hy, hwaits⟩, List.mem_map_of_mem hzy⟩
  exact hnot (y, z) hmem rfl rfl

section
variable {i : Instr} {s : State} (hi : isEvent i = false) (hrun : s.me.life = .running)
include hi hrun

/-- An instruction waits at issue while a value that it waits for cannot be read (R156). -/
theorem exec_of_unlock_none (h : unlock s i = none) : exec i s = .next s := by
  obtain ⟨hd, body, hexec⟩ := exec_eq_issue hi
  rw [hexec, issue, if_neg (not_not_intro hrun), h]

/-- It issues as in the state with the values read that it waits for. -/
theorem exec_of_unlock {w : State} (h : unlock s i = some w) : exec i s = exec i w := by
  obtain ⟨hd, body, hexec⟩ := exec_eq_issue hi
  obtain rfl | ⟨-, hlife, hun⟩ := unlocked_of_unlock h
  · rfl
  · rw [hexec, hexec, issue, issue, if_neg (not_not_intro hrun), if_neg (not_not_intro (hlife.trans hrun)), h, unlock_eq hun]

/-- A park before issue is all that happens (R157). -/
theorem parksAt_of_operandPark {p : Park} (hun : Unlocked i s) (hp : operandPark s s.me i = some p) : Claim.ParksAt i s p := by
  obtain ⟨hd, body, hexec⟩ := exec_eq_issue hi
  have hparks : exec i s = .next (parkMe s p false) := by
    rw [hexec, issue, if_neg (not_not_intro hrun), unlock_eq hun]
    simp only [issueNow, hp]
  obtain ⟨hquiet, hstill⟩ := settles_parkMe s p false
  refine ⟨_, hparks, hquiet, hstill, ?_⟩
  rw [parkMe, State.strand_endRun, State.strand_setMe_same]

end

/-! ## The parks before issue (R157) -/

/-- The queue registers that an instruction reads. -/
theorem mem_queues {o : Oper} {q : Nat} : q ∈ o.queues ↔ ∃ v ∈ o.srcs, v.code.toNat = 120 + q := by
  simp only [Oper.queues, List.mem_dedup, List.mem_map, List.mem_filter, decide_eq_true_eq]
  constructor
  · rintro ⟨v, ⟨hv, hcode⟩, rfl⟩
    exact ⟨v, hv, by omega⟩
  · rintro ⟨v, hv, hcode⟩
    exact ⟨v, ⟨hv, by omega⟩, by omega⟩

theorem noEntry_iff {i : Instr} {t : Strand} {q : Nat} : Claim.NoEntry i t q ↔ q ∈ (operOf i).queues ∧ Tbl.get [] t.q q = [] := by
  rw [Claim.NoEntry, mem_queues]

section
variable {i : Instr} {t : Strand}

theorem operandPark_of_noEntry {q : Nat} (s : State) (h : Claim.NoEntry i t q) : ∃ r, Claim.NoEntry i t r ∧ operandPark s t i = some (.qEmpty r) := by
  obtain ⟨hq, hempty⟩ := noEntry_iff.1 h
  cases hfind : (operOf i).queues.find? (fun q => decide (Tbl.get [] t.q q = [])) with
  | none => exact absurd (decide_eq_true hempty) (List.find?_eq_none.1 hfind q hq)
  | some r =>
    refine ⟨r, noEntry_iff.2 ⟨List.mem_of_find?_eq_some hfind, ?_⟩, by simp only [operandPark, hfind]⟩
    simpa using List.find?_some hfind

/-- Where every queue register read holds an entry, only evicted registers and the gang are left to wait for. -/
theorem operandPark_of_entries (s : State) (h : ∀ q, ¬Claim.NoEntry i t q) :
    operandPark s t i = if t.restores i then some (.restore (operOf i).vregs (keepOf i)) else if mmaParks s t i then some .gang else none := by
  have hfind : (operOf i).queues.find? (fun q => decide (Tbl.get [] t.q q = [])) = none :=
    List.find?_eq_none.2 fun q hq hempty => h q (noEntry_iff.2 ⟨hq, of_decide_eq_true hempty⟩)
  simp only [operandPark, hfind]

theorem lost_eq_nil_iff : t.lost (operOf i) = [] ↔ ∀ r, ¬Claim.Evicted i t r := by
  simp [Strand.lost, Claim.Evicted, List.filter_eq_nil_iff]

theorem restores_of_evicted {r : Nat} (h : Claim.Evicted i t r) (hroom : t.restoreRoom (keepOf i) (t.lost (operOf i)) ≠ .full) : t.restores i = true := by
  have hlost : t.lost (operOf i) ≠ [] := fun hnil => lost_eq_nil_iff.1 hnil r h
  simp [Strand.restores, hlost, hroom]

theorem restores_of_none_evicted (h : ∀ r, ¬Claim.Evicted i t r) : t.restores i = false := by
  simp [Strand.restores, lost_eq_nil_iff.2 h]

end

/-- A strand whose arrival at the latch is made parks there (R212). -/
theorem gangAct_of_arrivalMade {s : State} {d : BDesc} (h : Claim.ArrivalMade s d) : gangAct s s.me d = .park := by
  obtain ⟨hg, hopen, hgm, hbd, harr⟩ := h
  unfold gangAct
  dsimp only
  rw [if_neg hg]
  simp [hopen, hgm, hbd, harr]

/-- Only an MMA of a gang parks at a latch. -/
theorem mmaParks_eq_false {i : Instr} (s : State) (t : Strand) (h : ∀ k ty maj o sc sp x y z m kb sk spl sm rs, i ≠ .mma k ty maj true o sc sp x y z m kb sk spl sm rs) :
    mmaParks s t i = false := by
  unfold mmaParks
  split
  · exact absurd rfl (h _ _ _ _ _ _ _ _ _ _ _ _ _ _ _)
  · rfl

/-- Settles O12: what waits for an LDB or PLDM issues as with its values read, and `operandPark` finds the parks before issue in their order. -/
theorem parksBeforeIssue : Obligations.ParksBeforeIssue := by
  refine ⟨fun i s hi hrun => ⟨exec_of_unlock_none hi hrun, fun w => exec_of_unlock hi hrun⟩, fun i s p hi hrun hun hp => parksAt_of_operandPark hi hrun hun hp,
    fun i s q hi hrun hun hq => ?_, fun i s r hi hrun hun hentries hr hroom => ?_, ?_, fun i s hentries hevicted hmma => ?_⟩
  · obtain ⟨r, hr, hp⟩ := operandPark_of_noEntry s hq
    exact ⟨r, hr, parksAt_of_operandPark hi hrun hun hp⟩
  · refine parksAt_of_operandPark hi hrun hun ?_
    rw [operandPark_of_entries s hentries, if_pos (restores_of_evicted hr hroom)]
    rfl
  · intro k ty maj o sc sp x y z m kb sk spl sm rs s b rows d i hrun hun hentries hevicted huse hmade
    refine parksAt_of_operandPark rfl hrun hun ?_
    have hparks : mmaParks s s.me i = true := by
      simp only [mmaParks, i, huse, gangAct_of_arrivalMade hmade, decide_true]
    rw [operandPark_of_entries s hentries, restores_of_none_evicted hevicted, hparks]
    rfl
  · rw [operandPark_of_entries s hentries, restores_of_none_evicted hevicted, mmaParks_eq_false s s.me hmma]
    rfl

end Sys2Proof.Machine
end

section
namespace Sys2Proof.Machine

/-! # What an issue does from any state that its effect has made -/

section
variable {s w : State} {h : Head} {k : Nat}

/-- A charge and a strand set leave everything but that strand and the schedule. -/
theorem quiet_charge_setMe (v : State) (n : Nat) (r : Strand) : Quiet v.cur v.me.core v ((charge v n).setMe r) :=
  (quiet_charge v n).1.trans (quiet_setStrand _ _ _ _)

@[simp] theorem Strand.issued_core (t : Strand) (h : Head) : (t.issued h).core = t.core := rfl
@[simp] theorem Strand.advance_core (t : Strand) (n : Nat) : (t.advance n).core = t.core := by unfold Strand.advance; split <;> rfl
@[simp] theorem charge_cur (v : State) (n : Nat) : (charge v n).cur = v.cur := rfl
@[simp] theorem charge_me (v : State) (n : Nat) : (charge v n).me = v.me := rfl

/-- What counts of an issue does not depend on its marks, its opcode and its words. -/
theorem Strand.issued_eq_counted (t : Strand) (h : Head) : t.issued h = t.counted h.cls := rfl

/-- What settles after a charge and the count of the issue has gone on from the state before (R343). -/
theorem goes_of_settles {t : State} {n : Nat} (hcur : w.cur = s.cur) (hcore : w.me.core = s.me.core)
    (ht : Settles w.cur w.me.core ((charge (w.spilled s w.me) n).setMe ((w.me.issued h).advance h.n)) t) : Goes h.cls h.n s w t := by
  have hme : w.strand s.cur = w.me := by rw [← hcur]; rfl
  have hq := quiet_charge_setMe (w.spilled s w.me) n ((w.me.issued h).advance h.n)
  rw [State.spilled_me, State.spilled_cur] at hq
  rw [Goes, hme, ← hcur, ← hcore]
  refine ⟨hq.trans ht.1, ht.2.trans (congrArg Strand.still ?_)⟩
  have hs := State.strand_setMe_same (charge (w.spilled s w.me) n) ((w.me.issued h).advance h.n)
  rwa [charge_cur, State.spilled_cur] at hs

/-- What is spent is the passage of evicted registers and the charge (R343, R364). -/
theorem spend_eq (n : Nat) : spend s w n = charge (w.spilled s w.me) n := rfl

/-- The strand of a spent charge is that of the answer. -/
theorem spend_me (n : Nat) : (spend s w n).me = w.me := by
  rw [spend_eq, charge_me, State.spilled_me]

/-- An instruction that answers that it is done has gone on from its answer's state. -/
theorem goes_of_done (hcur : w.cur = s.cur) (hcore : w.me.core = s.me.core) : Goes h.cls h.n s w (finish s h (.done w k)) := by
  rw [finish, spend_me, spend_eq]
  refine goes_of_settles (n := weight s h.op * k) hcur hcore ?_
  have hs := settles_afterIssue ((charge (w.spilled s w.me) (weight s h.op * k)).setMe ((w.me.issued h).advance h.n)) h
  simpa only [State.setMe_cur, charge_cur, State.spilled_cur, State.me_setMe, Strand.advance_core, Strand.issued_core] using hs

/-- One that parks after its issue has gone on from its answer's state and waits. -/
theorem parks_of_after {p : Park} (hcur : w.cur = s.cur) (hcore : w.me.core = s.me.core) :
    Parks h.cls h.n p s w (finish s h (.after w p k)) := by
  rw [finish, spend_me, spend_eq]
  have hs := settles_parkMe ((charge (w.spilled s w.me) (weight s h.op * k)).setMe ((w.me.issued h).advance h.n)) p h.k.s
  refine ⟨goes_of_settles (n := weight s h.op * k) hcur hcore ?_, ?_⟩
  · simpa only [State.setMe_cur, charge_cur, State.spilled_cur, State.me_setMe, Strand.advance_core, Strand.issued_core] using hs
  · have hlife (v : State) (m : Bool) (u : Nat) (hu : v.cur = u) : ((parkMe v p m).strand u).life = .parked p :=
      hu ▸ congrArg Strand.life (State.strand_setMe_same v { v.me with life := .parked p, sMark := m })
    exact hlife _ _ _ (by rw [State.setMe_cur, ← hcur]; exact (charge_cur _ _).trans (State.spilled_cur _ _ _))

end

end Sys2Proof.Machine
end

section
namespace Sys2Proof.Machine

/-! # Near accesses (O16, O17, O18, O19) -/

/-! ## The checks of R168 -/

/-- Where every access lies in its space and is aligned, the checks of R168 find nothing. -/
theorem nearCheck_eq_none {size n unit : Nat} {l : List (Nat × Int)}
    (h : ∀ a ∈ l, 0 ≤ a.2 ∧ a.2 + n ≤ size ∧ a.2 % (unit : Int) = 0) : nearCheck size n unit l = none := by
  have hbounds : l.find? (fun e => decide (e.2 < 0) || decide ((size : Int) < e.2 + (n : Int))) = none :=
    List.find?_eq_none.2 fun a ha => by have := h a ha; simp; omega
  have haligned : l.find? (fun e => decide (e.2 % (unit : Int) ≠ 0)) = none :=
    List.find?_eq_none.2 fun a ha => by simp [(h a ha).2.2]
  simp only [nearCheck, hbounds, haligned]

/-- The first access outside its space is what the checks name. -/
theorem nearCheck_of_outside {size n unit : Nat} {l : List (Nat × Int)} {a : Nat × Int}
    (h : l.find? (fun e => decide (e.2 < 0 ∨ (size : Int) < e.2 + n)) = some a) : nearCheck size n unit l = some (.nearBounds, a.1) := by
  simp only [Bool.decide_or] at h
  simp only [nearCheck, h]

/-- Where all lie inside, the first that is not aligned is what they name. -/
theorem nearCheck_of_misaligned {size n unit : Nat} {l : List (Nat × Int)} {a : Nat × Int}
    (hin : l.find? (fun e => decide (e.2 < 0 ∨ (size : Int) < e.2 + n)) = none)
    (h : l.find? (fun e => decide (e.2 % (unit : Int) ≠ 0)) = some a) : nearCheck size n unit l = some (.misaligned, a.1) := by
  simp only [Bool.decide_or] at hin
  simp only [nearCheck, hin, h]

/-- Of one access at lane 0 the checks name lane 0. -/
theorem lane_of_nearCheck_single {size n unit d : Nat} {a : Int} {c : Code} (h : nearCheck size n unit [(0, a)] = some (c, d)) : d = 0 := by
  simp only [nearCheck, List.find?_singleton] at h
  split at h
  next e he =>
    split at he <;> cases he
    cases h; rfl
  next =>
    split at h
    next e he =>
      split at he <;> cases he
      cases h; rfl
    next => cases h

/-- An address without a lane's offset. -/
theorem nearAddr_scalar (t : Strand) (y : SCode) (imm : Int) : nearAddr t y 0 imm = (t.s y).toNat + imm := by
  simp [nearAddr]

/-- The lanes of an operating map with the addresses of R167. -/
theorem laneAddrs_eq (i : Instr) (t : Strand) (y : SCode) (z : VCode) (imm : W32) :
    laneAddrs t y (t.vec z.toNat) (t.operMap (operOf i)) imm = (Claim.lanesOf i t).map (fun l => (l, Claim.laneAddr t y z imm l)) := rfl

@[simp] theorem toBytes_length (n v : Nat) : (toBytes n v).length = n := by simp [toBytes]

/-- The checks of a vector instruction that its map discipline lets pass are those of R168 (R72). -/
theorem vecChecks_eq {s : State} {o : Oper} (h : s.me.disc = 2 → s.me.dropCount o = 0) (sp : Space) (n unit : Nat) (l : List (Nat × Int)) :
    vecChecks s o sp n unit l = nearCheck (nearSize s s.me sp false) n unit l :=
  if_neg fun hd => hd.2 (h hd.1)

/-- What the checks of R168 say of an instruction's accesses. -/
def nearFault (s : State) (sp : Space) (len : Strand → Nat) (unit : Nat) (f : Strand → List (Nat × Int)) : Option (Code × Nat) :=
  nearCheck (nearSize s s.me sp false) (len s.me) unit (f s.me)

section
variable {i : Instr} {s : State} {n unit : Nat} {sp : Space} {len : Strand → Nat} {f : Strand → List (Nat × Int)}

/-- Accesses that are all right pass the checks. -/
theorem nearFault_of_nearOk (h : Claim.nearUse i = some (n, sp, len, unit, f)) (hok : Claim.NearOk i s) : nearFault s sp len unit f = none :=
  nearCheck_eq_none (hok n sp len unit f h)

/-- An instruction of the table writes no map, and answers with the fault that the checks of R168 find (R168, R173 to R178). -/
theorem nearUse_traps (h : Claim.nearUse i = some (n, sp, len, unit, f)) : writesMap i = false ∧
    ∃ (hd : Head) (body : State → Res), (∀ s, exec i s = issue i hd s body) ∧
      ∀ s, (s.me.disc = 2 → s.me.dropCount (operOf i) = 0) → ∀ c d, nearFault s sp len unit f = some (c, d) → body s = .trap c d := by
  unfold Claim.nearUse at h
  split at h
  case h_11 => cases h
  all_goals
    cases h
    refine ⟨rfl, _, _, fun _ => rfl, fun s hdisc c d hfault => ?_⟩
  case h_1 | h_2 | h_3 =>
    simp only [vecChecks_eq hdisc, laneAddrs_eq]
    simp only [nearFault] at hfault
    rw [hfault]
  all_goals
    obtain rfl := lane_of_nearCheck_single hfault
    simp only [storeAt, toBytes_length, nearAddr_scalar, Nat.cast_mul, Nat.cast_ofNat, mapImage]
    simp only [nearFault] at hfault
    rw [hfault]

end

/-! ## Stores -/

/-- A counter that takes nothing stays. -/
theorem satAdd_zero (w : W32) : satAdd w 0 = w := by
  have hlt := w.isLt
  rw [satAdd, Nat.add_zero, show Nat.min w.toNat (2 ^ 32 - 1) = w.toNat from Nat.min_eq_left (by omega), BitVec.ofNat_toNat, BitVec.setWidth_eq]

/-- No lane is dropped without vector operand (R72). -/
theorem dropCount_no (t : Strand) : t.dropCount .no = 0 := by
  simp [Strand.dropCount, Oper.no, Strand.srcMaps, popcount]

/-- An instruction without vector operand drops no lane and pops no queue register. -/
theorem popped_of_no {i : Instr} (h : operOf i = .no) (t : Strand) : Claim.popped i t = t := by
  have hdrop : t.countDrop .no = t := by
    unfold Strand.countDrop
    rw [dropCount_no, satAdd_zero]
    split <;> rfl
  rw [Claim.popped, h, hdrop]
  rfl

/-- Units made of accesses in order, without their place. -/
theorem map_zipIdx_fst {α β : Type} (l : List α) (g : α → β) : l.zipIdx.map (fun e => g e.1) = l.map g := by
  conv_rhs => rw [← List.zipIdx_map_fst 0 l, List.map_map]
  rfl

section
variable {i : Instr} {n : Nat} {o : Ordn} {sc : Scope} {sp : Space} {f : Strand → List (Nat × Int × List Byte)}

/-- The entry that an instruction makes has what every entry has. -/
theorem entered_storeEntry (s : State) (i : Instr) (o : Ordn) (sc : Scope) (ik : Nat) (a : W80) (x : W32) {units : List SUnit} {l : List (Nat × Nat × UnitOp)}
    (h : units.map (fun x => (x.unit, x.key, x.op)) = l) : Claim.Entered s (storeEntry s i o sc ik a x units) .units o sc l :=
  ⟨rfl, rfl, rfl, rfl, rfl, rfl, rfl, rfl, h⟩

/-- A word of a map as its image holds it (R176). -/
theorem map_word (m : LaneMap) (w : Nat) : m.toNat / 2 ^ (64 * w) % 2 ^ 64 = ((m >>> (64 * w)).setWidth 64).toNat := by
  rw [BitVec.toNat_setWidth, BitVec.toNat_ushiftRight, Nat.shiftRight_eq_div_pow]

/-- The address of a word of a map image. -/
theorem toNat_word (a n w : Nat) : ((a : Int) + 8 * n + 8 * w).toNat = ((a : Int) + 8 * n).toNat + 8 * w := by omega

/-- A plain store whose accesses are all right enters its entry: the writes of its rule (R174 to R176). -/
theorem storing_enters (h : Claim.storing i = some (n, o, sc, sp, f)) : writesMap i = false ∧
    ∃ (hd : Head) (body : State → Res), hd.cls = .plain ∧ hd.n = n ∧ (∀ s, exec i s = issue i hd s body) ∧
      ∀ s, (s.me.disc = 2 → s.me.dropCount (operOf i) = 0) → Claim.NearOk i s → ∃ e k, body s = enter s (Claim.popped i s.me) e k ∧
        Claim.Entered s e .units o sc ((f s.me).map (fun x => (x.1, Claim.keyAt s sp x.2.1, .write x.2.2))) := by
  unfold Claim.storing at h
  split at h
  case h_5 => cases h
  all_goals
    cases h
    refine ⟨rfl, _, _, rfl, rfl, fun _ => rfl, fun s hdisc hok => ?_⟩
    have hnone := nearFault_of_nearOk rfl hok
    simp only [nearFault] at hnone
  case h_1 k ty x y z m imm =>
    simp only [vecChecks_eq hdisc, laneAddrs_eq, hnone]
    refine ⟨_, _, rfl, entered_storeEntry _ _ _ _ _ _ _ ?_⟩
    rw [List.map_map, List.map_map]
    exact (map_zipIdx_fst _ fun e : Nat × Int =>
      (e.1, Claim.keyAt s sp e.2, UnitOp.write (toBytes ty.bytes ((s.me.readV ⟨x, ty.wide⟩).at e.1).toNat))).trans (List.map_map ..)
  all_goals
    simp only [storeAt, toBytes_length, nearAddr_scalar, Nat.cast_mul, Nat.cast_ofNat, mapImage, hnone]
    rw [popped_of_no rfl]
  case h_4 k x y n =>
    refine ⟨_, _, rfl, entered_storeEntry _ _ _ _ _ _ _ ?_⟩
    have hpos := (hok _ _ _ _ _ rfl _ (List.mem_singleton.2 rfl)).1
    rw [List.map_map, List.map_map, Nat.mul_div_cancel_left _ (by decide)]
    refine List.map_congr_left fun w _ => ?_
    simp only [Function.comp_apply, map_word, Claim.keyAt]
    rw [toNat_word]
  all_goals exact ⟨_, _, rfl, entered_storeEntry _ _ _ _ _ _ _ rfl⟩

end

/-! ## Entries of the store queue -/

section
variable {s : State} {b : Strand} {e : SEntry} {k : Nat} {h : Head}

@[simp] theorem useTag_cur (s : State) (t : Strand) : (useTag s t).cur = s.cur := rfl
@[simp] theorem useTag_me (s : State) (t : Strand) : (useTag s t).me = s.me := rfl
@[simp] theorem useTag_strand (s : State) (t : Strand) (u : Nat) : (useTag s t).strand u = s.strand u := rfl
@[simp] theorem Strand.enqueue_core (t : Strand) (e : SEntry) : (t.enqueue e).core = t.core := rfl

/-- An entry for which there is room is taken. -/
theorem enter_open (h : Claim.QueueOpen s) (b : Strand) (e : SEntry) (k : Nat) : enter s b e k = .done (useTag (s.setMe (b.enqueue e)) b) k :=
  if_neg (by simpa [Strand.queueFull, Claim.QueueOpen] using h)

/-- Without room the strand waits at issue (R183). -/
theorem enter_full (h : ¬Claim.QueueOpen s) (b : Strand) (e : SEntry) (k : Nat) : enter s b e k = .stall :=
  if_pos (by simpa [Claim.QueueOpen, Strand.queueFull] using h)

/-- An instruction whose entry is taken has gone on with it. -/
theorem goes_of_enter (hopen : Claim.QueueOpen s) (hcore : b.core = s.me.core) :
    Goes h.cls h.n s (useTag (s.setMe (b.enqueue e)) b) (finish s h (enter s b e k)) := by
  rw [enter_open hopen]
  exact goes_of_done (by simp) (by simpa using hcore)

/-- One whose entry is not waits at issue. -/
theorem finish_enter_full (hfull : ¬Claim.QueueOpen s) (b : Strand) : finish s h (enter s b e k) = s := by
  rw [enter_full hfull]
  rfl

/-- Class C clears IDEM (R339). -/
theorem idem_of_goes {n : Nat} {w t : State} (h : Goes .classC n s w t) : (t.strand s.cur).idem = 0 := by
  have hstill := congrArg Strand.idem h.2
  have hadv (r : Strand) (n : Nat) : (r.advance n).idem = r.idem := by unfold Strand.advance; split <;> rfl
  exact hstill.trans (hadv _ _)

end

@[simp] theorem popped_core (i : Instr) (t : Strand) : (Claim.popped i t).core = t.core := by simp [Claim.popped]

/-- Settles O18: a store whose accesses are all right answers with its entry, which an open queue takes. -/
theorem storesEnterQueue : Obligations.StoresEnterQueue := by
  intro i n o sc sp f hi s hissues hopen hdisc hok
  obtain ⟨hmap, hd, body, hcls, rfl, hexec, hbody⟩ := storing_enters hi
  obtain ⟨e, k, henter, hentered⟩ := hbody s hdisc hok
  refine ⟨_, e, (hexec s).trans (issue_eq hissues hmap _ _), ?_, hentered⟩
  rw [henter, ← hcls]
  exact goes_of_enter hopen (popped_core i s.me)

/-! ## Returns that a strand awaits -/

/-- A returning instruction as strand `a` issues it, none of its values performed (R173, R323). -/
structure Fresh (a : Strand) (r : Ret) (kind : RKind) (ty : Ty) (dest : Nat) (dests : List SCode) (acq : Bool) (units : List (Nat × Nat)) : Prop where
  own : r.ord = a.ord ∧ r.kind = kind ∧ r.ty = ty ∧ r.dest = dest ∧ r.dests = dests ∧ r.wide = (decide (kind = .ld) && ty.wide) ∧ r.acq = acq ∧
    r.pc = a.pc.bits
  units : r.units.map (fun x => (x.lane, x.key)) = units
  none : ∀ x ∈ r.units, x.val = .none

/-- A strand that awaits a returning instruction, if it has lanes. -/
def Strand.await (t : Strand) (lanes : List Nat) (r : Ret) : Strand := { t with rets := if lanes = [] then t.rets else t.rets ++ [r] }

@[simp] theorem Strand.await_core (t : Strand) (lanes : List Nat) (r : Ret) : (t.await lanes r).core = t.core := rfl

/-- A strand that has its returns of before and the fresh one awaits it. -/
theorem awaits_of_fresh {a b : Strand} {r : Ret} {kind : RKind} {ty : Ty} {dest : Nat} {dests : List SCode} {acq : Bool} {units : List (Nat × Nat)}
    (hrets : b.rets = if units = [] then a.rets else a.rets ++ [r]) (hr : Fresh a r kind ty dest dests acq units) :
    Claim.Awaits a b kind ty dest dests acq units := by
  obtain ⟨⟨hord, hkind, hty, hdest, hdests, hwide, hacq, hpc⟩, hunits, hnone⟩ := hr
  refine ⟨?_⟩
  split at hrets
  next hnil => rwa [if_pos hnil]
  next hne => exact (if_neg hne).symm ▸ ⟨r, hrets, hord, hkind, hty, hdest, hdests, hwide, hacq, hpc, hunits, hnone⟩

section
variable {a w : Strand} {o : Oper} {x : VCode} {wide : Bool} {m : LaneMap} {f : Nat → W64}

@[simp] theorem Strand.putV_rets (t : Strand) (x : VCode) (wide : Bool) (m : LaneMap) (f : Nat → W64) : (t.putV x wide m f).rets = t.rets := by
  cases wide <;> rfl
@[simp] theorem Strand.popQ_rets (t : Strand) (o : Oper) : (t.popQ o).rets = t.rets := rfl
@[simp] theorem Strand.countDrop_rets (t : Strand) (o : Oper) : (t.countDrop o).rets = t.rets := by unfold Strand.countDrop; split <;> rfl

/-- The strand with its lanes dropped, its queue registers popped and its destination put. -/
def Strand.gain (t : Strand) (o : Oper) (x : VCode) (wide : Bool) (m : LaneMap) (f : Nat → W64) : Strand := ((t.countDrop o).popQ o).putV x wide m f

theorem gain_core (hroom : a.roomFor o x wide m = .ok w) : (w.gain o x wide m f).core = a.core := by
  rw [Strand.gain, Strand.putV_core, Strand.popQ_core, Strand.countDrop_core, Strand.roomFor_eq hroom]

theorem gain_rets (hroom : a.roomFor o x wide m = .ok w) : (w.gain o x wide m f).rets = a.rets := by
  rw [Strand.gain, Strand.putV_rets, Strand.popQ_rets, Strand.countDrop_rets, Strand.roomFor_eq hroom]

/-- A destination for which room was made is placed (R70). -/
theorem placed_gain (hroom : a.roomFor o x wide m = .ok w) (hx : Wf.vdst wide x = true) : Claim.Placed a (w.gain o x wide m f) x wide m f := by
  have hw := Strand.roomFor_eq hroom
  refine placed_putV ?_ ?_ (lt_of_vdst hx) m f
  · rw [Strand.popQ_v, Strand.countDrop_v, hw]
  · rw [Strand.popQ_ext, Strand.countDrop_ext, hw]

/-- And nothing else but the pops and the dropped lanes shows. -/
theorem withVectors_gain (hroom : a.roomFor o x wide m = .ok w) :
    Claim.withVectors (w.gain o x wide m f) a = (a.countDrop o).popQ o := by
  rw [Strand.gain, withVectors_putV, Strand.roomFor_eq hroom]
  exact withVectors_countDrop a o w.evicted

/-- A strand that has gained a destination and awaits its values: the destination is placed, its values are to come, and else only the pops and the
dropped lanes show (R70, R72, R74). -/
theorem gain_await {r : Ret} {kind : RKind} {ty : Ty} {lanes : List Nat} {acq : Bool} {g : Nat → Nat} (hroom : a.roomFor o x wide m = .ok w)
    (hx : Wf.vdst wide x = true) (hr : Fresh a r kind ty x.toNat [] acq (lanes.map fun l => (l, g l))) :
    Claim.Placed a ((w.gain o x wide m f).await lanes r) x wide m f ∧
      Claim.Awaits a ((w.gain o x wide m f).await lanes r) kind ty x.toNat [] acq (lanes.map fun l => (l, g l)) ∧
      Claim.withVectors { (w.gain o x wide m f).await lanes r with rets := a.rets } a = (a.countDrop o).popQ o := by
  refine ⟨placed_gain hroom hx, awaits_of_fresh ?_ hr, ?_⟩
  · rw [Strand.await, gain_rets hroom]
    simp only [List.map_eq_nil_iff]
  · rw [← withVectors_gain hroom, ← gain_rets hroom]
    rfl

end

/-! ## Atomics -/

theorem extractLsb'_low (w : W64) : w.extractLsb' 0 32 = w.setWidth 32 := (BitVec.setWidth_eq_extractLsb' (by decide)).symm

theorem extractLsb'_high (w : W64) : w.extractLsb' 32 32 = (w >>> 32).setWidth 32 := by
  ext j hj
  simp

section
variable {k : Marks} {op : AtomOp} {ty : Ty} {o : Ordn} {sc : Scope} {sp : Space} {res : Bool} {x z vs : VCode} {y : SCode} {m : MCode} {imm : W32}
variable {s : State}

/-- The lanes of an instruction with the memory keys of their accesses. -/
def laneKeys (s : State) (sp : Space) (y : SCode) (z : VCode) (imm : W32) (lanes : List Nat) : List (Nat × Nat) :=
  lanes.map fun l => (l, Claim.keyAt s sp (Claim.laneAddr s.me y z imm l))

/-- The step of an ATOM on a lane: d and e of R177. -/
def laneStep (t : Strand) (op : AtomOp) (ty : Ty) (res : Bool) (vs : VCode) (l : Nat) : UnitOp :=
  .atom ⟨op, ty, ((t.readV ⟨vs, decide (op = .cas)⟩).at l).setWidth 32, ((t.readV ⟨vs, decide (op = .cas)⟩).at l >>> 32).setWidth 32, res⟩

/-- What an instruction with a vector destination does once its accesses are found right: it waits for room and for a return, or gains its destination
and awaits `r`, and goes on by `go` (R78, R323). -/
def gainOr (s : State) (i : Instr) (x : VCode) (wide : Bool) (r : Ret) (go : Strand → Res) : Res :=
  match s.me.roomFor (operOf i) x wide (s.me.operMap (operOf i)) with
  | .wait => .stall
  | .full => .trap .pegExhausted 0
  | .ok w => if s.me.returnsFull then .stall
    else go ((w.gain (operOf i) x wide (s.me.operMap (operOf i)) (fun _ => 0)).await (Claim.lanesOf i s.me) r)

/-- An ATOM whose accesses are all right has its entry ready; without a result it enters it, and with one it takes its destination first (R178). -/
theorem exec_atom (hi : Issues (.atom k op ty o sc sp res x y z vs m imm) s)
    (hdisc : s.me.disc = 2 → s.me.dropCount (operOf (.atom k op ty o sc sp res x y z vs m imm)) = 0)
    (hok : Claim.NearOk (.atom k op ty o sc sp res x y z vs m imm) s) :
    let i := Instr.atom k op ty o sc sp res x y z vs m imm
    let lanes := Claim.lanesOf i s.me
    ∃ e r n, Claim.Entered s e .units o sc
        (lanes.map fun l => (l, Claim.keyAt s sp (Claim.laneAddr s.me y z imm l), laneStep s.me op ty res vs l)) ∧
      Fresh s.me r .atom ty x.toNat [] false (laneKeys s sp y z imm lanes) ∧
      exec i s = .next (finish s ⟨k, 0x64, 3, .classC⟩
        (if res then gainOr s i x false r (enter s · e n) else enter s (Claim.popped i s.me) e n)) := by
  have hnone := nearFault_of_nearOk rfl hok
  simp only [nearFault] at hnone
  have hexec := (rfl : exec (.atom k op ty o sc sp res x y z vs m imm) s = _).trans (issue_eq hi rfl _ _)
  simp only [vecChecks_eq hdisc, laneAddrs_eq, hnone, List.map_eq_nil_iff, extractLsb'_low, extractLsb'_high] at hexec
  refine ⟨_, _, _, entered_storeEntry _ _ _ _ _ _ _ ?_, ⟨⟨rfl, rfl, rfl, rfl, rfl, rfl, rfl, rfl⟩, ?_, ?_⟩, hexec⟩
  · rw [List.map_map]
    exact (map_zipIdx_fst _ fun e : Nat × Int => (e.1, Claim.keyAt s sp e.2, laneStep s.me op ty res vs e.1)).trans (List.map_map ..)
  · rw [List.map_map, List.map_map]
    rfl
  · simp

/-- An ATOMS whose access is all right takes its destination and enters its step, once a return is free (R178). -/
theorem exec_atoms {x y z e : SCode} (hi : Issues (.atoms k op ty o sc sp x y z e imm) s) (hok : Claim.NearOk (.atoms k op ty o sc sp x y z e imm) s) :
    let key := Claim.keyAt s sp ((s.me.s y).toNat + imm.toInt)
    ∃ entry r, Claim.Entered s entry .units o sc [(0, key, .atom ⟨op, ty, (s.me.s z).setWidth 32, (s.me.s e).setWidth 32, true⟩)] ∧
      Fresh s.me r .atoms ty 0 [x] false [(0, key)] ∧
      exec (.atoms k op ty o sc sp x y z e imm) s = .next (finish s ⟨k, 0x65, 3, .classC⟩
        (if s.me.returnsFull then .stall else enter s { s.me.setS x 0 with rets := s.me.rets ++ [r] } entry 1)) := by
  have hnone := nearFault_of_nearOk rfl hok
  simp only [nearFault] at hnone
  have hexec := (rfl : exec (.atoms k op ty o sc sp x y z e imm) s = _).trans (issue_eq hi rfl _ _)
  simp only [nearAddr_scalar, hnone, extractLsb'_low, Strand.setS_rets] at hexec
  exact ⟨_, _, entered_storeEntry _ _ _ _ _ _ _ rfl, ⟨⟨rfl, rfl, rfl, rfl, rfl, rfl, rfl, rfl⟩, rfl, by simp⟩, hexec⟩

/-! ## Loads -/

/-- An LD whose accesses are all right takes its destination and awaits its values, once a return is free (R173). -/
theorem exec_ld (hi : Issues (.ld k ty o sc sp x y z m imm) s)
    (hdisc : s.me.disc = 2 → s.me.dropCount (operOf (.ld k ty o sc sp x y z m imm)) = 0) (hok : Claim.NearOk (.ld k ty o sc sp x y z m imm) s) :
    let i := Instr.ld k ty o sc sp x y z m imm
    ∃ r n, Fresh s.me r .ld ty x.toNat [] (decide (o = .acq)) (laneKeys s sp y z imm (Claim.lanesOf i s.me)) ∧
      exec i s = .next (finish s ⟨k, 0x60, 3, .plain⟩ (gainOr s i x ty.wide r (fun b => .done (s.setMe b) n))) := by
  have hnone := nearFault_of_nearOk rfl hok
  simp only [nearFault] at hnone
  have hexec := (rfl : exec (.ld k ty o sc sp x y z m imm) s = _).trans (issue_eq hi rfl _ _)
  simp only [vecChecks_eq hdisc, laneAddrs_eq, hnone, List.map_eq_nil_iff] at hexec
  refine ⟨_, _, ⟨⟨rfl, rfl, rfl, rfl, rfl, rfl, rfl, rfl⟩, ?_, ?_⟩, hexec⟩
  · rw [List.map_map]
    exact (map_zipIdx_fst _ fun e : Nat × Int => (e.1, Claim.keyAt s sp e.2)).trans (List.map_map ..)
  · exact List.forall_mem_map.2 fun _ _ => rfl

/-- An LDS whose access is all right takes its destination and awaits its value, once a return is free (R173). -/
theorem exec_lds {x y : SCode} (hi : Issues (.lds k ty o sc sp x y imm) s) (hok : Claim.NearOk (.lds k ty o sc sp x y imm) s) :
    ∃ r, Fresh s.me r .lds ty 0 [x] (decide (o = .acq)) [(0, Claim.keyAt s sp ((s.me.s y).toNat + imm.toInt))] ∧
      exec (.lds k ty o sc sp x y imm) s = .next (finish s ⟨k, 0x62, 3, .plain⟩
        (if s.me.returnsFull then .stall else .done (s.setMe { s.me.setS x 0 with rets := s.me.rets ++ [r] }) 1)) := by
  have hnone := nearFault_of_nearOk rfl hok
  simp only [nearFault] at hnone
  have hexec := (rfl : exec (.lds k ty o sc sp x y imm) s = _).trans (issue_eq hi rfl _ _)
  simp only [nearAddr_scalar, hnone, Strand.setS_rets] at hexec
  exact ⟨_, ⟨⟨rfl, rfl, rfl, rfl, rfl, rfl, rfl, rfl⟩, rfl, by simp⟩, hexec⟩

/-- What a strand has gained with LDB or PLDM (R175, R176). -/
theorem locks_lock (t : Strand) (i : Instr) (kind : RKind) (dest : Nat) (addr : W80) (keys : List Nat) (cls : Nat) :
    Claim.Locks t (t.lock i kind dest addr keys cls) kind dest keys := by
  refine ⟨_, rfl, rfl, rfl, rfl, rfl, ?_, List.forall_mem_map.2 fun _ _ => rfl⟩
  rw [List.map_map, List.range_eq_range', ← List.zip_swap, ← List.zipIdx_eq_zip_range']
  rfl

/-- An LDB whose access is all right is kept until its value is read (R175). -/
theorem exec_ldb {x : BCode} {n : BitVec 10} (hi : Issues (.ldb k sp x y n) s) (hok : Claim.NearOk (.ldb k sp x y n) s) :
    ∃ b, Claim.Locks s.me b .ldb x.toNat [Claim.keyAt s sp ((s.me.s y).toNat + 16 * n.toNat)] ∧ b.core = s.me.core ∧
      exec (.ldb k sp x y n) s = .next (finish s ⟨k, 0x68, 2, .plain⟩ (.done (s.setMe b) 1)) := by
  have hnone := nearFault_of_nearOk rfl hok
  simp only [nearFault] at hnone
  have hexec := (rfl : exec (.ldb k sp x y n) s = _).trans (issue_eq hi rfl _ _)
  simp only [nearAddr_scalar, Nat.cast_mul, Nat.cast_ofNat, hnone] at hexec
  exact ⟨_, locks_lock _ _ _ _ _ _ _, rfl, hexec⟩

/-- So is a PLDM, until the words of its map are read (R176). -/
theorem exec_pldm {x : MCode} {n : BitVec 10} (hi : Issues (.pldm k sp x y n) s) (hok : Claim.NearOk (.pldm k sp x y n) s) :
    ∃ b, Claim.Locks s.me b .pldm x.toNat
        ((List.range ((s.me.ext + 63) / 64)).map fun w : Nat => Claim.keyAt s sp ((s.me.s y).toNat + 8 * n.toNat + 8 * w)) ∧ b.core = s.me.core ∧
      exec (.pldm k sp x y n) s = .next (finish s ⟨k, 0x69, 2, .plain⟩ (.done (s.setMe b) 1)) := by
  have hnone := nearFault_of_nearOk rfl hok
  simp only [nearFault] at hnone
  have hexec := (rfl : exec (.pldm k sp x y n) s = _).trans (issue_eq hi rfl _ _)
  simp only [nearAddr_scalar, Nat.cast_mul, Nat.cast_ofNat, mapImage, hnone, Nat.mul_div_cancel_left _ (show 0 < 8 by decide), ← toNat_word] at hexec
  exact ⟨_, locks_lock _ _ _ _ _ _ _, rfl, hexec⟩

end

/-! ## The statements -/

section
variable {s : State} {h : Head} {i : Instr} {x : VCode} {wide : Bool} {r : Ret} {go : Strand → Res}

/-- Fewer than 32 returns are outstanding. -/
theorem returnsFull_false {t : Strand} (h : t.rets.length < 32) : t.returnsFull = false := by
  simpa [Strand.returnsFull] using h

theorem returnsFull_true {t : Strand} (h : 32 ≤ t.rets.length) : t.returnsFull = true := by
  simpa [Strand.returnsFull] using h

/-- An answer that waits leaves the state. -/
theorem finish_stall : finish s h .stall = s := rfl

/-- With room for its destination an instruction gains it where a return is free, and else waits. -/
theorem gainOr_of_fits (hfits : Claim.Fits i x wide s) : ∃ w, s.me.roomFor (operOf i) x wide (s.me.operMap (operOf i)) = .ok w ∧
    ∀ r go, gainOr s i x wide r go = if s.me.returnsFull then .stall
      else go ((w.gain (operOf i) x wide (s.me.operMap (operOf i)) (fun _ => 0)).await (Claim.lanesOf i s.me) r) := by
  obtain ⟨-, w, hroom⟩ := hfits
  exact ⟨w, hroom, fun r go => by rw [gainOr, hroom]⟩

/-- While 32 returns are outstanding it waits. -/
theorem gainOr_full (hfits : Claim.Fits i x wide s) (hfull : 32 ≤ s.me.rets.length) : gainOr s i x wide r go = .stall := by
  obtain ⟨w, -, hgain⟩ := gainOr_of_fits hfits
  rw [hgain, if_pos (returnsFull_true hfull)]

/-- While the queue is full an instruction with an entry waits, whether or not a return is free. -/
theorem gainOr_enter_full (hfits : Claim.Fits i x wide s) (hfull : ¬Claim.QueueOpen s) (e : SEntry) (k : Nat) :
    gainOr s i x wide r (enter s · e k) = .stall := by
  obtain ⟨w, -, hgain⟩ := gainOr_of_fits hfits
  rw [hgain, enter_full hfull, ite_self]

end

theorem vdst_of_ld {k : Marks} {ty : Ty} {o : Ordn} {sc : Scope} {sp : Space} {x : VCode} {y : SCode} {z : VCode} {m : MCode} {imm : W32}
    (h : WellFormed true (.ld k ty o sc sp x y z m imm) = true) : Wf.vdst ty.wide x = true := by
  simp only [WellFormed, Bool.and_eq_true] at h
  obtain ⟨⟨⟨-, hx⟩, -⟩, -⟩ := h
  exact hx

theorem vdst_of_atom {k : Marks} {op : AtomOp} {ty : Ty} {o : Ordn} {sc : Scope} {sp : Space} {res : Bool} {x : VCode} {y : SCode} {z vs : VCode} {m : MCode}
    {imm : W32} (h : WellFormed true (.atom k op ty o sc sp res x y z vs m imm) = true) : Wf.vdst false x = true := by
  simp only [WellFormed, Bool.and_eq_true] at h
  obtain ⟨⟨⟨⟨⟨-, hx⟩, -⟩, -⟩, -⟩, -⟩ := h
  exact hx

/-- Settles O16: a load whose accesses are all right answers with its destination gained and its values awaited, or with its values to be read. -/
theorem loads : Obligations.Loads := by
  refine ⟨?_, ?_, ?_, ?_⟩
  · intro k ty o sc sp x y z m imm s i hwf hi hfits hrets hok
    obtain ⟨r, n, hr, hexec⟩ := exec_ld hi hfits.1 hok
    obtain ⟨w, hroom, hgain⟩ := gainOr_of_fits hfits
    obtain ⟨hplaced, hawaits, hrest⟩ := gain_await (f := fun _ => 0) hroom (vdst_of_ld hwf) hr
    rw [hgain, returnsFull_false hrets] at hexec
    exact ⟨_, _, hexec, completes_of_done s _ _ _ ((Strand.await_core _ _ _).trans (gain_core hroom)), hplaced, hawaits, hrest⟩
  · intro k ty o sc sp x y imm s i hi hrets hok
    obtain ⟨r, hr, hexec⟩ := exec_lds hi hok
    rw [returnsFull_false hrets] at hexec
    refine ⟨_, _, hexec, completes_of_done s _ _ _ (Strand.setS_core _ _ _), awaits_of_fresh rfl hr, ?_⟩
    rw [← Strand.setS_rets s.me x 0]
  · intro k sp x y n s i hi hok
    obtain ⟨b, hlocks, hcore, hexec⟩ := exec_ldb hi hok
    exact ⟨_, b, hexec, completes_of_done s _ _ _ hcore, hlocks⟩
  · intro k sp x y n s i hi hok
    obtain ⟨b, hlocks, hcore, hexec⟩ := exec_pldm hi hok
    refine ⟨_, b, hexec, completes_of_done s _ _ _ hcore, ?_⟩
    have hlift (l : List Nat) : (do let w ← l; pure (w : Int)) = l.map (fun w : Nat => (w : Int)) := List.flatMap_pure_eq_map (fun w : Nat => (w : Int)) l
    rwa [hlift, List.map_map]

/-- Settles O17: the checks of R168 name the fault, and every instruction whose accesses pass them waits for its return or for the queue. -/
theorem nearFaultsAndWaits : Obligations.NearFaultsAndWaits := by
  refine ⟨?_, ?_, ?_⟩
  · intro i n sp len unit f hi s hissues hdisc
    obtain ⟨hmap, hd, body, hexec, htrap⟩ := nearUse_traps hi
    have hdoes {c : Code} {d : Nat} (hc : c ≠ .trap ∧ c ≠ .bkpt) (h : nearFault s sp len unit f = some (c, d)) : Claim.Does i n s (.fault c d) :=
      does_trap hissues (hexec s) hmap hc (htrap s hdisc c d h) n
    split
    next a hout => exact hdoes (by decide) (nearCheck_of_outside hout)
    next hin =>
      split
      next a hbad => exact hdoes (by decide) (nearCheck_of_misaligned hin hbad)
      next => trivial
  · rintro i s hi hdisc hok hfull (⟨f, hf⟩ | ⟨k, op, ty, o, sc, sp, x, y, z, e, imm, rfl⟩ | ⟨k, op, ty, o, sc, sp, x, y, z, vs, m, imm, rfl⟩ |
      ⟨k, op, ty, o, sc, sp, x, y, z, vs, m, imm, rfl, hfits⟩)
    · obtain ⟨hmap, hd, body, -, -, hexec, hbody⟩ := storing_enters hf
      obtain ⟨e, k, henter, -⟩ := hbody s hdisc hok
      rw [(hexec s).trans (issue_eq hi hmap _ _), henter, finish_enter_full hfull]
    · obtain ⟨e, r, -, -, hexec⟩ := exec_atoms hi hok
      rw [hexec, enter_full hfull, ite_self, finish_stall]
    · obtain ⟨e, r, n, -, -, hexec⟩ := exec_atom hi hdisc hok
      rw [hexec, if_neg Bool.false_ne_true, finish_enter_full hfull]
    · obtain ⟨e, r, n, -, -, hexec⟩ := exec_atom hi hdisc hok
      rw [hexec, if_pos rfl, gainOr_enter_full hfits hfull, finish_stall]
  · rintro i s hi hok hfull (⟨k, ty, o, sc, sp, x, y, imm, rfl⟩ | ⟨k, op, ty, o, sc, sp, x, y, z, e, imm, rfl⟩ |
      ⟨k, ty, o, sc, sp, x, y, z, m, imm, rfl, hfits⟩ | ⟨k, op, ty, o, sc, sp, x, y, z, vs, m, imm, rfl, hfits⟩)
    · obtain ⟨r, -, hexec⟩ := exec_lds hi hok
      rw [hexec, if_pos (returnsFull_true hfull), finish_stall]
    · obtain ⟨e, r, -, -, hexec⟩ := exec_atoms hi hok
      rw [hexec, if_pos (returnsFull_true hfull), finish_stall]
    · obtain ⟨r, n, -, hexec⟩ := exec_ld hi hfits.1 hok
      rw [hexec, gainOr_full hfits hfull, finish_stall]
    · obtain ⟨e, r, n, -, -, hexec⟩ := exec_atom hi hfits.1 hok
      rw [hexec, if_pos rfl, gainOr_full hfits hfull, finish_stall]

/-- Settles O19: an ATOM or ATOMS whose accesses are all right enters the entry it has ready, with its result awaited. -/
theorem atomicsEnterQueue : Obligations.AtomicsEnterQueue := by
  refine ⟨?_, ?_⟩
  · intro k op ty o sc sp res x y z vs m imm s i lanes key data hwf hi hdisc hopen hok hres
    obtain ⟨e, r, n, hentered, hr, hexec⟩ := exec_atom hi hdisc hok
    cases res with
    | false =>
      rw [if_neg Bool.false_ne_true] at hexec
      have hgoes := goes_of_enter (e := e) (k := n) (h := ⟨k, 0x64, 3, .classC⟩) hopen (popped_core i s.me)
      exact ⟨_, _, e, hexec, hgoes, idem_of_goes hgoes, hentered, fun _ => rfl, nofun⟩
    | true =>
      obtain ⟨hfits, hrets⟩ := hres rfl
      obtain ⟨w, hroom, hgain⟩ := gainOr_of_fits hfits
      rw [if_pos rfl, hgain, returnsFull_false hrets] at hexec
      have hgoes := goes_of_enter (e := e) (k := n) (h := ⟨k, 0x64, 3, .classC⟩) hopen
        ((Strand.await_core (w.gain (operOf i) x false (s.me.operMap (operOf i)) fun _ => 0) lanes r).trans (gain_core hroom))
      exact ⟨_, _, e, hexec, hgoes, idem_of_goes hgoes, hentered, nofun, fun _ => gain_await hroom (vdst_of_atom hwf) hr⟩
  · intro k op ty o sc sp x y z e' imm s i a hi hopen hrets hok
    obtain ⟨e, r, hentered, hr, hexec⟩ := exec_atoms hi hok
    rw [returnsFull_false hrets] at hexec
    have hgoes := goes_of_enter (e := e) (k := 1) (h := ⟨k, 0x65, 3, .classC⟩) (b := { s.me.setS x 0 with rets := s.me.rets ++ [r] }) hopen
      (Strand.setS_core s.me x 0)
    refine ⟨_, _, e, hexec, hgoes, idem_of_goes hgoes, hentered, awaits_of_fresh rfl hr, ?_⟩
    rw [← Strand.setS_rets s.me x 0]

end Sys2Proof.Machine
end

section
namespace Sys2Proof.Machine

/-! # When accesses are performed (R183 to R190) -/

/-! ## Orderings, bytes and units -/

theorem isRel_iff {o : Ordn} : Ordn.isRel o = true ↔ o = .rel ∨ o = .ar := by cases o <;> simp [Ordn.isRel]
theorem isAcq_iff {o : Ordn} : Ordn.isAcq o = true ↔ o = .acq ∨ o = .ar := by cases o <;> simp [Ordn.isAcq]
theorem isAcq_false_iff {o : Ordn} : Ordn.isAcq o = false ↔ o ≠ .acq ∧ o ≠ .ar := by cases o <;> simp [Ordn.isAcq]

theorem overlap_iff {a n b m : Nat} : overlap a n b m = true ↔ Claim.Touch a n b m := by simp [overlap, Claim.Touch]
theorem overlap_false_iff {a n b m : Nat} : overlap a n b m = false ↔ ¬Claim.Touch a n b m := by
  rw [← overlap_iff, Bool.not_eq_true]

theorem SUnit.isAtom_false_iff {x : SUnit} : x.isAtom = false ↔ ∀ a, x.op ≠ .atom a := by
  unfold SUnit.isAtom
  split <;> simp_all

/-- No unit of an entry is an atomic step. -/
theorem any_isAtom_false_iff {e : SEntry} : e.units.any SUnit.isAtom = false ↔ ∀ x ∈ e.units, ∀ a, x.op ≠ .atom a := by
  simp [List.any_eq_false, ← SUnit.isAtom_false_iff]

/-- The words of an entry are those of its snapshot. -/
theorem forall_snapWords_iff {e : SEntry} {p : Nat → Prop} : (∀ a ∈ e.snapWords, p a) ↔ ∀ ws k0, e.kind = .snap ws k0 → ∀ a ∈ ws, p a := by
  unfold SEntry.snapWords
  split <;> simp_all

/-- No unperformed value of a load covers one of these bytes. -/
theorem Ret.openAt_false_iff {r : Ret} {k n : Nat} : r.openAt k n = false ↔ ∀ x ∈ r.open, ¬Claim.Touch k n x.key r.size := by
  simp [Ret.openAt, List.any_eq_false, ← overlap_iff]

/-! ## Tests with an exception, as implications -/

theorem le_or_iff {m n : Nat} {b : Bool} : (decide (n ≤ m) || b) = true ↔ (m < n → b = true) := by simp [or_iff_not_imp_left]
theorem lt_or_iff {m n : Nat} {b : Bool} : (decide (m < n) || b) = true ↔ (n ≤ m → b = true) := by simp [or_iff_not_imp_left]
theorem ne_or_iff {m n : Nat} {b : Bool} : (decide (m ≠ n) || b) = true ↔ (m = n → b = true) := by simp [or_iff_not_imp_left]
theorem eq_or_iff {m n : Nat} {b : Bool} : (decide (m = n) || b) = true ↔ (m ≠ n → b = true) := by simp [or_iff_not_imp_left]
theorem not_or_iff {a b : Bool} : (!a || b) = true ↔ (a = true → b = true) := by cases a <;> simp

/-! ## What is performed before an issue number -/

section
variable {s : State} {u n k len : Nat} {sc : Scope} {o : Ordn}

theorem atomsDone_iff : atomsDone s u n = true ↔ Claim.Stepped s u n := by
  simp only [atomsDone, Claim.Stepped, Bool.or_assoc, Bool.and_eq_true, List.all_eq_true, le_or_iff, ne_or_iff, Bool.not_eq_true', any_isAtom_false_iff,
    SUnit.isAtom_false_iff]
  rfl

theorem acquiresDone_iff : acquiresDone s u n = true ↔ Claim.Acquired s u n := by
  simp only [acquiresDone, Claim.Acquired, Bool.or_assoc, Bool.and_eq_true, List.all_eq_true, le_or_iff, ne_or_iff, not_or_iff, decide_eq_true_eq,
    Bool.not_eq_true', isAcq_false_iff, and_assoc]
  rfl

/-- Every load of a strand before an issue number is performed. -/
theorem loadsDone_iff {t : Strand} : t.loadsDone n = true ↔ Claim.Loaded t n := by
  unfold Strand.loadsDone Claim.Loaded
  rw [List.all_eq_true]
  refine forall₂_congr fun r _ => ?_
  rw [le_or_iff]
  refine imp_congr_right fun _ => ?_
  cases r.kind <;> simp [Option.isSome_iff_ne_none]

theorem leavingPerforms_iff {t : Strand} : leavingPerforms s t sc = true ↔ sc = .strand ∨ (sc = .frame ∧ (s.frame t.frame).cores.length ≠ 2) := by
  cases sc <;> simp [leavingPerforms, State.paired]

/-- What the core has sent and happens-before (R189). -/
theorem before_iff {e : Sent} {t : Strand} : e.before t u n = true ↔ Claim.Precedes t u n e := by
  simp only [Sent.before, Claim.Precedes, Bool.or_eq_true, Bool.and_eq_true, decide_eq_true_eq, Bool.not_eq_true', and_assoc]
  rfl

theorem storesDone_iff : storesDone s u n sc = true ↔ Claim.Stored s u n sc := by
  simp only [storesDone, Claim.Stored, Bool.and_eq_true, List.all_eq_true, le_or_iff, not_or_iff, Bool.not_eq_true', before_iff, leavingPerforms_iff, and_assoc]
  refine and_congr (forall₂_congr fun e _ => imp_congr_right fun _ => ?_)
    (forall₂_congr fun e _ => imp_congr_right fun _ => and_congr_right fun _ => and_congr_right fun _ => ?_)
  · cases e.kind <;> simp
  · cases e.u.op <;> simp

theorem performedBefore_iff : performedBefore s u n sc = true ↔ Claim.Before s u n sc := by
  simp only [performedBefore, Claim.Before, Bool.and_eq_true, loadsDone_iff, storesDone_iff, Strand.queueLeft, List.all_eq_true, decide_eq_true_eq, and_assoc]

theorem fenceDone_iff : fenceDone s u o sc n = true ↔ Claim.FenceMet s u o sc n := by
  have har : (decide (o ≠ .ar) || storesDone s u n sc) = true ↔ (o = .ar → Claim.Stored s u n sc) := by
    rw [← storesDone_iff]
    simp [or_iff_not_imp_left]
  simp only [fenceDone, Claim.FenceMet, Bool.and_eq_true, List.all_eq_true, le_or_iff, atomsDone_iff, har, and_assoc]
  refine and_congr_left fun _ => forall₂_congr fun r _ => imp_congr_right fun _ => ?_
  cases r.kind <;> simp

/-! ## What may pass what (R185, R186) -/

theorem atomsLeft_iff {t : Strand} : atomsLeft t n = true ↔ Claim.Left t n := by
  simp only [atomsLeft, Claim.Left, Bool.or_assoc, Bool.and_eq_true, List.all_eq_true, le_or_iff, lt_or_iff, Bool.not_eq_true', any_isAtom_false_iff,
    Ret.openAt_false_iff, forall_snapWords_iff]

theorem aheadFree_iff : aheadFree s u k len = true ↔
    ∀ w ∈ s.strands, w.1 ≠ u → w.2.core = (s.strand u).core → ∀ e ∈ w.2.sq, ∀ a ∈ ranges s e, ¬Claim.Touch k len a.1 a.2 := by
  simp only [aheadFree, Bool.or_assoc, List.all_eq_true, eq_or_iff, ne_or_iff, Bool.not_eq_true', overlap_false_iff]

theorem atomsPassed_iff : atomsPassed s u n k len = true ↔ Claim.BeforeAtomics s u n k len := by
  simp only [atomsPassed, Claim.BeforeAtomics, Bool.or_eq_true, atomsLeft_iff, aheadFree_iff]

theorem mayPass_iff : mayPass s u n k len = true ↔ Claim.Passes s u n k len := by
  simp only [mayPass, Claim.Passes, Bool.and_eq_true, List.all_eq_true, le_or_iff, Bool.not_eq_true', overlap_false_iff, atomsPassed_iff]

theorem notAwaited_iff {l : List (Nat × Nat)} : notAwaited s u l = true ↔ ∀ w ∈ s.strands, w.1 ≠ u → w.2.core = (s.strand u).core →
    (∀ r ∈ w.2.loads, r.passed = true → ∀ a ∈ l, ∀ x ∈ r.open, ¬Claim.Touch a.1 a.2 x.key r.size) ∧
    ∀ y ∈ w.2.ahead, Claim.Left w.2 y.1 ∨ ∀ a ∈ l, ¬Claim.Touch a.1 a.2 y.2.1 y.2.2 := by
  simp only [notAwaited, Bool.or_assoc, Bool.and_eq_true, List.all_eq_true, eq_or_iff, ne_or_iff, not_or_iff, Bool.or_eq_true (atomsLeft _ _), Bool.not_eq_true',
    overlap_false_iff, Ret.openAt_false_iff, atomsLeft_iff]

theorem mayLeave_iff {e : SEntry} : mayLeave s u e = true ↔ Claim.MayLeave s u e := by
  simp only [mayLeave, Claim.MayLeave, Bool.and_eq_true, List.all_eq_true, le_or_iff, not_or_iff, performedBefore_iff, acquiresDone_iff, mayPass_iff,
    notAwaited_iff, isRel_iff, and_assoc]

end

/-! ## FENCE (R180) -/

/-- The fence with its release kept for the store queue. -/
def State.keepFence (s : State) (o : Ordn) (sc : Scope) : State :=
  if o = .rel ∨ o = .ar then s.setMe { s.me with fences := s.me.fences ++ [(s.me.ord, sc)] } else s

section
variable {s : State} {k : Marks} {o : Ordn} {sc : Scope}

theorem keepFence_cur : (s.keepFence o sc).cur = s.cur := by unfold State.keepFence; split <;> rfl

theorem keepFence_core : (s.keepFence o sc).me.core = s.me.core := by unfold State.keepFence; split <;> simp

/-- A FENCE goes on when it is no acquire, goes on as an acquire when what it waits for is done, and parks otherwise. -/
theorem exec_fence (hi : Issues (.fence k o sc) s) : exec (.fence k o sc) s = .next (finish s ⟨k, 0x66, 2, .plain⟩
    (if o = .acq ∨ o = .ar then
      if fenceDone s s.cur o sc s.me.ord then .done ((s.keepFence o sc).setMe ((s.keepFence o sc).me.acquires (s.keepFence o sc))) 1
      else .after (s.keepFence o sc) (.fence o sc s.me.ord) 1
    else .done (s.keepFence o sc) 1)) := by
  refine (issue_eq hi rfl _ _).trans ?_
  cases o <;> rfl

end

section
variable {s : State} {u : Nat} {e : SEntry} {r : List SEntry}

/-- A head that may not leave stays. -/
theorem storeQueueLeave_of_held (hsq : (s.strand u).sq = e :: r) (hheld : mayLeave s u e ≠ true) : exec (.storeQueueLeave u) s = .next s := by
  have hno : mayLeave s u e = false := by simpa using hheld
  show execStoreQueueLeave u s = .next s
  simp only [execStoreQueueLeave, hsq, hno, Bool.not_false, Bool.true_or, if_true]

/-- So does the record of a SPAWN at it. -/
theorem spawnAppend_of_held (hsq : (s.strand u).sq = e :: r) (hheld : mayLeave s u e ≠ true) (l : List Nat) : exec (.spawnAppend ⟨u, l⟩) s = .next s := by
  have hno : mayLeave s u e = false := by simpa using hheld
  show execSpawnAppend ⟨u, l⟩ s = .next s
  simp only [execSpawnAppend, hsq, hno, Bool.not_false, Bool.true_or, if_true]
  split <;> rfl

end

/-- Settles O20: each test of the model is the condition that the rules state, and the fence and the queue go by them. -/
theorem fenceOrders : Obligations.FenceOrders := by
  refine ⟨?_, ?_, fun s u e => mayLeave_iff, ?_⟩
  · intro k o sc s hi w
    have hexec := exec_fence hi
    have hcur : w.cur = s.cur := keepFence_cur
    have hcore : w.me.core = s.me.core := keepFence_core
    refine ⟨fun hmet => ?_, fun hacq hunmet => ?_⟩
    · by_cases hacq : o = .acq ∨ o = .ar
      · rw [if_pos hacq, if_pos (fenceDone_iff.2 (hmet hacq))] at hexec
        rw [if_pos hacq]
        exact ⟨_, hexec, goes_of_done hcur (by simpa [Strand.acquires] using hcore)⟩
      · rw [if_neg hacq] at hexec
        rw [if_neg hacq]
        exact ⟨_, hexec, goes_of_done hcur hcore⟩
    · rw [if_pos hacq, if_neg (mt fenceDone_iff.1 hunmet)] at hexec
      exact ⟨_, hexec, parks_of_after hcur hcore⟩
  · intro s u o sc n hlife
    have hwake : wakeOne s u = if fenceDone s u o sc n then (s.setStrand u ((s.strand u).acquires s)).makeReady u else s := by
      simp only [wakeOne, hlife]
    exact ⟨fun hmet => by rw [hwake, if_pos (fenceDone_iff.2 hmet)], fun hunmet => by rw [hwake, if_neg (mt fenceDone_iff.1 hunmet)]⟩
  · intro s u e r hsq hheld
    exact ⟨storeQueueLeave_of_held hsq (mt mayLeave_iff.1 hheld), spawnAppend_of_held hsq (mt mayLeave_iff.1 hheld)⟩

end Sys2Proof.Machine
end

section
namespace Sys2Proof.Machine

/-! # MEET (O21) -/

/-! ## Meeting points of a frame -/

section
variable {s : State} {u v fu g j n : Nat}

@[simp] theorem Frame.point_setPoint (f : Frame) (j : Nat) (m : MeetPt) : (f.setPoint j m).point j = m := Tbl.get_set_same _ _ _ _
@[simp] theorem Frame.setPoint_strands (f : Frame) (j : Nat) (m : MeetPt) : (f.setPoint j m).strands = f.strands := rfl

/-- The live strands of a frame that have not arrived cannot make up the count (R181). -/
def Abandons (s : State) (l : List Nat) (m : MeetPt) : Prop :=
  m.arr ≠ 0 ∧ popcount m.arr + (l.filter (fun u => !m.arr.getLsbD (s.strand u).sidx)).length < m.cnt

/-- The check of a point sets AB there, or nothing. -/
theorem meetCheck_eq (s : State) (fu j : Nat) (h : Abandons s (s.frame fu).strands ((s.frame fu).point j)) :
    meetCheck s fu j = s.setFrame fu ((s.frame fu).setPoint j { (s.frame fu).point j with ab := true }) := if_pos h

theorem meetCheck_same (s : State) (fu j : Nat) (h : ¬Abandons s (s.frame fu).strands ((s.frame fu).point j)) : meetCheck s fu j = s := if_neg h

@[simp] theorem meetCheck_cur (s : State) (fu j : Nat) : (meetCheck s fu j).cur = s.cur := by unfold meetCheck; dsimp only; split <;> rfl
@[simp] theorem meetCheck_cores (s : State) (fu j : Nat) : (meetCheck s fu j).cores = s.cores := by unfold meetCheck; dsimp only; split <;> rfl

theorem meetCheck_frame_ne (s : State) (j : Nat) (hg : g ≠ fu) : (meetCheck s fu j).frame g = s.frame g := by
  by_cases h : Abandons s (s.frame fu).strands ((s.frame fu).point j)
  · rw [meetCheck_eq s fu j h, State.frame_setFrame_ne _ _ _ _ hg]
  · rw [meetCheck_same s fu j h]

/-- The checked point is as before, but that AB is set where the count cannot be made up. -/
theorem meetCheck_point (s : State) (fu j : Nat) :
    let m := (s.frame fu).point j
    let m' := ((meetCheck s fu j).frame fu).point j
    m'.cnt = m.cnt ∧ m'.phase = m.phase ∧ m'.arr = m.arr ∧ (m'.ab = true ↔ m.ab = true ∨ Abandons s (s.frame fu).strands m) := by
  intro m m'
  by_cases h : Abandons s (s.frame fu).strands m
  · have hm' : m' = { m with ab := true } := by
      show ((meetCheck s fu j).frame fu).point j = _
      rw [meetCheck_eq s fu j h, State.frame_setFrame_same, Frame.point_setPoint]
    rw [hm']
    exact ⟨rfl, rfl, rfl, by simp [h]⟩
  · have hm' : m' = m := by
      show ((meetCheck s fu j).frame fu).point j = _
      rw [meetCheck_same s fu j h]
    rw [hm']
    exact ⟨rfl, rfl, rfl, by simp [h]⟩

/-! ## Arrivals -/

/-- A meeting point with the arrival of a strand (R181). -/
def MeetPt.arrived (m : MeetPt) (t : Strand) (n : Nat) : MeetPt :=
  let cnt := if m.arr = 0 then (if n = 0 then t.fsize else n) else m.cnt
  let arr := m.arr ||| BitVec.ofNat 16 (2 ^ t.sidx)
  if popcount arr = cnt then { m with phase := m.phase + 1, arr := 0, cnt := cnt } else { m with arr := arr, cnt := cnt }

/-- The frame and the strand with the arrival, before the point is checked. -/
def State.arrived (s : State) (u j n : Nat) : State :=
  (s.setFrame (s.strand u).frame ((s.frame (s.strand u).frame).setPoint j (((s.frame (s.strand u).frame).point j).arrived (s.strand u) n))).setStrand u
    ((s.strand u).setMeetRec j ⟨true, ((s.frame (s.strand u).frame).point j).phase⟩)

theorem meetArrival_eq (s : State) (u j n : Nat) : meetArrival s u j n = meetCheck (s.arrived u j n) (s.strand u).frame j := rfl

theorem arrived_frame (s : State) (u j n : Nat) : (s.arrived u j n).frame (s.strand u).frame =
    (s.frame (s.strand u).frame).setPoint j (((s.frame (s.strand u).frame).point j).arrived (s.strand u) n) := State.frame_setFrame_same _ _ _

/-- An arrival leaves every strand's place in its frame. -/
theorem arrived_sidx (s : State) (u j n v : Nat) : ((s.arrived u j n).strand v).sidx = (s.strand v).sidx := by
  by_cases hv : v = u
  · rw [hv, State.arrived, State.strand_setStrand_same]
    rfl
  · rw [State.arrived, State.strand_setStrand_ne _ _ _ _ hv]
    rfl

/-- The live strands that can no longer make up the count are those of before the arrival. -/
theorem abandons_arrived (s : State) (u j n : Nat) (l : List Nat) (m : MeetPt) : Abandons (s.arrived u j n) l m ↔ Abandons s l m := by
  simp only [Abandons, arrived_sidx]

/-- The arriving strand records the phase it arrives in. -/
theorem meetArrival_strand (s : State) (u j n : Nat) :
    (meetArrival s u j n).strand u = (s.strand u).setMeetRec j ⟨true, ((s.frame (s.strand u).frame).point j).phase⟩ := by
  rw [meetArrival_eq, strand_meetCheck]
  exact State.strand_setStrand_same _ _ _

@[simp] theorem meetArrival_cur (s : State) (u j n : Nat) : (meetArrival s u j n).cur = s.cur := meetCheck_cur _ _ _
@[simp] theorem meetArrival_cores (s : State) (u j n : Nat) : (meetArrival s u j n).cores = s.cores := meetCheck_cores _ _ _

theorem meetArrival_frame_ne (s : State) (u j n : Nat) (hg : g ≠ (s.strand u).frame) : (meetArrival s u j n).frame g = s.frame g :=
  (meetCheck_frame_ne _ j hg).trans (State.frame_setFrame_ne _ _ _ _ hg)

/-- The point of an arrival: it counts the strand and, with the last one, begins its next phase; AB is set where the count cannot be made up. -/
theorem meetArrival_point (s : State) (u j n : Nat) :
    let f := s.frame (s.strand u).frame
    let m := (f.point j).arrived (s.strand u) n
    let m' := ((meetArrival s u j n).frame (s.strand u).frame).point j
    m'.cnt = m.cnt ∧ m'.phase = m.phase ∧ m'.arr = m.arr ∧ (m'.ab = true ↔ m.ab = true ∨ Abandons s f.strands m) := by
  have hpoint := meetCheck_point (s.arrived u j n) (s.strand u).frame j
  simp only [arrived_frame, Frame.point_setPoint, Frame.setPoint_strands, abandons_arrived] at hpoint
  exact hpoint

/-- What an arrival makes of a point, by whether it is the last one. -/
theorem MeetPt.arrived_eq (m : MeetPt) (t : Strand) (n : Nat) :
    let arr := m.arr ||| BitVec.ofNat 16 (2 ^ t.sidx)
    let cnt := if m.arr = 0 then (if n = 0 then t.fsize else n) else m.cnt
    (m.arrived t n).cnt = cnt ∧ (m.arrived t n).phase = (if popcount arr = cnt then m.phase + 1 else m.phase) ∧
      (m.arrived t n).arr = (if popcount arr = cnt then 0 else arr) ∧ (m.arrived t n).ab = m.ab := by
  intro arr cnt
  by_cases h : popcount arr = cnt
  · rw [show m.arrived t n = { m with phase := m.phase + 1, arr := 0, cnt := cnt } from if_pos h, if_pos h, if_pos h]
    exact ⟨rfl, rfl, rfl, rfl⟩
  · rw [show m.arrived t n = { m with arr := arr, cnt := cnt } from if_neg h, if_neg h, if_neg h]
    exact ⟨rfl, rfl, rfl, rfl⟩

/-- After an arrival that is not the last one the count may no longer be made up. -/
theorem abandons_iff_of_arrived {m : MeetPt} {arr : BitVec 16} {cnt : Nat} {l : List Nat} (hcnt : m.cnt = cnt)
    (harr : m.arr = if popcount arr = cnt then 0 else arr) : Abandons s l m ↔
      popcount arr ≠ cnt ∧ arr ≠ 0 ∧ popcount arr + (l.filter (fun u => !arr.getLsbD (s.strand u).sidx)).length < cnt := by
  rw [Abandons, hcnt, harr]
  by_cases hall : popcount arr = cnt
  · simp [hall]
  · rw [if_neg hall]
    exact (and_iff_right hall).symm

/-! ## Parked MEETs taken up -/

@[simp] theorem State.makeReady_cur (s : State) (u : Nat) : (s.makeReady u).cur = s.cur := by simp [State.makeReady, apply_ite State.cur]
@[simp] theorem meetFinish_cur (s : State) (u j : Nat) (t : BitVec 16) (x : SCode) : (meetFinish s u j t x).cur = s.cur := rfl

@[simp] theorem meetWake_cur (s : State) (u : Nat) : (meetWake s u).1.cur = s.cur := by
  unfold meetWake
  dsimp only
  repeat' split
  all_goals simp

/-- A running strand has no MEET to take up. -/
theorem meetWake_running (h : (s.strand u).life = .running) : (meetWake s u).1 = s := by simp only [meetWake, h]

/-- Taking up MEETs leaves a running strand as it is. -/
theorem strand_meetWake_running (h : (s.strand u).life = .running) : (meetWake s v).1.strand u = s.strand u := by
  by_cases hv : v = u
  · rw [hv, meetWake_running h]
  · exact strand_meetWake_ne hv s

/-- Taking up every parked MEET leaves the running strand as it is, and which one runs. -/
theorem meetWakeAll_running (fu n : Nat) (s : State) (h : (s.strand u).life = .running) :
    (meetWakeAll fu n s).strand u = s.strand u ∧ (meetWakeAll fu n s).cur = s.cur := by
  induction n generalizing s with
  | zero => exact ⟨rfl, rfl⟩
  | succ n ih =>
    obtain ⟨hstrand, hcur⟩ := List.foldlRecOn (motive := fun (a : State × Bool) => a.1.strand u = s.strand u ∧ a.1.cur = s.cur) (s.frame fu).strands
      (fun (a : State × Bool) v => let (b, w) := meetWake a.1 v; (b, a.2 || w)) (b := (s, false)) ⟨rfl, rfl⟩ fun a ha v _ =>
        ⟨(strand_meetWake_running (ha.1.symm ▸ h)).trans ha.1, (meetWake_cur a.1 v).trans ha.2⟩
    unfold meetWakeAll
    dsimp only
    split
    · obtain ⟨hstrand', hcur'⟩ := ih _ (hstrand.symm ▸ h)
      exact ⟨hstrand'.trans hstrand, hcur'.trans hcur⟩
    · exact ⟨hstrand, hcur⟩

end

/-! ## The instruction -/

/-- What a WAIT on a point answers (R181). -/
def meetWaitRes (s : State) (u : Nat) (x : SCode) (j : Nat) (op : Option MeetOp) : Res :=
  if meetDone s u j (meetFrom s u j) then .done (meetFinish s u j (meetFrom s u j) x) 1 else .after s (.meetWait x j (meetFrom s u j) op) 1

/-- The state after the arrival of the running strand, with the parked MEETs of its frame taken up. -/
def State.meets (s : State) (j n : Nat) : State := meetWakeAll s.me.frame 64 (meetArrival (useTag s s.me) s.cur j n)

section
variable {s w : State} {k : Marks} {form : MeetForm} {x : SCode} {j : BitVec 4} {n : BitVec 5}

/-- What MEET answers, form by form (R181). -/
def meetRes (s : State) (form : MeetForm) (x : SCode) (j n : Nat) (op : MeetOp) : Res :=
  let f := s.frame s.me.frame
  let p := f.point j
  if s.me.fsize < n then .trap .illegalOperand 0
  else if form = .wait then meetWaitRes s s.cur x j none
  else if f.fab = true ∨ p.ab = true then
    (if form = .arr then .done ((useTag s s.me).setMe (s.me.setS x 1)) 1 else meetWaitRes (useTag s s.me) s.cur x j (some op))
  else if !releaseReady s s.cur s.me.ord .frame then .stall
  else if p.arr.getLsbD s.me.sidx then .after (useTag s s.me) (.meetArrive form x j n p.phase op) 1
  else if form = .arr then .done ((s.meets j n).setMe ((s.meets j n).me.setS x 0)) 1 else meetWaitRes (s.meets j n) s.cur x j (some op)

theorem exec_meet (hi : Issues (.meet k form x j n) s) : exec (.meet k form x j n) s = .next (finish s ⟨k, 0x67, 2, .classC⟩
    (meetRes s form x j.toNat n.toNat ⟨s.me.ord, nextTag s s.me, firstWord (.meet k form x j n)⟩)) := by
  refine (issue_eq hi rfl _ _).trans ?_
  simp only [meetRes, ← Bool.or_eq_true]
  cases form <;> rfl

theorem meetDone_iff {u j : Nat} {ph : BitVec 16} : meetDone s u j ph = true ↔
    let f := s.frame (s.strand u).frame
    (f.point j).phase ≠ ph ∨ f.fab = true ∨ (f.point j).ab = true ∨ ((f.point j).arr = 0 ∧ f.strands.filter (· ≠ u) = []) := by
  simp only [meetDone, Bool.or_eq_true, Bool.and_eq_true, decide_eq_true_eq, or_assoc]

/-- The strand after a WAIT that is over: PEND cleared, the status written; OK is an acquire (R181). -/
def meetOver (w : State) (j : Nat) (ph : BitVec 16) (x : SCode) : Strand :=
  let b := (w.me.setMeetRec j { w.me.meetRec j with pend := false }).setS x (if ((w.frame w.me.frame).point j).phase ≠ ph then 0 else 1)
  if ((w.frame w.me.frame).point j).phase ≠ ph then b.acquires w else b

theorem meetFinish_eq (hcur : w.cur = s.cur) (j : Nat) (ph : BitVec 16) (x : SCode) : meetFinish w s.cur j ph x = w.setMe (meetOver w j ph x) := by
  rw [← hcur]
  rfl

theorem meetOver_core (w : State) (j : Nat) (ph : BitVec 16) (x : SCode) : (meetOver w j ph x).core = w.me.core := by
  unfold meetOver
  dsimp only
  split <;> exact Strand.setS_core _ _ _

/-- A WAIT from a state whose running strand is that of the issue completes or parks as R181 says. -/
theorem meetWaits_of_wait (hcur : w.cur = s.cur) (hcore : w.me.core = s.me.core) (j : Nat) (op : Option MeetOp) :
    Claim.MeetWaits s w (finish s ⟨k, 0x67, 2, .classC⟩ (meetWaitRes w s.cur x j op)) x j op := by
  have hme : w.strand s.cur = w.me := by rw [← hcur]; rfl
  have hfrom : meetFrom w s.cur j = if (w.me.meetRec j).pend then (w.me.meetRec j).ph else ((w.frame w.me.frame).point j).phase := by
    simp only [meetFrom, hme]
  have hdone := meetDone_iff (s := w) (u := s.cur) (j := j) (ph := meetFrom w s.cur j)
  simp only [hme] at hdone
  simp only [Claim.MeetWaits, ← hfrom, ← hdone, meetWaitRes]
  by_cases h : meetDone w s.cur j (meetFrom w s.cur j) = true
  · rw [if_pos h, if_pos h]
    rw [meetFinish_eq hcur]
    exact goes_of_done (w := w.setMe _) hcur ((congrArg Strand.core (State.me_setMe w _)).trans ((meetOver_core w j _ x).trans hcore))
  · rw [if_neg h, if_neg h]
    exact parks_of_after hcur hcore

/-- What a release at frame scope waits for: its own accesses and those before each release fence before it (R183). -/
theorem releaseReady_iff {u n : Nat} {sc : Scope} : releaseReady s u n sc = true ↔
    ∀ g, g = (n, sc) ∨ (g ∈ (s.strand u).fences ∧ g.1 < n) → Claim.Before s u g.1 g.2 := by
  simp only [releaseReady, Bool.and_eq_true, List.all_eq_true, le_or_iff, performedBefore_iff, or_imp, forall_and, forall_eq, and_imp]

/-- After an arrival the running strand is where it was, and it has its record of the point. -/
theorem meets_me (hrun : s.me.life = .running) (j n : Nat) : (s.meets j n).cur = s.cur ∧ (s.meets j n).me.core = s.me.core := by
  have harrived := meetArrival_strand (useTag s s.me) s.cur j n
  rw [useTag_strand, ← State.me_eq] at harrived
  have hlife : ((meetArrival (useTag s s.me) s.cur j n).strand s.cur).life = .running := by
    rw [harrived]
    exact hrun
  obtain ⟨hstrand, hcur⟩ := meetWakeAll_running s.me.frame 64 _ hlife
  have hcur' : (s.meets j n).cur = s.cur := hcur.trans (meetArrival_cur _ _ _ _)
  refine ⟨hcur', ?_⟩
  rw [State.me_eq, hcur', State.meets, hstrand, harrived]
  rfl

/-- The arrival of the running strand is what R181 says. -/
theorem meetArrives_meets (s : State) (j n : Nat) : Claim.MeetArrives s (s.meets j n) j n := by
  have hpoint := meetArrival_point (useTag s s.me) s.cur j n
  obtain ⟨hcnt, hphase, harr, hab⟩ := MeetPt.arrived_eq ((s.frame s.me.frame).point j) s.me n
  obtain ⟨hcnt', hphase', harr', hab'⟩ := hpoint
  refine ⟨meetArrival (useTag s s.me) s.cur j n, rfl, ?_, ?_, ?_, ?_, ?_, ?_, ?_, ?_, ?_⟩
  · rw [State.me_eq, meetArrival_cur]
    exact meetArrival_strand _ _ _ _
  · exact fun v hv => strand_meetArrival_ne hv.symm _ j n
  · exact meetArrival_mem _ _ _ _
  · exact meetArrival_cores _ _ _ _
  · exact fun g hg => meetArrival_frame_ne _ _ j n hg
  · exact hcnt'.trans hcnt
  · exact hphase'.trans hphase
  · exact harr'.trans harr
  · refine hab'.trans (or_congr (by rw [← hab]; rfl) ?_)
    exact abandons_iff_of_arrived (s := s) hcnt harr

/-- After an arrival, or at an abandoned point, ARR goes on with its status and the other forms wait (R181). -/
theorem goes_or_waits {r : Strand} {t : State} {op : Option MeetOp} (hcur : w.cur = s.cur) (hcore : w.me.core = s.me.core) (hr : r.core = s.me.core) (j : Nat)
    (ht : t = finish s ⟨k, 0x67, 2, .classC⟩ (if form = .arr then .done (w.setMe r) 1 else meetWaitRes w s.cur x j op)) :
    if form = .arr then Goes .classC 2 s (w.setMe r) t else Claim.MeetWaits s w t x j op := by
  rw [ht]
  by_cases harr : form = .arr
  · rw [if_pos harr, if_pos harr]
    exact goes_of_done hcur ((congrArg Strand.core (State.me_setMe w r)).trans hr)
  · rw [if_neg harr, if_neg harr]
    exact meetWaits_of_wait hcur hcore _ _

end

/-- Settles O21: MEET answers form by form what R181 says, and the arrival and the wait do as it says. -/
theorem meetArrivesAndWaits : Obligations.MeetArrivesAndWaits := by
  intro k form x j n s hi i f p tagged op
  have hexec : exec i s = .next (finish s ⟨k, 0x67, 2, .classC⟩ (meetRes s form x j.toNat n.toNat op)) := exec_meet hi
  split
  next hcount => exact does_fault (by decide) (h := ⟨k, 0x67, 2, .classC⟩) (hexec.trans (by rw [meetRes, if_pos hcount]))
  next hcount =>
    split
    next hform =>
      rw [meetRes, if_neg hcount, if_pos hform] at hexec
      exact ⟨_, hexec, meetWaits_of_wait rfl rfl _ _⟩
    next hform =>
      split
      next hab =>
        rw [meetRes, if_neg hcount, if_neg hform, if_pos hab] at hexec
        exact ⟨_, hexec, goes_or_waits (s := s) (w := tagged) rfl rfl (Strand.setS_core _ _ _) _ rfl⟩
      next hab =>
        intro met
        have hready : (!releaseReady s s.cur s.me.ord .frame) = true ↔ ¬met := by
          rw [Bool.not_eq_true', ← Bool.not_eq_true, not_iff_not]
          exact releaseReady_iff
        refine ⟨fun hunmet => ?_, fun hok => ?_⟩
        · rw [meetRes, if_neg hcount, if_neg hform, if_neg hab, if_pos (hready.2 hunmet)] at hexec
          exact hexec
        · rw [meetRes, if_neg hcount, if_neg hform, if_neg hab, if_neg fun h => hready.1 h hok] at hexec
          split
          next hbit =>
            rw [if_pos hbit] at hexec
            exact ⟨_, hexec, parks_of_after rfl rfl⟩
          next hbit =>
            rw [if_neg hbit] at hexec
            obtain ⟨hcur, hcore⟩ := meets_me hi.1 j.toNat n.toNat
            exact ⟨_, _, hexec, meetArrives_meets s _ _, goes_or_waits hcur hcore ((Strand.setS_core _ _ _).trans hcore) _ rfl⟩

end Sys2Proof.Machine
end

section
namespace Sys2Proof.Machine

/-! # The head of a store queue leaves (O23) -/

/-! ## Counters -/

/-- A counter set changes the counters and what the queues of partitions wait for, and nothing else. -/
theorem State.setCounter_eq (s : State) (c : Nat) (v : W32) :
    s.setCounter c v = { s with counters := Tbl.set 0 s.counters c v, parts := (s.setCounter c v).parts } := by
  unfold State.setCounter
  dsimp only
  split
  · exact List.foldlRecOn (motive := fun t : State => t = { s with counters := Tbl.set 0 s.counters c v, parts := t.parts }) _ _ rfl
      fun t ht e _ => by rw [ht]; rfl
  · rfl

theorem State.setCounter_counter (s : State) (c d : Nat) (v : W32) : (s.setCounter c v).counter d = if d = c then v else s.counter d := by
  rw [State.setCounter_eq]
  exact Tbl.get_set 0 s.counters c d v

theorem State.setCounter_strand (s : State) (c : Nat) (v : W32) (u : Nat) : (s.setCounter c v).strand u = s.strand u := by rw [State.setCounter_eq]; rfl

/-! ## Bytes written -/

/-- Written bytes read as what was written, and all others as before. -/
theorem Memory.read_writeL (m : Memory) (a k : Nat) (l : List Byte) :
    (m.writeL a l).read k = if a ≤ k ∧ k < a + l.length then l.getD (k - a) 0 else m.read k := by
  split
  next h =>
    obtain ⟨i, rfl⟩ := Nat.exists_eq_add_of_le h.1
    rw [Memory.read_writeL_inside l m a i (by omega), Nat.add_sub_cancel_left, List.getD_eq_getElem _ _ (by omega)]
  next h => exact Memory.read_writeL_outside l m a k (by omega)

/-! ## What leaves -/

theorem Strand.leave_core (t : Strand) (e : SEntry) : (t.leave e).core = t.core := rfl

/-- The units of an entry as they stand among what its core has sent (R183). -/
def sentOf (sid : Nat) (e : SEntry) (snap : Bool) (leaves : Nat) (units : List SUnit) : List Sent :=
  units.zipIdx.map fun x => { sid := sid, entry := { e with units := [] }, u := x.1, snap := snap, num := leaves + x.2 }

/-- What is sent stands behind what was sent before. -/
theorem send_core (s : State) (u : Nat) (e : SEntry) (units : List SUnit) (snap : Bool) :
    ((send s u e units snap).core (s.strand u).core).sent =
        (s.core (s.strand u).core).sent ++ sentOf u e snap (s.core (s.strand u).core).leaves units ∧
      ((send s u e units snap).core (s.strand u).core).leaves = (s.core (s.strand u).core).leaves + units.length := by
  rw [send, State.core_setCore_same, Core.send]
  refine ⟨?_, by rw [List.length_map]⟩
  rw [List.zipIdx_map, List.map_map]
  rfl

@[simp] theorem send_strand (s : State) (u : Nat) (e : SEntry) (units : List SUnit) (snap : Bool) (v : Nat) :
    (send s u e units snap).strand v = s.strand v := rfl
@[simp] theorem send_part (s : State) (u : Nat) (e : SEntry) (units : List SUnit) (snap : Bool) (p : Nat) :
    (send s u e units snap).part p = s.part p := rfl

/-- Units numbered by their place, with their place again. -/
theorem zipIdx_zipIdx {α : Type} (l : List α) : l.zipIdx.zipIdx = l.zipIdx.map fun v => (v, v.2) := by
  refine List.ext_getElem (by simp) fun i h1 h2 => ?_
  simp

/-- The writes of a snapshot's counts, in order (R298). -/
def snapUnits (l : List (Nat × W32)) : List SUnit := l.zipIdx.map fun w => { unit := w.2, key := w.1.1, op := .write (toBytes 4 w.1.2.toNat), off := 0 }

/-- They are numbered as they stand. -/
theorem sentOf_snapUnits (sid : Nat) (e : SEntry) (leaves : Nat) (l : List (Nat × W32)) : sentOf sid e true leaves (snapUnits l) =
    l.zipIdx.map fun v => { sid := sid, entry := { e with units := [] }, u := ⟨v.2, v.1.1, .write (toBytes 4 v.1.2.toNat), 0, 0⟩, snap := true,
                            num := leaves + v.2 } := by
  rw [sentOf, snapUnits, List.zipIdx_map, zipIdx_zipIdx, List.map_map, List.map_map]
  rfl

section
variable {s : State} {sid : Nat} {e : SEntry} {rest : List SEntry}

/-- The buffer of a braced pair holds nobody else's queue. -/
theorem bufferFull_of_single {t : Strand} (h : t.twin = none) : bufferFull t = false := by
  unfold bufferFull
  split <;> simp [h]

/-- The head that may leave does, as its kind says. -/
theorem storeQueueLeave_of_mayLeave (hsq : (s.strand sid).sq = e :: rest) (hleave : mayLeave s sid e = true) (htwin : (s.strand sid).twin = none) :
    let s1 := s.setStrand sid ((s.strand sid).leave e)
    match e.kind with
    | .spawn _ _ => True
    | .units => exec (.storeQueueLeave sid) s = .next (wakeOne (send s1 sid e e.units false) sid)
    | .dep c add => exec (.storeQueueLeave sid) s = .next (wakeOne (s1.setCounter c (s.counter c + add)) sid)
    | .snap words k0 => let x := (s.part (s.strand sid).part).snap k0 0 words.length
        exec (.storeQueueLeave sid) s = .next (wakeOne (send (s1.setPart (s.strand sid).part x.1) sid e (snapUnits (words.zip x.2)) true) sid) := by
  have hexec : exec (.storeQueueLeave sid) s = execStoreQueueLeave sid s := rfl
  simp only [hexec, execStoreQueueLeave, hsq, hleave, bufferFull_of_single htwin, Bool.not_true, Bool.false_or, Bool.false_eq_true, if_false, leaveUnits,
    htwin, Option.isSome_none]
  cases e.kind with
  | spawn pieces q => trivial
  | _ => rfl

end

/-! ## SPAWN -/

section
variable {s : State} {sid : Nat} {e : SEntry} {rest : List SEntry} {pieces : Pieces} {q : Nat} {pick : List Nat}

/-- What a SPAWN reads changes only what the links carry. -/
theorem sameButTraffic_carryKeys (s : State) (part core cls : Nat) (keys : List (Nat × Nat)) : s.SameButTraffic (s.carryKeys part core cls keys) :=
  sameButTraffic_foldl (fun t _ => State.sameButTraffic_reach t _ _ _ _ _) _ s

/-- The pieces with those read that are named, byte by byte as the core sees them (R272). -/
theorem readPieces_eq (s : State) (c : Nat) (pick : List Nat) (l : Pieces) : readPieces s c pick l =
    l.zipIdx.map (fun y => if y.2 ∈ pick ∧ y.1.2 = none then (y.1.1, some ((List.range 16).map (fun i => coreByte s c (y.1.1 + i)))) else y.1) := by
  refine List.map_congr_left fun y _ => ?_
  simp only [Bool.and_eq_true, List.contains_iff_mem, Option.isNone_iff_eq_none]
  rfl

theorem pieces_read_iff {l : Pieces} : l.read = true ↔ ∀ y ∈ l, y.2 ≠ none := by
  simp [Pieces.read, Option.isSome_iff_ne_none]

/-- The queue whose tail has moved: only its tail and its published counts are new (R272). -/
theorem queue_moveTail (m : Memory) (p : Part) (k : Nat) (v : W32) : ∃ c, (Part.moveTail m p k v).queue k = { p.queue k with tail := v, counts := c } :=
  ⟨_, Tbl.get_set_same _ _ _ _⟩

/-- A queue with room lets the record of a SPAWN that may leave be read and, once all of it is, appended (R272). -/
theorem spawnAppend_of_mayLeave (hsq : (s.strand sid).sq = e :: rest) (hkind : e.kind = .spawn pieces q) (hleave : mayLeave s sid e = true)
    (hroom : (((s.part (s.strand sid).part).queue q).tail - ((s.part (s.strand sid).part).queue q).head).toNat < 2 ^ ((s.part (s.strand sid).part).queue q).sz) :
    let l := readPieces s (s.strand sid).core pick pieces
    let s1 := s.carryKeys (s.strand sid).part (s.strand sid).core e.cls (pieceKeys pick pieces)
    exec (.spawnAppend ⟨sid, pick⟩) s = if l.read then .next (wakeOne (appendRecord s1 sid e q (pieceBytes l)) sid)
      else .next (s1.setStrand sid { s.strand sid with sq := { e with kind := .spawn l q } :: rest }) := by
  have hexec : exec (.spawnAppend ⟨sid, pick⟩) s = execSpawnAppend ⟨sid, pick⟩ s := rfl
  have hlen : decide (2 ^ ((s.part (s.strand sid).part).queue q).sz ≤ ((s.part (s.strand sid).part).queue q).len) = false :=
    decide_eq_false (Nat.not_le.2 hroom)
  simp only [hexec, execSpawnAppend, hsq, hkind, hleave, hlen, Bool.not_true, Bool.false_or, Bool.false_eq_true, if_false, List.drop_one, List.tail_cons]

/-- The record appended: its bytes at the tail of the queue, whose tail has moved, and its entry left (R272). -/
theorem appendRecord_eq (s : State) (u : Nat) (e : SEntry) (q : Nat) (b : List Byte) :
    let t := s.strand u
    let x := (s.part t.part).queue q
    (appendRecord s u e q b).strand u = t.leave e ∧
      (∃ c, ((appendRecord s u e q b).part t.part).queue q = { x with tail := x.tail + 1, counts := c }) ∧
      (appendRecord s u e q b).mem = s.mem.writeL (windowKey (s.part t.part) (x.at x.tail)) b := by
  intro t x
  refine ⟨?_, ?_, ?_⟩
  · exact State.strand_setStrand_same _ _ _
  · obtain ⟨c, hc⟩ := queue_moveTail _ _ _ _
    exact ⟨c, (congrArg (Part.queue · q) (State.part_setPart_same _ _ _)).trans hc⟩
  · exact State.carryWindow_mem _ _ _ _ _ _

end

/-- Settles O23: the head leaves by its kind's lemma, and a SPAWN by that of its pieces. -/
theorem queueHeadLeaves : Obligations.QueueHeadLeaves := by
  refine ⟨?_, ?_⟩
  · intro sid s e rest a hsq hleave htwin left
    have hexec := storeQueueLeave_of_mayLeave hsq hleave htwin
    have hleft (w : State) (hw : w.strand sid = (s.setStrand sid left).strand sid) : w.strand sid = left :=
      hw.trans (State.strand_setStrand_same _ _ _)
    split
    next => trivial
    next hkind =>
      simp only [hkind] at hexec
      obtain ⟨hsent, hleaves⟩ := send_core (s.setStrand sid left) sid e e.units false
      rw [State.strand_setStrand_same] at hsent hleaves
      exact ⟨_, hexec, hleft _ rfl, fun _ => rfl, hsent, hleaves⟩
    next c add hkind =>
      simp only [hkind] at hexec
      refine ⟨_, hexec, hleft _ (State.setCounter_strand _ _ _ _), fun k => by rw [State.setCounter_mem]; rfl, ?_, fun d hd => ?_⟩
      · rw [State.setCounter_counter, if_pos rfl]
      · rw [State.setCounter_counter, if_neg hd]
        rfl
    next words k0 hkind =>
      simp only [hkind] at hexec
      refine ⟨_, hexec, hleft _ rfl, fun _ => rfl, State.part_setPart_same _ _ _, ?_⟩
      have hsent := (send_core ((s.setStrand sid left).setPart a.part ((s.part a.part).snap k0 0 words.length).1) sid e
        (snapUnits (words.zip ((s.part a.part).snap k0 0 words.length).2)) true).1
      rw [State.strand_setPart, State.strand_setStrand_same] at hsent
      exact hsent.trans (congrArg _ (sentOf_snapUnits _ _ _ _))
  · intro sid s e rest pieces pick q a p x hsq hkind hleave hroom l record at_
    have hexec := spawnAppend_of_mayLeave (pick := pick) hsq hkind hleave hroom
    have hsame := sameButTraffic_carryKeys s a.part a.core e.cls (pieceKeys pick pieces)
    have hl : readPieces s a.core pick pieces = l := readPieces_eq s a.core pick pieces
    simp only at hexec
    rw [hl] at hexec
    generalize s.carryKeys a.part a.core e.cls (pieceKeys pick pieces) = s1 at hexec hsame
    have hstrand (u : Nat) : s1.strand u = s.strand u := hsame.field (State.strand · u) fun _ _ _ _ _ => rfl
    have hpart (p : Nat) : s1.part p = s.part p := hsame.field (State.part · p) fun _ _ _ _ _ => rfl
    have hmem : s1.mem = s.mem := hsame.field State.mem fun _ _ _ _ _ => rfl
    refine ⟨fun hopen => ?_, fun hread => ?_⟩
    · rw [if_neg fun h => hopen.elim fun y hy => pieces_read_iff.1 h y hy.1 hy.2] at hexec
      refine ⟨_, hexec, State.strand_setStrand_same _ _ _, fun u hu => (State.strand_setStrand_ne _ _ _ _ hu).trans (hstrand u), ?_, hmem, ?_⟩
      · exact hsame.field State.parts fun _ _ _ _ _ => rfl
      · exact hsame.field State.cores fun _ _ _ _ _ => rfl
    · rw [if_pos (pieces_read_iff.2 hread)] at hexec
      obtain ⟨hleft, htail, hbytes⟩ := appendRecord_eq s1 sid e q (pieceBytes l)
      rw [hstrand] at hleft htail hbytes
      rw [hpart] at htail hbytes
      refine ⟨_, hexec, hleft, htail, fun k => ?_⟩
      rw [hbytes, hmem]
      exact Memory.read_writeL _ _ _ _

end Sys2Proof.Machine
end

section
namespace Sys2Proof.Machine

/-! # What a core has sent acts at its ordering points (O24) -/

/-! ## Bytes of a word -/

theorem ofBytes_lt (b : List Byte) : ofBytes b < 256 ^ b.length := by
  induction b with
  | nil => simp [ofBytes]
  | cons x r ih =>
    have hx := x.isLt
    rw [ofBytes, List.length_cons, pow_succ]
    omega

/-- A byte of a value read from bytes is the byte there (R3). -/
theorem byte_ofBytes (b : List Byte) (i : Nat) (h : i < b.length) : BitVec.ofNat 8 (ofBytes b / 256 ^ i) = b[i] := by
  induction b generalizing i with
  | nil => cases h
  | cons x r ih =>
    have hx := x.isLt
    cases i with
    | zero =>
      refine BitVec.eq_of_toNat_eq ?_
      rw [BitVec.toNat_ofNat, ofBytes, pow_zero, Nat.div_one, List.getElem_cons_zero]
      omega
    | succ i =>
      have hdiv : (x.toNat + 256 * ofBytes r) / 256 = ofBytes r := by omega
      rw [ofBytes, pow_succ', ← Nat.div_div_eq_div_mul, hdiv, List.getElem_cons_succ]
      exact ih i (by simpa using h)

@[simp] theorem Memory.readN_length (m : Memory) (k n : Nat) : (m.readN k n).length = n := by simp [Memory.readN]

/-- A byte of bytes made of a value. -/
theorem toBytes_getD {n v i : Nat} (h : i < n) : (toBytes n v).getD i 0 = BitVec.ofNat 8 (v / 256 ^ i) := by
  rw [List.getD_eq_getElem _ _ (by simpa using h)]
  simp [toBytes]

/-! ## The step of an atomic (R177) -/

/-- The word of memory that a step reads. -/
def wordAt (m : Memory) (k : Nat) : W32 := BitVec.ofNat 32 (ofBytes (m.readN k 4))

/-- A byte of memory is that of the word there. -/
theorem read_eq_byte_wordAt (m : Memory) (k i : Nat) (h : i < 4) : m.read (k + i) = BitVec.ofNat 8 ((wordAt m k).toNat / 256 ^ i) := by
  have hlt := ofBytes_lt (m.readN k 4)
  rw [Memory.readN_length] at hlt
  rw [wordAt, BitVec.toNat_ofNat, Nat.mod_eq_of_lt (by simpa using hlt), byte_ofBytes _ i (by simpa using h)]
  simp [Memory.readN]

/-- After a step every byte of its word is that of the new value, and every other as before. -/
theorem stepMem_read (m : Memory) (k j : Nat) (a : AStep) :
    let new := atomNew a.op a.ty (wordAt m k) a.d a.e
    (stepMem m k a (wordAt m k)).read j = if k ≤ j ∧ j < k + 4 then BitVec.ofNat 8 (new.toNat / 256 ^ (j - k)) else m.read j := by
  intro new
  have hstep : stepMem m k a (wordAt m k) = if AtomOp.onlyNew a.op && decide (new = wordAt m k) then m else m.writeL k (toBytes 4 new.toNat) := rfl
  by_cases hsame : (AtomOp.onlyNew a.op && decide (new = wordAt m k)) = true
  · have hnew : new = wordAt m k := of_decide_eq_true (Bool.and_eq_true_iff.1 hsame).2
    rw [hstep, if_pos hsame]
    split
    next hin =>
      obtain ⟨i, rfl⟩ := Nat.exists_eq_add_of_le hin.1
      rw [hnew, Nat.add_sub_cancel_left, read_eq_byte_wordAt m k i (by omega)]
    next => rfl
  · rw [hstep, if_neg hsame, Memory.read_writeL, toBytes_length]
    split
    next hin => exact toBytes_getD (by omega)
    next => rfl

/-- The word after a step is the new value. -/
theorem stepMem_readN (m : Memory) (k : Nat) (a : AStep) :
    (stepMem m k a (wordAt m k)).readN k 4 = toBytes 4 (atomNew a.op a.ty (wordAt m k) a.d a.e).toNat := by
  refine List.map_congr_left fun i hi => ?_
  rw [stepMem_read, if_pos ⟨Nat.le_add_right k i, Nat.add_lt_add_left (List.mem_range.1 hi) k⟩, Nat.add_sub_cancel_left]

/-- The value of a word under the types of atomics (R92, R177). -/
theorem val_word {ty : Ty} (h : ty = .s32 ∨ ty = .n32 ∨ ty = .b32) (w : W32) : ty.val (w.zeroExtend 64) = if ty = .s32 then w.toInt else w.toNat := by
  have hw := w.isLt
  have hmod : (w.zeroExtend 64).toNat % 2 ^ 32 = w.toNat := by simpa using hw
  obtain rfl | rfl | rfl := h
  · simp only [Ty.val, intOf, Ty.width, Ty.isSigned, hmod, if_true, true_and, BitVec.toInt]
    split <;> split <;> push_cast <;> omega
  · simp only [Ty.val, intOf, Ty.width, Ty.isSigned, hmod]
    simp
  · simp only [Ty.val, intOf, Ty.width, Ty.isSigned, hmod]
    simp

/-! ## The first to its ordering point -/

theorem sameMst_false_iff {x e : Sent} : x.sameMst e = false ↔ ¬(x.entry.ikind = 22 ∧ e.entry.ikind = 22 ∧ x.sid = e.sid ∧ x.entry.ord = e.entry.ord) := by
  rw [← Bool.not_eq_true, not_iff_not]
  simp only [Sent.sameMst, Bool.and_eq_true, decide_eq_true_eq, and_assoc]
  rfl

theorem arrivable_iff {s : State} {core idx : Nat} {e : Sent} : arrivable s core idx = some e ↔ (s.core core).sent[idx]? = some e ∧
    ∀ x ∈ (s.core core).sent.take idx, pointOf x.u.key ≠ pointOf e.u.key ∧
      ¬(x.entry.ikind = 22 ∧ e.entry.ikind = 22 ∧ x.sid = e.sid ∧ x.entry.ord = e.entry.ord) := by
  simp only [arrivable, ← sameMst_false_iff]
  cases (s.core core).sent[idx]? with
  | none => simp
  | some y =>
    by_cases h : (List.take idx (s.core core).sent).all (fun x => decide (pointOf x.u.key ≠ pointOf y.u.key) && !x.sameMst y) = true
    · simp only [if_pos h, Option.some_inj]
      refine ⟨fun hy => ⟨hy, hy ▸ ?_⟩, fun hy => hy.1⟩
      simpa using h
    · simp only [if_neg h]
      refine ⟨nofun, fun hy => absurd ?_ h⟩
      obtain ⟨hsome, hall⟩ := hy
      obtain rfl := Option.some.inj hsome
      simpa using hall

/-! ## Writes -/

section
variable {s : State} {core idx : Nat} {e : Sent} {d : List Byte}

/-- A request carried changes only what the links have carried. -/
theorem sameButTraffic_carrySent (s : State) (core : Nat) (e : Sent) : s.SameButTraffic (carrySent s core e) := by
  unfold carrySent
  split
  · exact State.sameButTraffic_refl s
  · exact State.sameButTraffic_reach s _ _ _ _ _

@[simp] theorem carrySent_strands (s : State) (core : Nat) (e : Sent) : (carrySent s core e).strands = s.strands :=
  (sameButTraffic_carrySent s core e).field State.strands fun _ _ _ _ _ => rfl
@[simp] theorem carrySent_strand (s : State) (core : Nat) (e : Sent) (u : Nat) : (carrySent s core e).strand u = s.strand u :=
  (sameButTraffic_carrySent s core e).field (State.strand · u) fun _ _ _ _ _ => rfl
@[simp] theorem carrySent_core (s : State) (core : Nat) (e : Sent) (c : Nat) : (carrySent s core e).core c = s.core c :=
  (sameButTraffic_carrySent s core e).field (State.core · c) fun _ _ _ _ _ => rfl
@[simp] theorem carrySent_part (s : State) (core : Nat) (e : Sent) (p : Nat) : (carrySent s core e).part p = s.part p :=
  (sameButTraffic_carrySent s core e).field (State.part · p) fun _ _ _ _ _ => rfl

/-- The sent entry is taken out of its core. -/
@[simp] theorem dropSent_sent (s : State) (core idx : Nat) : ((dropSent s core idx).core core).sent = (s.core core).sent.eraseIdx idx := by
  rw [dropSent, State.core_setCore_same]

/-- A replay that finds its tag is suppressed (R330). -/
theorem suppressed_iff : suppressed s e = true ↔ e.entry.replayed = true ∧ (e.tag, e.u.unit) ∈ (s.part e.tag.part).tags := by
  rw [suppressed, replayDone, Bool.and_eq_true, List.contains_iff_mem]
  rfl

/-- A near write of an engine reaches the twin's allocation too (R370). -/
theorem engineWrite_read (s : State) (t : Strand) (k j : Nat) (b : List Byte) : (engineWrite s t k b).mem.read j =
    Claim.written (twinKey s t k) b j (if k ≤ j ∧ j < k + b.length then b.getD (j - k) 0 else s.mem.read j) := by
  unfold engineWrite Claim.written
  cases twinKey s t k with
  | none => exact Memory.read_writeL _ _ _ _
  | some k' => exact (Memory.read_writeL _ _ _ _).trans (if_congr Iff.rfl rfl (Memory.read_writeL _ _ _ _))

/-- What a write at its ordering point leaves in memory. -/
theorem writeSent_read (s : State) (e : Sent) (d : List Byte) (j : Nat) : (writeSent s e d).mem.read j =
    Claim.written (if e.snap = true then twinKey s (s.strand e.sid) e.u.key else none) d j
      (if e.u.key ≤ j ∧ j < e.u.key + d.length then d.getD (j - e.u.key) 0 else s.mem.read j) := by
  unfold writeSent
  split
  · exact engineWrite_read _ _ _ _ _
  · exact Memory.read_writeL _ _ _ _

/-- A write at its ordering point changes nothing but memory. -/
theorem writeSent_eq (s : State) (e : Sent) (d : List Byte) : writeSent s e d = { s with mem := (writeSent s e d).mem } := by
  unfold writeSent engineWrite
  split
  · dsimp only
    split <;> rfl
  · rfl

/-- Nor does its suppression change anything but the tags of its partition. -/
theorem performWrite_frame (s : State) (e : Sent) (d : List Byte) : (performWrite s e d).strands = s.strands ∧ (performWrite s e d).cores = s.cores := by
  unfold performWrite
  dsimp only
  split
  · exact ⟨rfl, rfl⟩
  · rw [writeSent_eq]
    exact ⟨rfl, rfl⟩

/-- The write that comes first to its ordering point is performed there. -/
theorem exec_writeArrival (harr : arrivable s core idx = some e) (hop : e.u.op = .write d) :
    let w := carrySent (performWrite (dropSent s core idx) e d) core e
    exec (.writeArrival core idx) s =
      .next (if e.engine then wakeAll (mstSettle (settle w e.sid e.entry.ord) e.sid e.entry.ord) else wakeOne w e.sid) := by
  intro w
  have hexec : exec (.writeArrival core idx) s = .next (if e.engine then wakeAll (engineArrived w e) else wakeOne w e.sid) := by
    show execWriteArrival core idx s = _
    simp only [execWriteArrival, harr, hop, w]
  rw [hexec]
  split
  next heng => rw [engineArrived, if_pos heng]; rfl
  next => rfl

end

/-! ## Steps -/

section
variable {s : State} {core idx : Nat} {e : Sent} {a : AStep} {ty : Ty} {old : W32}

/-- From `s` to `t` nothing has changed but strands. -/
def State.SameButStrands (s t : State) : Prop := t = { s with strands := t.strands }

theorem State.SameButStrands.field {α : Sort _} {s t : State} (h : s.SameButStrands t) (f : State → α)
    (hf : ∀ (s : State) l, f { s with strands := l } = f s) : f t = f s := (congrArg f h).trans (hf s _)

theorem State.SameButStrands.trans {s t w : State} (h : s.SameButStrands t) (g : t.SameButStrands w) : s.SameButStrands w := by
  unfold State.SameButStrands at h g ⊢
  rw [h] at g
  exact g

theorem sameButStrands_mirrorVal (s : State) (u ord lane : Nat) (v : W64) : s.SameButStrands (mirrorVal s u ord lane v) := by
  unfold mirrorVal
  dsimp only
  split <;> rfl

theorem sameButStrands_giveResult (s : State) (e : Sent) (ty : Ty) (old : W32) : s.SameButStrands (giveResult s e ty old).1 := by
  unfold giveResult
  dsimp only
  split
  · rfl
  · exact State.SameButStrands.trans (t := s.setStrand e.sid _) rfl (sameButStrands_mirrorVal _ _ _ _ _)

theorem sameButStrands_stepAcquires (s : State) (e : Sent) : s.SameButStrands (stepAcquires s e) := by
  unfold stepAcquires
  split <;> rfl

/-- The strands that a returned value reaches: the strand's own and its shadow's (R178, R370). -/
theorem mirrorVal_strand (s : State) {u ord lane : Nat} {v : W64} {x : Nat} (hx : (s.strand u).twin ≠ some x) :
    (mirrorVal s u ord lane v).strand x = s.strand x := by
  unfold mirrorVal
  dsimp only
  split
  next w _ htwin => exact State.strand_setStrand_ne _ _ _ _ fun h => hx (h ▸ htwin)
  next => rfl

theorem giveResult_strand (s : State) (e : Sent) (ty : Ty) (old : W32) {x : Nat} (hx : x ≠ e.sid) (htwin : (s.strand e.sid).twin ≠ some x) :
    (giveResult s e ty old).1.strand x = s.strand x := by
  unfold giveResult
  dsimp only
  split
  · rfl
  · refine (mirrorVal_strand _ ?_).trans (State.strand_setStrand_ne _ _ _ _ hx)
    rw [State.strand_setStrand_same]
    exact htwin

theorem stepAcquires_strand (s : State) (e : Sent) {x : Nat} (hx : x ≠ e.sid) : (stepAcquires s e).strand x = s.strand x := by
  unfold stepAcquires
  split
  · exact State.strand_setStrand_ne _ _ _ _ hx
  · rfl

theorem stepAcquires_rets (s : State) (e : Sent) : ((stepAcquires s e).strand e.sid).rets = (s.strand e.sid).rets := by
  unfold stepAcquires
  split
  · rw [State.strand_setStrand_same]
    rfl
  · rfl

/-- The returning instruction that awaits a step. -/
def awaitsStep (e : Sent) (r : Ret) : Bool := decide (r.ord = e.entry.ord) && (decide (r.kind = .atom) || decide (r.kind = .atoms))

/-- The value that R178 gives for a step. -/
theorem stepValue_eq {kind : RKind} {ty : Ty} (old : W32) :
    stepValue kind ty old = if kind = .atoms ∧ ty = .s32 then old.signExtend 64 else old.setWidth 64 := by
  cases kind <;> cases ty <;> rfl

/-- A strand that is no copy of a braced pair has nobody to mirror. -/
theorem mirrorVal_single {u ord lane : Nat} {v : W64} (h : (s.strand u).twin = none) : mirrorVal s u ord lane v = s := by
  unfold mirrorVal
  dsimp only
  split
  next w _ htwin => rw [h] at htwin; cases htwin
  next => rfl

/-- A single strand that awaits a step has its value, and whether it awaited it is known. -/
theorem giveResult_of_awaits {r : Ret} (htwin : (s.strand e.sid).twin = none) (hr : (s.strand e.sid).rets.find? (awaitsStep e) = some r) :
    giveResult s e ty old = (s.setStrand e.sid ((s.strand e.sid).perform e.entry.ord e.u.unit (stepValue r.kind ty old)),
      r.units.any (fun y => decide (y.lane = e.u.unit))) := by
  have hfind : (s.strand e.sid).rets.find? (fun r => decide (r.ord = e.ord) && (decide (r.kind = .atom) || decide (r.kind = .atoms))) = some r := hr
  simp only [giveResult, hfind]
  rw [mirrorVal_single]
  · rfl
  · rw [State.strand_setStrand_same]
    exact htwin

/-- A strand that awaits the unit of a step waits for its result. -/
theorem waits_of_awaits {r : Ret} (ty : Ty) (htwin : (s.strand e.sid).twin = none) (hr : (s.strand e.sid).rets.find? (awaitsStep e) = some r)
    (hunit : ∃ x ∈ r.units, x.lane = e.u.unit) : (giveResult s e ty old).2 = true := by
  rw [giveResult_of_awaits htwin hr]
  simpa using hunit

/-- Every unit of the lane that has been performed has the value. -/
theorem perform_val {t : Strand} {ord lane : Nat} {v : W64} {r : Ret} (hr : r ∈ (t.perform ord lane v).rets) (hord : r.ord = ord)
    {x : RUnit} (hx : x ∈ r.units) (hlane : x.lane = lane) : x.val = some v := by
  obtain ⟨r0, -, rfl⟩ := List.mem_map.1 hr
  by_cases h0 : r0.ord = ord
  · rw [if_pos h0] at hx
    obtain ⟨x0, -, rfl⟩ := List.mem_map.1 hx
    by_cases hx0 : x0.lane = lane
    · rw [if_pos hx0]
    · rw [if_neg hx0] at hlane
      exact absurd hlane hx0
  · rw [if_neg h0] at hord
    exact absurd hord h0

/-- A step changes nothing but memory. -/
theorem makeStep_eq (s : State) (u k : Nat) (a : AStep) (old : W32) : makeStep s u k a old = { s with mem := (makeStep s u k a old).mem } := by
  unfold makeStep
  dsimp only
  split <;> rfl

@[simp] theorem makeStep_strand (s : State) (u k : Nat) (a : AStep) (old : W32) (v : Nat) : (makeStep s u k a old).strand v = s.strand v := by
  rw [makeStep_eq]
  rfl

@[simp] theorem makeStep_cores (s : State) (u k : Nat) (a : AStep) (old : W32) : (makeStep s u k a old).cores = s.cores := by rw [makeStep_eq]

/-- A step leaves the new value in its word, and in the twin's allocation too (R177, R370). -/
theorem makeStep_read (s : State) (u k j : Nat) (a : AStep) :
    let new := atomNew a.op a.ty (wordAt s.mem k) a.d a.e
    (makeStep s u k a (wordAt s.mem k)).mem.read j = Claim.written (twinKey s (s.strand u) k) (toBytes 4 new.toNat) j
      (if k ≤ j ∧ j < k + 4 then BitVec.ofNat 8 (new.toNat / 256 ^ (j - k)) else s.mem.read j) := by
  intro new
  unfold makeStep Claim.written
  cases twinKey s (s.strand u) k with
  | none => exact stepMem_read s.mem k j a
  | some k' =>
    refine (Memory.read_writeL _ _ _ _).trans ?_
    rw [stepMem_readN]
    exact if_congr Iff.rfl rfl (stepMem_read s.mem k j a)

/-- A step that is no replay: its word is read and written at once, and its result is kept while it is awaited (R177, R178, R329). -/
theorem performStep_fresh (h : e.entry.replayed = false) :
    let old := wordAt s.mem e.u.key
    let x := giveResult (makeStep s e.sid e.u.key a old) e a.ty old
    performStep s e a = if a.res && x.2 then
      x.1.setPart e.tag.part { x.1.part e.tag.part with results := (s.part e.tag.part).results ++ [((e.tag, e.u.unit), old)] } else x.1 := by
  have hkept : keptResult s e = none := if_neg (by rw [show e.replayed = false from h]; exact Bool.false_ne_true)
  simp only [performStep, hkept]
  rfl

/-- What a step that is no replay leaves of the state (R177, R178, R329). -/
theorem performStep_fresh_frame (h : e.entry.replayed = false) :
    let v := makeStep s e.sid e.u.key a (wordAt s.mem e.u.key)
    let x := giveResult v e a.ty (wordAt s.mem e.u.key)
    (performStep s e a).mem = v.mem ∧ (performStep s e a).cores = s.cores ∧ (∀ u, (performStep s e a).strand u = x.1.strand u) ∧
      (a.res = true → x.2 = true →
        ((performStep s e a).part e.tag.part).results = (s.part e.tag.part).results ++ [((e.tag, e.u.unit), wordAt s.mem e.u.key)]) := by
  intro v x
  have hcores : x.1.cores = s.cores :=
    ((sameButStrands_giveResult v e a.ty _).field State.cores fun _ _ => rfl).trans (makeStep_cores _ _ _ _ _)
  rw [show performStep s e a = _ from performStep_fresh h]
  by_cases hkeep : (a.res && x.2) = true
  · rw [if_pos hkeep]
    refine ⟨giveResult_mem _ _ _ _, hcores, fun _ => rfl, fun _ _ => ?_⟩
    rw [State.part_setPart_same]
  · rw [if_neg hkeep]
    exact ⟨giveResult_mem _ _ _ _, hcores, fun _ => rfl, fun hres hwaits => absurd (by rw [hres, hwaits]; rfl) hkeep⟩

/-- A replay that finds its result takes it and frees its slot (R331). -/
theorem performStep_kept {x : W32} (h : keptResult s e = some x) :
    performStep s e a = (giveResult (s.setPart e.tag.part { s.part e.tag.part with
      results := (s.part e.tag.part).results.filter (fun y => decide (y.1 ≠ (e.tag, e.u.unit))) }) e a.ty x).1 := by
  simp only [performStep, h]

/-- The core and the request of a step take nothing back of what was performed. -/
theorem arrived_frame_step (s : State) (core : Nat) (e : Sent) :
    let w := carrySent (stepAcquires s e) core e
    w.mem = s.mem ∧ (∀ c, w.core c = s.core c) ∧ (∀ p, w.part p = s.part p) ∧ (∀ u, u ≠ e.sid → w.strand u = s.strand u) ∧
      (w.strand e.sid).rets = (s.strand e.sid).rets := by
  have hsame := sameButStrands_stepAcquires s e
  refine ⟨?_, fun c => ?_, fun p => ?_, fun u hu => ?_, ?_⟩
  · rw [carrySent_mem, stepAcquires_mem]
  · rw [carrySent_core]
    exact hsame.field (State.core · c) fun _ _ => rfl
  · rw [carrySent_part]
    exact hsame.field (State.part · p) fun _ _ => rfl
  · rw [carrySent_strand, stepAcquires_strand s e hu]
  · rw [carrySent_strand, stepAcquires_rets]

/-- The values of a step that a single strand awaits, once it has them. -/
theorem val_of_giveResult {r : Ret} (htwin : (s.strand e.sid).twin = none) (hr : (s.strand e.sid).rets.find? (awaitsStep e) = some r) :
    ∀ r' ∈ ((giveResult s e ty old).1.strand e.sid).rets, r'.ord = e.entry.ord → ∀ x ∈ r'.units, x.lane = e.u.unit →
      x.val = some (if r.kind = .atoms ∧ ty = .s32 then old.signExtend 64 else old.setWidth 64) := by
  intro r' hr' hord x hx hlane
  rw [giveResult_of_awaits htwin hr, State.strand_setStrand_same] at hr'
  rw [← stepValue_eq]
  exact perform_val hr' hord hx hlane

/-- The step that comes first to its ordering point is made there, if there is a slot for its result. -/
theorem exec_atomicStep (harr : arrivable s core idx = some e) (hop : e.u.op = .atom a) (hroom : resultsFull s e = false) :
    exec (.atomicStep core idx) s = .next (wakeOne (carrySent (stepAcquires (performStep (dropSent s core idx) e a) e) core e) e.sid) := by
  show execAtomicStep core idx s = _
  simp only [execAtomicStep, harr, hop, hroom]
  rfl

end

/-- Settles O24: the first to its ordering point is performed there, as a write or as a step; each part of the state is read off what was performed. -/
theorem sentUnitsAct : Obligations.SentUnitsAct := by
  refine ⟨fun s core idx e => arrivable_iff, ?_, ?_, ?_⟩
  · intro core idx s e d harr hop
    obtain ⟨hstrands, hcores⟩ := performWrite_frame (dropSent s core idx) e d
    refine ⟨_, exec_writeArrival harr hop, (carrySent_strands _ _ _).trans hstrands, ?_, ?_⟩
    · rw [carrySent_core, State.core, hcores]
      exact dropSent_sent s core idx
    · intro p
      have hsup := suppressed_iff (s := dropSent s core idx) (e := e)
      by_cases hreplay : e.entry.replayed = true ∧ (e.tag, e.u.unit) ∈ p.tags
      · have hperform : performWrite (dropSent s core idx) e d = (dropSent s core idx).setPart e.tag.part _ := if_pos (hsup.2 hreplay)
        rw [if_pos hreplay, hperform, carrySent_mem, carrySent_part]
        exact ⟨fun _ => rfl, State.part_setPart_same _ _ _⟩
      · have hperform : performWrite (dropSent s core idx) e d = writeSent (dropSent s core idx) e d := if_neg fun h => hreplay (hsup.1 h)
        rw [if_neg hreplay, hperform, carrySent_mem, carrySent_part]
        exact ⟨fun k => writeSent_read _ _ _ _, by rw [writeSent_eq]; rfl⟩
  · intro core idx s e a harr hop hty hrep hroom old v first second new same
    have hold : old = wordAt s.mem e.u.key := congrArg (BitVec.ofNat 32) (little_eq_ofBytes _)
    have hnew : new = atomNew a.op a.ty (wordAt s.mem e.u.key) a.d a.e := by
      simp only [new, v, hold, atomNew, val_word hty]
      rfl
    obtain ⟨hmem, hcores, hstrand, hkept⟩ := performStep_fresh_frame (s := dropSent s core idx) (a := a) hrep
    obtain ⟨hmem', hcore', hpart', hstrand', hrets'⟩ := arrived_frame_step (performStep (dropSent s core idx) e a) core e
    have hfull : resultsFull s e = false := by simp [resultsFull, Nat.not_le.2 hroom]
    refine ⟨_, exec_atomicStep harr hop hfull, ?_, fun k => ?_, fun u hu htwin => ?_, fun r htwin hr => ⟨fun hunit hres => ?_, ?_⟩⟩
    · rw [hcore', State.core, hcores]
      exact dropSent_sent s core idx
    · rw [hmem', hmem, hnew]
      exact makeStep_read _ _ _ _ _
    · rw [hstrand' u hu, hstrand, giveResult_strand _ _ _ _ hu (by rwa [makeStep_strand]), makeStep_strand]
      rfl
    · rw [hpart', hkept hres (waits_of_awaits _ (by rwa [makeStep_strand]) (by rwa [makeStep_strand]) hunit), hold]
      rfl
    · rw [hrets', hstrand, hold]
      exact val_of_giveResult (by rwa [makeStep_strand]) (by rwa [makeStep_strand])
  · intro core idx s e a x harr hop hrep htwin p hkept
    have hres : keptResult s e = some x := by
      rw [keptResult, if_pos (show e.replayed = true from hrep)]
      exact congrArg (Option.map Prod.snd) hkept
    have hfull : resultsFull s e = false := by simp [resultsFull, hres]
    have hperform : performStep (dropSent s core idx) e a = _ := performStep_kept hres
    obtain ⟨hmem', hcore', hpart', hstrand', hrets'⟩ := arrived_frame_step (performStep (dropSent s core idx) e a) core e
    have hgive := sameButStrands_giveResult ((dropSent s core idx).setPart e.tag.part { p with
      results := p.results.filter (fun y => decide (y.1 ≠ (e.tag, e.u.unit))) }) e a.ty x
    refine ⟨_, exec_atomicStep harr hop hfull, ?_, ?_, ?_, fun u hu => ?_, fun r hr => ?_⟩
    · rw [hmem', hperform, giveResult_mem]
      rfl
    · rw [hcore', hperform]
      exact (hgive.field (fun t => (t.core core).sent) fun _ _ => rfl).trans (dropSent_sent s core idx)
    · rw [hpart', hperform]
      exact (hgive.field (State.part · e.tag.part) fun _ _ => rfl).trans (State.part_setPart_same _ _ _)
    · rw [hstrand' u hu, hperform]
      exact giveResult_strand _ _ _ _ hu (htwin.trans_ne nofun)
    · rw [hrets', hperform]
      exact val_of_giveResult htwin hr

end Sys2Proof.Machine
end

section
namespace Sys2Proof.Machine

/-! # The head record of a launch queue (O42) -/

/-! ## The checks of R266 -/

theorem inWindow_iff {p : Part} {o n unit : Nat} : inWindow p o n unit = true ↔ Claim.Inside p o n unit := by
  simp [inWindow, Claim.Inside]

theorem inCounters_iff {p : Part} {c : Nat} : inCounters p c = true ↔ p.rcd.cbase ≤ c ∧ c < p.rcd.cbase + p.rcd.ccnt := by
  simp [inCounters]

/-- The checks of the model are the rules of R266 but for privilege. -/
theorem recordOk_iff {p : Part} {r : TaskRec} : recordOk p r = true ↔ Claim.RecordFits p r := by
  have hreserved : recField r 366 18 = 0 ↔ r.extractLsb' 366 18 = 0 := by
    rw [recField, ← BitVec.toNat_inj]
    rfl
  have hpair : (!(recPair r && decide (recStrands r = 1))) = true ↔ (recPair r = true → recStrands r ≠ 1) := by cases recPair r <;> simp
  simp only [recordOk, Bool.and_eq_true, not_or_iff, hpair, decide_eq_true_eq, hreserved, inWindow_iff, inCounters_iff, and_assoc]
  constructor
  · rintro ⟨h1, h2, h3, h4, h5, h6, h7, h8, h9, h10, h11, h12⟩
    exact ⟨h1, h2, h3, h4, h5, h6, h7, h8, h9, h10, h11, h12⟩
  · rintro ⟨h1, h2, h3, h4, h5, h6, h7, h8, h9, h10, h11, h12⟩
    exact ⟨h1, h2, h3, h4, h5, h6, h7, h8, h9, h10, h11, h12⟩

/-- The record at a window offset, in little-endian order (R3, R264). -/
theorem readRecord_eq (m : Memory) (p : Part) (o : Nat) : readRecord m p o = BitVec.ofNat 1024 (Claim.little (m.readN (windowKey p o) 128)) := by
  rw [little_eq_ofBytes]
  rfl

section
variable {p : Part} {r : TaskRec} {kok : Bool}

theorem recordErr_privilege (h : recPrv r = true ∧ kok = false) : recordErr p kok r = 1 := by simp [recordErr, h.1, h.2]

theorem recordErr_eq (h : ¬(recPrv r = true ∧ kok = false)) : recordErr p kok r = if recordOk p r then 0 else 2 := by
  rw [recordErr, if_neg (by simpa using h)]

end

/-! ## Launch queues of a partition -/

section
variable {p : Part} {k q : Nat} {x : LQueue}

@[simp] theorem Part.queue_setQueue_same (p : Part) (q : Nat) (x : LQueue) : (p.setQueue q x).queue q = x := Tbl.get_set_same _ _ _ _
theorem Part.queue_setQueue_ne (p : Part) (x : LQueue) (h : k ≠ q) : (p.setQueue q x).queue k = p.queue k := Tbl.get_set_ne _ _ _ h
@[simp] theorem Part.launch_setLaunch_same (p : Part) (k : Nat) (l : Launch) : (p.setLaunch k l).launch k = l := Tbl.get_set_same _ _ _ _

/-- A fresh queue that is refused halts on its head record (R266). -/
theorem refuse_of_fresh (h : x.stage = .fresh) (e : Nat) : x.refuse e = { x with err := e, erridx := x.head, halt := true } := by
  rw [LQueue.refuse, ← h]

end

/-! ## Reads of the scheduler -/

section
variable {s t : State} {part o n : Nat}

theorem sameButTraffic_schedRead (s : State) (part o n : Nat) : s.SameButTraffic (s.schedRead part o n) := State.sameButTraffic_carryWindow s part _ o n 1

/-- A partition set after a read: only that partition has changed, and the counts of traffic. -/
theorem readsPart_setPart (h : s.SameButTraffic t) (part : Nat) (x : Part) : Claim.ReadsPart s (t.setPart part x) part := by
  have ht : t = Claim.withTraffic s t := h
  refine ⟨?_, fun q hq => (State.part_setPart_ne _ _ _ _ hq).trans (h.field (State.part · q) fun _ _ _ _ _ => rfl)⟩
  exact congrArg (fun w : State => { w with parts := (t.setPart part x).parts }) ht

end

/-! ## Frame counts (R269, R270) -/

section
variable {m : Memory} {p : Part} {o : Nat} {w : CountWord} {q : LQueue} {old : Option W32}

@[simp] theorem CountWord.note_off (m : Memory) (p : Part) (w : CountWord) : (CountWord.note m p w).off = w.off := by
  unfold CountWord.note
  split <;> rfl

/-- A history brought up to the present ends with the present value of its word. -/
theorem CountWord.note_getLast (m : Memory) (p : Part) (w : CountWord) : (CountWord.note m p w).hist.getLast? = some (countWord m p w.off) := by
  unfold CountWord.note
  split
  next h => exact h
  next => exact List.getLast?_concat

/-- A change of the histories that keeps their words changes what is found of a word. -/
theorem word_map {f : CountWord → CountWord} (hf : ∀ w, (f w).off = w.off) (p : Part) (o : Nat) :
    Part.word { p with words := p.words.map f } o = (p.word o).map f := by
  have hoff : (fun w => decide (w.off = o)) ∘ f = fun w => decide (w.off = o) := funext fun w => by simp [hf]
  rw [Part.word, List.find?_map, hoff]
  rfl

/-- So does that of every word that is found after the histories have been brought up to the present. -/
theorem noteWords_word (h : (p.noteWords m).word o = some w) : w.off = o ∧ w.hist[w.last]? = some (countWord m p o) := by
  obtain ⟨w0, -, rfl⟩ := List.mem_map.1 (List.mem_of_find?_eq_some h)
  have hoff : (CountWord.note m p w0).off = o := of_decide_eq_true (List.find?_some (p := fun w : CountWord => decide (w.off = o)) h)
  have hlast := CountWord.note_getLast m p w0
  rw [List.getLast?_eq_getElem?, ← CountWord.note_off m p w0, hoff] at hlast
  exact ⟨hoff, hlast⟩

/-- The place of a read is that of the present value, or, under a relaxed read, one of the value named that is neither before the last read nor before the
record's publication. -/
theorem countPlace_cases (q : LQueue) (w : CountWord) (old : Option W32) : countPlace q w old = w.last ∨
    ∃ v, recCw q.cur = false ∧ old = some v ∧ w.hist[countPlace q w old]? = some v ∧ w.read ≤ countPlace q w old ∧
      ∀ e, q.counts.find? (fun e => decide (e.1 = q.head) && decide (e.2.1 = w.off)) = some e → e.2.2 ≤ countPlace q w old := by
  unfold countPlace
  extract_lets lo
  cases old with
  | none => exact .inl rfl
  | some v =>
    dsimp only
    cases hcw : recCw q.cur with
    | true => exact .inl rfl
    | false =>
      cases hfind : (List.range' lo (w.last + 1 - lo)).find? (fun i => decide (w.hist[i]? = some v)) with
      | none => exact .inl rfl
      | some i =>
        have hval : w.hist[i]? = some v := of_decide_eq_true (List.find?_some (p := fun i => decide (w.hist[i]? = some v)) hfind)
        have hlo : lo ≤ i := (List.mem_range'_1.1 (List.mem_of_find?_eq_some hfind)).1
        refine .inr ⟨v, rfl, rfl, hval, (Nat.le_max_left _ _).trans hlo, fun e he => ?_⟩
        have hpub : e.2.2 ≤ lo := by
          simp only [lo, he]
          exact Nat.le_max_right _ _
        exact hpub.trans hlo

/-- The count that is taken is the present value, or an older one that its word has held since the record was published and since the last read; the
history keeps its place as the last read. -/
theorem takeCount_spec (m : Memory) (p : Part) (q : LQueue) (old : Option W32) :
    let o := recCptr q.cur
    let x := p.takeCount m q old
    (x.1 = countWord m p o ∨ recCw q.cur = false ∧ old = some x.1 ∧ ∃ w j, (p.noteWords m).word o = some w ∧ w.hist[j]? = some x.1 ∧ w.read ≤ j ∧
      ∀ e, q.counts.find? (fun e => decide (e.1 = q.head) && decide (e.2.1 = w.off)) = some e → e.2.2 ≤ j) ∧
    (∀ w, x.2.word o = some w → w.hist[w.read]? = some x.1) ∧ x.2 = { p with words := x.2.words } := by
  intro o x
  cases hword : (p.noteWords m).word o with
  | none =>
    have hx : x = (countWord m p o, p) := by
      show p.takeCount m q old = _
      simp only [Part.takeCount, show (p.noteWords m).word (recCptr q.cur) = none from hword]
      rfl
    rw [hx]
    have hnone : p.word o = none := by
      have hnote : (p.noteWords m).word o = (p.word o).map (CountWord.note m p) := word_map (CountWord.note_off m p) p o
      rwa [hnote, Option.map_eq_none_iff] at hword
    exact ⟨.inl rfl, fun w hw => absurd (hnone.symm.trans hw) nofun, rfl⟩
  | some w =>
    obtain ⟨hoff, hlast⟩ := noteWords_word hword
    have hx : x = (w.hist.getD (countPlace q w old) 0, { p.noteWords m with
        words := (p.noteWords m).words.map (fun y => if y.off = o then { y with read := countPlace q w old } else y) }) := by
      show p.takeCount m q old = _
      simp only [Part.takeCount, show (p.noteWords m).word (recCptr q.cur) = some w from hword]
      rfl
    have hfound (w' : CountWord) (hw' : x.2.word o = some w') : w' = { w with read := countPlace q w old } := by
      rw [hx] at hw'
      have hmap := word_map (f := fun y => if y.off = o then { y with read := countPlace q w old } else y) (fun y => by split <;> rfl) (p.noteWords m) o
      rw [hword, Option.map_some, if_pos hoff] at hmap
      exact (Option.some.inj (hmap.symm.trans hw')).symm
    have hvalue {v : W32} (hv : w.hist[countPlace q w old]? = some v) : x.1 = v := by
      rw [hx, List.getD_eq_getElem?_getD, hv]
      rfl
    have hplace : w.hist[countPlace q w old]? = some x.1 := by
      obtain hplace | ⟨v, -, -, hv, -, -⟩ := countPlace_cases q w old
      · rw [← hplace] at hlast
        rw [hlast, hvalue hlast]
      · rw [hv, hvalue hv]
    refine ⟨?_, fun w' hw' => by rw [hfound w' hw']; exact hplace, by rw [hx]; rfl⟩
    obtain hpresent | ⟨v, hcw, hold, hv, hread, hpub⟩ := countPlace_cases q w old
    · rw [← hpresent] at hlast
      exact .inl (hvalue hlast)
    · exact .inr ⟨hcw, hold.trans (congrArg some (hvalue hv).symm), w, _, rfl, hplace, hread, hpub⟩

end

/-! ## The steps -/

section
variable {s : State} {part q : Nat}

/-- The check of a fresh head record (R266, R269). -/
theorem exec_recordHeadCheck (hst : (s.part part).st ≠ .free) (hq : q < 8) (hhalt : ((s.part part).queue q).halt = false)
    (hfresh : ((s.part part).queue q).stage = .fresh) (hne : ((s.part part).queue q).head ≠ ((s.part part).queue q).tail) :
    let p := s.part part
    let x := p.queue q
    let r := readRecord s.mem p (x.at x.head)
    exec (.recordHeadCheck part q) s = .next ((s.schedRead part (x.at x.head) 128).setPart part (p.setQueue q
      (if recordErr p x.kok r ≠ 0 then x.refuse (recordErr p x.kok r)
       else { x with stage := if recCw r = true ∧ s.counter (recCtr r) ≠ 0 then .waiting false else .satisfied, cur := r }))) := by
  intro p x r
  have hcounter : (s.schedRead part (x.at x.head) 128).counter (recCtr r) = s.counter (recCtr r) :=
    (sameButTraffic_schedRead _ _ _ _).field (State.counter · (recCtr r)) fun _ _ _ _ _ => rfl
  have hgo : ¬(8 ≤ q ∨ p.st = .free ∨ x.halt = true ∨ x.stage ≠ .fresh ∨ x.head = x.tail) := by
    simp [p, x, hst, hhalt, hfresh, hne, hq]
  refine (if_neg hgo).trans ?_
  by_cases herr : recordErr p x.kok r = 0
  · have hstage : (if recCw r && decide ((s.schedRead part (x.at x.head) 128).counter (recCtr r) ≠ 0) then Stage.waiting false else .satisfied) =
        if recCw r = true ∧ s.counter (recCtr r) ≠ 0 then Stage.waiting false else .satisfied := by
      rw [hcounter]
      simp only [Bool.and_eq_true, decide_eq_true_eq]
    rw [if_neg (not_not.2 herr), if_neg (not_not.2 herr), ← hstage]
  · exact (if_pos herr).trans (by rw [if_pos herr])

/-- What the head record of a queue counts, and its partition with what has been read (R267, R269). -/
def Part.counted (m : Memory) (p : Part) (x : LQueue) (old : Option W32) : W32 × Part := if recFcm x.cur then p.takeCount m x old else (0, p)

/-- The frame count of a head record from the word it has read. -/
def frameCount (r : TaskRec) (v : W32) : Nat := if recFcm r = true then v.toNat else recFc r

/-- The state as the scheduler has read the word of a head record that names one. -/
def State.countRead (s : State) (part : Nat) (x : LQueue) : State := if recFcm x.cur then s.schedRead part (recCptr x.cur) 4 else s

/-- The launch of a head record with a frame count. -/
def headLaunch (x : LQueue) (q n : Nat) (id : W32) : Launch :=
  { record := x.cur, count := n, launchId := id, home := q, next := 0, queue := some q, succ := none, succRead := false, succId := none }

/-- The partition whose next LAUNCHID is taken. -/
def Part.numbered (p : Part) : Part := { p with nextLaunch := p.nextLaunch + 1 }

/-- What becomes of a head record once the value of its word is read: of no frames it is consumed, otherwise its launch is created. -/
def State.startLaunch (s : State) (part q : Nat) (x : LQueue) (c : W32 × Part) : State :=
  if frameCount x.cur c.1 = 0 then s.setPart part (c.2.numbered.setQueue q x.consume)
  else { s with next := s.next + 1 }.setPart part
    ((c.2.numbered.setLaunch s.next (headLaunch x q (frameCount x.cur c.1) c.2.nextLaunch)).setQueue q { x with stage := .launched s.next })

theorem sameButTraffic_countRead (s : State) (part : Nat) (x : LQueue) : s.SameButTraffic (s.countRead part x) := by
  unfold State.countRead
  split
  · exact sameButTraffic_schedRead _ _ _ _
  · rfl

/-- The read of the frame count of a satisfied head record: its launch is created, or the record consumed (R269). -/
theorem exec_frameCountRead (hst : (s.part part).st ≠ .free) (hsat : ((s.part part).queue q).stage = .satisfied)
    (hhalt : ((s.part part).queue q).halt = false) (old : Option W32) :
    let p := s.part part
    let x := p.queue q
    exec (.frameCountRead part q old) s = .next ((s.countRead part x).startLaunch part q x (p.counted s.mem x old)) := by
  intro p x
  have hmem : (s.countRead part x).mem = s.mem := (sameButTraffic_countRead s part x).field State.mem fun _ _ _ _ _ => rfl
  have hgo : (decide (p.st ≠ .free) && decide (x.stage = .satisfied) && !x.halt) = true := by simp [p, x, hst, hsat, hhalt]
  refine (if_pos hgo).trans ?_
  have hcounted : (if recFcm x.cur then p.takeCount (s.countRead part x).mem x old else (0, p)) = p.counted s.mem x old := by
    rw [hmem]
    rfl
  rw [← hcounted]
  exact (apply_ite Host.Outcome.next _ _ _).symm

/-- What a head record counts: the rules of `takeCount_spec` where it names a word; only the histories of the partition change. -/
theorem counted_spec (m : Memory) (p : Part) (x : LQueue) (old : Option W32) :
    let o := recCptr x.cur
    let c := p.counted m x old
    (recFcm x.cur = true → c.1 = countWord m p o ∨ recCw x.cur = false ∧ old = some c.1 ∧
      ∃ w j, (p.noteWords m).word o = some w ∧ w.hist[j]? = some c.1 ∧ w.read ≤ j ∧
        ∀ e, x.counts.find? (fun e => decide (e.1 = x.head) && decide (e.2.1 = w.off)) = some e → e.2.2 ≤ j) ∧
    (recFcm x.cur = true → ∀ w, c.2.word o = some w → w.hist[w.read]? = some c.1) ∧ c.2 = { p with words := c.2.words } := by
  intro o c
  cases hfcm : recFcm x.cur with
  | false =>
    have hc : c = (0, p) := if_neg (by simp [hfcm])
    exact ⟨nofun, nofun, by rw [hc]⟩
  | true =>
    have hc : c = p.takeCount m x old := if_pos hfcm
    obtain ⟨hvalue, hhist, hkept⟩ := takeCount_spec m p x old
    rw [hc]
    exact ⟨fun _ => hvalue, fun _ => hhist, hkept⟩

/-- The partition after the read of a frame count, whether its launch was created or not: the LAUNCHID is used, one queue has changed. -/
theorem part_startLaunch (s : State) (part q : Nat) (x : LQueue) (c : W32 × Part) :
    let p := (s.startLaunch part q x c).part part
    p.nextLaunch = c.2.nextLaunch + 1 ∧ p.words = c.2.words ∧ (∀ k, k ≠ q → p.queue k = c.2.queue k) ∧
      if frameCount x.cur c.1 = 0 then p.queue q = x.consume
      else p.queue q = { x with stage := .launched s.next } ∧ p.launch s.next = headLaunch x q (frameCount x.cur c.1) c.2.nextLaunch := by
  intro p
  by_cases hn : frameCount x.cur c.1 = 0
  · have hp : p = c.2.numbered.setQueue q x.consume := by
      simp only [p, State.startLaunch, if_pos hn, State.part_setPart_same]
    rw [hp, if_pos hn, Part.queue_setQueue_same]
    exact ⟨rfl, rfl, fun k hk => Part.queue_setQueue_ne _ _ hk, rfl⟩
  · have hp : p = (c.2.numbered.setLaunch s.next (headLaunch x q (frameCount x.cur c.1) c.2.nextLaunch)).setQueue q { x with stage := .launched s.next } := by
      simp only [p, State.startLaunch, if_neg hn, State.part_setPart_same]
    rw [hp, if_neg hn, Part.queue_setQueue_same]
    exact ⟨rfl, rfl, fun k hk => Part.queue_setQueue_ne _ _ hk, rfl, Part.launch_setLaunch_same _ _ _⟩

theorem startLaunch_kept (s : State) (part q : Nat) (x : LQueue) (c : W32 × Part) :
    (s.startLaunch part q x c).mem = s.mem ∧ (s.startLaunch part q x c).strands = s.strands := by
  unfold State.startLaunch
  split <;> exact ⟨rfl, rfl⟩

end

/-- Settles O42: the three steps of a head record, each by what its event does to the queue. -/
theorem launchQueueSteps : Obligations.LaunchQueueSteps := by
  intro part q s p x hst
  refine ⟨fun hq hhalt hfresh hne => ?_, fun hwait => ?_, fun hsat hhalt old => ?_⟩
  · intro r refused
    have hr : readRecord s.mem p (x.at x.head) = r := readRecord_eq _ _ _
    have hexec := exec_recordHeadCheck hst hq hhalt hfresh hne
    simp only at hexec
    rw [hr] at hexec
    refine ⟨_, hexec, readsPart_setPart (sameButTraffic_schedRead _ _ _ _) _ _, ?_, fun k hk => ?_, fun hpriv => ?_, fun hpriv hbad => ?_, fun hpriv hok => ?_⟩
    all_goals rw [State.part_setPart_same]
    · rfl
    · exact Part.queue_setQueue_ne _ _ hk
    · rw [Part.queue_setQueue_same, recordErr_privilege hpriv]
      exact refuse_of_fresh hfresh 1
    · rw [Part.queue_setQueue_same, recordErr_eq hpriv, if_neg (mt recordOk_iff.1 hbad)]
      exact refuse_of_fresh hfresh 2
    · rw [Part.queue_setQueue_same, recordErr_eq hpriv, if_pos (recordOk_iff.2 hok)]
      rfl
  · have hexec : exec (.counterTrigger part q) s = .next (s.setPart part (p.setQueue q { x with stage := .satisfied })) :=
      if_pos (Bool.and_eq_true_iff.2 ⟨decide_eq_true hst, decide_eq_true hwait⟩)
    refine ⟨_, hexec, ⟨rfl, fun k hk => State.part_setPart_ne _ _ _ _ hk⟩, ?_⟩
    rw [State.part_setPart_same, Part.queue_setQueue_same]
  · intro r now
    have hnow : now = countWord s.mem p (recCptr r) := congrArg (BitVec.ofNat 32) (little_eq_ofBytes _)
    obtain ⟨hvalue, hhist, hcounted⟩ := counted_spec s.mem p x old
    have hread := sameButTraffic_countRead s part x
    have hmem := hread.field State.mem fun _ _ _ _ _ => rfl
    have hstrands := hread.field State.strands fun _ _ _ _ _ => rfl
    have hunit := hread.field State.next fun _ _ _ _ _ => rfl
    obtain ⟨hid, hwords, hqueues, hend⟩ := part_startLaunch (s.countRead part x) part q x (p.counted s.mem x old)
    obtain ⟨hmemKept, hstrandsKept⟩ := startLaunch_kept (s.countRead part x) part q x (p.counted s.mem x old)
    have hnumber : (p.counted s.mem x old).2.nextLaunch = p.nextLaunch := by rw [hcounted]
    refine ⟨_, (p.counted s.mem x old).1, exec_frameCountRead hst hsat hhalt old, ?_, hmemKept.trans hmem, hstrandsKept.trans hstrands, ?_, ?_, ?_⟩
    · rw [hid, hnumber]
    · rw [hnow]
      exact hvalue
    · intro hfcm w hw
      exact hhist hfcm w (by rwa [Part.word, ← hwords])
    · rw [hunit, hnumber] at hend
      exact ⟨fun k hk => (hqueues k hk).trans (by rw [hcounted]; rfl), hend⟩

end Sys2Proof.Machine
end

section
namespace Sys2Proof.Machine

/-! # Banks granted and freed (O36) -/

/-! ## Masks of banks -/

/-- The bits of masks put together. -/
theorem getLsbD_foldl_or {α : Type} {n : Nat} (g : α → BitVec n) (l : List α) (m : BitVec n) (b : Nat) :
    (l.foldl (fun m e => m ||| g e) m).getLsbD b = (m.getLsbD b || l.any fun e => (g e).getLsbD b) := by
  induction l generalizing m with
  | nil => simp
  | cons e r ih => rw [List.foldl_cons, ih, BitVec.getLsbD_or, List.any_cons, Bool.or_assoc]

/-- The mask of a list of banks. -/
def maskOf (l : List Nat) : BitVec 16 := l.foldl (fun m b => m ||| BitVec.ofNat 16 (2 ^ b)) 0

theorem getLsbD_bank (b j : Nat) : (BitVec.ofNat 16 (2 ^ b)).getLsbD j = true ↔ j < 16 ∧ b = j := by
  rw [BitVec.getLsbD_ofNat, Nat.testBit_two_pow, Bool.and_eq_true, decide_eq_true_eq, decide_eq_true_eq]

theorem getLsbD_maskOf {l : List Nat} {b : Nat} : (maskOf l).getLsbD b = true ↔ b < 16 ∧ b ∈ l := by
  rw [maskOf, getLsbD_foldl_or]
  simp only [BitVec.ofNat_eq_ofNat, BitVec.getLsbD_zero, Bool.false_or, List.any_eq_true, getLsbD_bank]
  exact ⟨fun ⟨_, he, hb, h⟩ => ⟨hb, h ▸ he⟩, fun ⟨hb, he⟩ => ⟨b, he, hb, rfl⟩⟩

/-- A mask of distinct banks counts them. -/
theorem popcount_maskOf {l : List Nat} (hnodup : l.Nodup) (hlt : ∀ b ∈ l, b < 16) : popcount (maskOf l) = l.length := by
  refine List.Perm.length_eq ((List.perm_ext_iff_of_nodup (List.nodup_range.filter _) hnodup).2 fun b => ?_)
  rw [List.mem_filter, List.mem_range, getLsbD_maskOf]
  exact ⟨fun h => h.2.2, fun h => ⟨hlt b h, hlt b h, h⟩⟩

/-- Among the first of a rising list there is everything of it below one of them. -/
theorem mem_take_of_lt {l : List Nat} (hl : l.Pairwise (· < ·)) {n b b' : Nat} (hb : b ∈ l) (hlt : b < b') (hb' : b' ∈ l.take n) : b ∈ l.take n := by
  rw [← List.take_append_drop n l] at hl hb
  refine (List.mem_append.1 hb).resolve_right fun hdrop => ?_
  exact absurd ((List.pairwise_append.1 hl).2.2 b' hb' b hdrop) (by omega)

/-! ## Free banks -/

section
variable {s : State} {c b n : Nat}

/-- A command other than MFREE keeps its own bank, and an MFREE keeps none (R201). -/
theorem getLsbD_keeps {m : MCmd} (hb : b < 16) : m.keeps.getLsbD b = true ↔ (∀ x, m.kind ≠ .mfree x) ∧ m.bank = b := by
  unfold MCmd.keeps
  split
  next x hk => simp [hk]
  next hk =>
    rw [MCmd.banks]
    split
    next x h => exact absurd h (hk x)
    next => exact (getLsbD_bank _ _).trans ⟨fun h => ⟨hk, h.2⟩, fun h => ⟨hb, h.2⟩⟩

/-- The free banks of the model are those that no live frame holds and no pending command keeps (R155, R201). -/
theorem mem_freeBanks : b ∈ freeBanks s c ↔ Claim.FreeBank s c b := by
  have hheld (m : BitVec 16) (e : Nat × Frame) : (if e.2.gone ∨ (s.part e.2.part).st ≠ .live then m else m ||| e.2.heldOn c) =
      m ||| if e.2.gone ∨ (s.part e.2.part).st ≠ .live then 0 else e.2.heldOn c := by
    split <;> simp
  have hframe (e : Nat × Frame) : (if e.2.gone ∨ (s.part e.2.part).st ≠ .live then (0 : BitVec 16) else e.2.heldOn c).getLsbD b = true ↔
      ¬(e.2.gone = false → (s.part e.2.part).st = .live → (e.2.heldOn c).getLsbD b = false) := by
    cases e.2.gone <;> by_cases h : (s.part e.2.part).st = .live <;> simp [h]
  rw [freeBanks, List.mem_filter, List.mem_range, Claim.FreeBank]
  refine and_congr_right fun hb => ?_
  simp only [hheld, Bool.not_eq_true', BitVec.getLsbD_or, getLsbD_foldl_or, Bool.or_eq_false_iff]
  simp only [BitVec.ofNat_eq_ofNat, BitVec.getLsbD_zero, true_and, List.any_eq_false]
  refine and_congr (forall₂_congr fun e _ => ?_) (forall₂_congr fun e _ => ?_)
  · exact (not_congr (hframe e)).trans not_not
  · rw [getLsbD_keeps hb, not_and]

theorem freeBanks_rising (s : State) (c : Nat) : (freeBanks s c).Pairwise (· < ·) := List.pairwise_lt_range.filter _

theorem freeBanks_nodup (s : State) (c : Nat) : (freeBanks s c).Nodup := List.nodup_range.filter _

/-- Enough banks are free when the list of free banks is long enough. -/
theorem enough_iff : Claim.Enough s c n ↔ n ≤ (freeBanks s c).length := by
  constructor
  · rintro ⟨l, hnodup, rfl, hfree⟩
    exact (List.subperm_of_subset hnodup fun b hb => mem_freeBanks.2 (hfree b hb)).length_le
  · intro h
    exact ⟨(freeBanks s c).take n, (freeBanks_nodup s c).sublist (List.take_sublist _ _), List.length_take_of_le h,
      fun b hb => mem_freeBanks.1 (List.mem_of_mem_take hb)⟩

end

/-! ## The grant -/

/-- Banks cleared one after another read 0, and every other byte as before. -/
theorem read_clearBanks (c k : Nat) (l : List Nat) (m : Memory) :
    (l.foldl (fun m b => m.clear (accKey c b 0) 16384) m).read k =
      if l.any (fun b => decide (accKey c b 0 ≤ k) && decide (k < accKey c b 0 + 16384)) then 0 else m.read k := by
  induction l generalizing m with
  | nil => rfl
  | cons b r ih =>
    rw [List.foldl_cons, ih, Memory.read_clear, List.any_cons]
    by_cases h : accKey c b 0 ≤ k ∧ k < accKey c b 0 + 16384 <;> simp [h]

/-- The banks of the grant are the lowest free ones, zeroed and held (R200). -/
theorem granted_grant {s : State} {u n : Nat} (x : SCode) (h : n ≤ (freeBanks s (s.strand u).core).length) : Claim.Granted s (grant s u n x) u n x := by
  set free := freeBanks s (s.strand u).core with hfree
  have hmem (b : Nat) (hb : b ∈ free.take n) : Claim.FreeBank s (s.strand u).core b := mem_freeBanks.1 (List.mem_of_mem_take hb)
  have hmask (b : Nat) : (maskOf (free.take n)).getLsbD b = true ↔ b ∈ free.take n :=
    getLsbD_maskOf.trans ⟨And.right, fun hb => ⟨(hmem b hb).1, hb⟩⟩
  refine ⟨maskOf (free.take n), ?_, fun b hb => hmem b ((hmask b).1 hb), fun b b' hb hlt hb' => ?_, rfl, fun k => ?_⟩
  · rw [popcount_maskOf ((freeBanks_nodup s _).sublist (List.take_sublist _ _)) fun b hb => (hmem b hb).1, List.length_take_of_le h]
  · exact (hmask b).2 (mem_take_of_lt (freeBanks_rising s _) (mem_freeBanks.2 hb) hlt ((hmask b').1 hb'))
  · refine (read_clearBanks _ k (free.take n) s.mem).trans (if_congr ?_ rfl rfl)
    simp only [List.any_eq_true, List.mem_range, Bool.and_eq_true, hmask, and_assoc]
    exact ⟨fun ⟨b, hb, hk⟩ => ⟨b, (hmem b hb).1, hb, hk⟩, fun ⟨b, _, hk⟩ => ⟨b, hk⟩⟩

section
variable {s : State} {u n : Nat} {x : SCode}

theorem grant_cur : (grant s u n x).cur = s.cur := rfl

theorem grant_core : ((grant s u n x).strand u).core = (s.strand u).core :=
  (congrArg Strand.core (State.strand_setStrand_same _ u _)).trans (Strand.setS_core _ _ _)

end

/-! ## The instructions -/

section
variable {k : Marks} {x y : SCode} {n : BitVec 5} {s : State}

/-- MALLOC takes its banks where no request waits and enough are free, and else queues up (R200). -/
theorem malloc_takes (hi : Issues (.malloc k x y n) s) :
    let i := Instr.malloc k x y n
    let a := s.me
    let c := s.core a.core
    let need := (a.s y).toNat + n.toNat
    if need = 0 ∨ 16 < need ∨ 16 < popcount ((s.frame a.frame).heldOn a.core) + need then Claim.Does i 2 s (.fault .accRange 0)
    else (c.reqs = [] → Claim.Enough s a.core need → ∃ t w, exec i s = .next t ∧ Claim.Granted s w s.cur need x ∧ Goes .plain 2 s w t) ∧
      (c.reqs ≠ [] ∨ ¬Claim.Enough s a.core need →
        ∃ t, exec i s = .next t ∧ Parks .plain 2 .malloc s (s.setCore a.core { c with reqs := c.reqs ++ [⟨s.cur, need, x⟩] }) t) := by
  have hexec := (rfl : exec (.malloc k x y n) s = execMalloc k x y n s).trans (issue_eq hi rfl _ _)
  dsimp only at hexec ⊢
  split
  next hbad =>
    rw [if_pos hbad] at hexec
    exact does_fault (by decide) hexec
  next hgood =>
    rw [if_neg hgood] at hexec
    rw [enough_iff]
    refine ⟨fun hreqs henough => ?_, fun hwaits => ?_⟩
    · rw [if_pos ⟨hreqs, henough⟩] at hexec
      exact ⟨_, _, hexec, granted_grant x henough, goes_of_done grant_cur grant_core⟩
    · rw [if_neg (by rwa [not_and_or])] at hexec
      exact ⟨_, hexec, parks_of_after rfl rfl⟩

end

/-- The first request is granted once enough banks are free (R200). -/
theorem mallocGrant_takes {s : State} {core : Nat} {r : BankReq} {rest : List BankReq} (hreqs : (s.core core).reqs = r :: rest) :
    ((s.strand r.sid).core = core → Claim.Enough s core r.n → ∃ w, exec (.mallocGrant core) s = .next (w.makeReady r.sid) ∧
      Claim.Granted (s.setCore core { s.core core with reqs := rest }) w r.sid r.n r.x) ∧
    (¬Claim.Enough s core r.n → exec (.mallocGrant core) s = .next s) := by
  have hexec : exec (.mallocGrant core) s = execMallocGrant core s := rfl
  simp only [execMallocGrant, hreqs] at hexec
  rw [enough_iff]
  refine ⟨fun hcore henough => ⟨_, hexec.trans (if_pos henough), granted_grant r.x ?_⟩, fun hfew => hexec.trans (if_neg hfew)⟩
  rw [State.strand_setCore, hcore]
  exact henough

/-! ## The matrix channel -/

section
variable {s w : State} {b : Strand} {i : Instr} {h : Head} {bank : Nat} {kind : MKind} {o : Ordn} {sc : Scope} {tagged : Bool} {k : Nat}

/-- A command that enters a channel with room has what is fixed at its issue (R198). -/
theorem enterMx_open (hroom : w.me.mxHeld < 16) :
    ∃ c, enterMx w b i bank kind o sc tagged k = .done (if tagged then useTag (Claim.enteredMx w b c) b else Claim.enteredMx w b c) k ∧
      c.ord = b.ord ∧ c.gord = w.gord ∧ c.tag = nextTag w b ∧ c.batch = none ∧ c.bank = bank ∧ c.kind = kind ∧ c.o = o ∧ c.sc = sc ∧ c.pc = b.pc.bits ∧
      c.cls = w.classOf b :=
  ⟨_, if_neg (not_le.2 hroom), rfl, rfl, rfl, rfl, rfl, rfl, rfl, rfl, rfl, rfl⟩

end

section
variable {k : Marks} {y : SCode} {s : State}

/-- MFREE gives its banks back at once and follows them in its channel (R201). -/
theorem mfree_gives (hi : Issues (.mfree k y) s) :
    let i := Instr.mfree k y
    let a := s.me
    let f := s.frame a.frame
    let m : BitVec 16 := (a.s y).setWidth 16
    let held := f.heldOn a.core
    if m &&& ~~~held ≠ 0 then Claim.Does i 2 s (.fault .accRange 0)
    else if m = 0 then ∃ t, exec i s = .next t ∧ Completes .plain 2 s t a
    else a.mxHeld < 16 → ∃ t c, exec i s = .next t ∧ Claim.InChannel s c 0 (.mfree m) .rlx .strand ∧
      Goes .plain 2 s (useTag (Claim.enteredMx (s.setFrame a.frame (f.setHeld a.core (held &&& ~~~m))) a c) a) t := by
  have hexec := (rfl : exec (.mfree k y) s = execMfree k y s).trans (issue_eq hi rfl _ _)
  have hmask : (s.me.s y).extractLsb' 0 16 = (s.me.s y).setWidth 16 := (BitVec.setWidth_eq_extractLsb' (by decide)).symm
  dsimp only at hexec ⊢
  rw [hmask] at hexec
  split
  next hbad =>
    rw [if_pos hbad] at hexec
    exact does_fault (by decide) hexec
  next hheld =>
    rw [if_neg hheld] at hexec
    split
    next hnone =>
      rw [if_pos hnone] at hexec
      exact ⟨_, hexec, goes_of_done rfl rfl⟩
    next hsome =>
      intro hroom
      rw [if_neg hsome] at hexec
      obtain ⟨c, henter, hchannel⟩ := enterMx_open (w := s.setFrame s.me.frame _) (b := s.me) hroom
      rw [henter] at hexec
      exact ⟨_, c, hexec, hchannel, goes_of_done rfl (by simp [Claim.enteredMx])⟩

end

/-- Settles O36: a grant takes the first of the free banks, and MFREE enters its channel like every matrix command. -/
theorem banksGrantedAndFreed : Obligations.BanksGrantedAndFreed :=
  ⟨fun _ _ _ _ _ => malloc_takes, fun _ _ _ _ => mallocGrant_takes, fun _ _ _ => mfree_gives⟩

end Sys2Proof.Machine
end

section
namespace Sys2Proof.Machine

/-! # An MRD that names a queue register (O37)

The destination of a vector instruction is one of V0 to V119 (R46, R59, R70): `WellFormed` refuses an MRD with a number above, and no
word decodes to one (O56). O16 asks of an LD that it is well-formed; O37 does not ask it of an MRD. `execMrd` places the zeros of an
MRD in the vector register of the number it is given, and a read of number 120 finds the oldest entry of Q0 instead. -/

/-- The running strand of a loaded program, whose frame holds bank 0. -/
def holdsBank0 : State :=
  let s := { bootFrame State.reset with cur := 1 }
  s.setFrame 1 ((s.frame 1).setHeld 0 1)

/-- An MRD of row 0 of bank 0 into number 120, which is Q0. -/
abbrev mrdIntoQ0 : Instr := .mrd ⟨false, false⟩ .s32 120 0 0 0 0 0

theorem not_wellFormed_mrdIntoQ0 : WellFormed true mrdIntoQ0 = false := by decide

/-- It parks nowhere before its issue. -/
theorem issues_mrdIntoQ0 : Issues mrdIntoQ0 holdsBank0 := by
  have hlocks : holdsBank0.me.locks = [] := by decide +kernel
  refine ⟨by decide +kernel, by decide +kernel, ⟨by decide +kernel, by decide +kernel, by decide +kernel⟩, fun r hr => ?_⟩
  rw [hlocks] at hr
  cases hr

/-- There is room for its zeros. -/
theorem fits_mrdIntoQ0 : Claim.Fits mrdIntoQ0 120 false holdsBank0 := by
  refine ⟨fun h => absurd h (by decide +kernel), ?_⟩
  have hroom : (match holdsBank0.me.roomFor (operOf mrdIntoQ0) 120 false (holdsBank0.me.operMap (operOf mrdIntoQ0)) with
      | .ok _ => true
      | _ => false) = true := by decide +kernel
  split at hroom
  next a h => exact ⟨a, h⟩
  next => cases hroom

/-- A strand whose Q0 is empty reads no lane from number 120. -/
theorem vec_queue_empty {t : Strand} (h : t.q = []) : t.vec 120 = [] := by
  rw [Strand.vec, if_neg (by decide), h]
  rfl

/-- Refutes O37: an MRD with Q0 for its destination issues, and a read of Q0 finds no zeros. -/
theorem not_matrixCommandsEnter : ¬ Obligations.MatrixCommandsEnter := by
  rintro ⟨-, -, mrd, -⟩
  obtain ⟨-, -, -, -, enters⟩ := mrd ⟨false, false⟩ .s32 120 0 0 0 0 0 holdsBank0 issues_mrdIntoQ0
  have hbank : Claim.HoldsBank holdsBank0 0 0 := by unfold Claim.HoldsBank; decide +kernel
  obtain ⟨-, -, v, -, -, -, hplaced, -, hrest⟩ :=
    enters hbank (by decide +kernel) (by decide +kernel) fits_mrdIntoQ0 (by decide +kernel) (by decide +kernel)
  have hqueues : v.q = [] := (congrArg Strand.q hrest).trans (by decide +kernel)
  have hzeros := hplaced.1.symm.trans (vec_queue_empty hqueues)
  have hlanes : (Claim.onMap holdsBank0.me.ext (holdsBank0.me.operMap (operOf mrdIntoQ0)) (fun _ => 0)).length = 16 := by decide +kernel
  have hnone := (congrArg List.length hzeros).symm.trans hlanes
  cases hnone

end Sys2Proof.Machine
end

section
namespace Sys2Proof.Machine

/-! # The elements of an MMA (O38) -/

/-! ## Values of B tiles of bit planes (R133 to R136) -/

theorem getD_toList_array (b : Array Byte) (i : Nat) : b.getD i 0 = b.toList.getD i 0 := by
  rw [Array.getD_eq_getD_getElem?, List.getD_eq_getElem?_getD, Array.getElem?_toList]

/-- A sum made from the left. -/
theorem foldl_add_eq_sum (l : List Nat) (f : Nat → Int) : l.foldl (fun s i => s + f i) 0 = (l.map f).sum := by
  rw [List.sum_eq_foldl, List.foldl_map]

/-- The number of plane `p` of an element: plane 0 is the sign, each next one half as much (R134). -/
def planeTerm (bit : Nat → Bool) (p : Nat) : Int :=
  if p = 0 then -128 * (if bit p then 1 else 0) else 2 ^ (7 - p) * (if bit p then 1 else 0)

/-- The value of an element is the sum of its planes, with half a unit of the last one where some are missing (R134). -/
theorem planeValue_eq_sum (bit : Nat → Bool) (k : Nat) :
    planeValue ((List.range k).map bit) = ((List.range k).map (planeTerm bit)).sum + (if k < 8 then 2 ^ (7 - k) else 0) := by
  have hplanes : ((List.range k).map bit).zipIdx.foldl
      (fun (a : Int) x => if x.1 then (if x.2 = 0 then a - 128 else a + (2 : Int) ^ (7 - x.2)) else a) 0 = ((List.range k).map (planeTerm bit)).sum := by
    induction k with
    | zero => rfl
    | succ k ih =>
      rw [List.range_succ, List.map_append, List.zipIdx_append, List.foldl_append, ih, List.map_append, List.sum_append]
      cases hbit : bit k <;> by_cases hk : k = 0 <;> simp [planeTerm, hbit, hk, sub_eq_add_neg]
  rw [planeValue, hplanes, List.length_map, List.length_range]
  split
  · rfl
  · exact (add_zero _).symm

section
variable {d : BDesc} {b : Array Byte}

theorem bpnElem_eq (e : Nat) : bpnElem d b e = Claim.planeSum (8 - d.pl) (planeBytes d.spn) b.toList e := by
  rw [bpnElem, planeValue_eq_sum, Claim.planeSum]
  refine congrArg (· + _) (congrArg List.sum (List.map_congr_left fun p _ => ?_))
  simp only [planeTerm, bitAt, getD_toList_array, Nat.mul_comm p]
  split
  next hp => subst hp; rfl
  next => rfl

/-- The place of a kept element is what its three bits of metadata say (R135). -/
theorem keptPos_eq (m j : Nat) (hm : keptN d.spn = m) (hs : d.spn ≠ 0) :
    let bit (i : Nat) : Nat := if (b.toList.getD (256 * m * (8 - d.pl) + i / 8) 0).getLsbD (i % 8) then 1 else 0
    keptPos d b j = bit (3 * j) + 2 * bit (3 * j + 1) + 4 * bit (3 * j + 2) := by
  have hbit (i : Nat) : bitAt b ((8 - d.pl) * planeBytes d.spn) i = (b.toList.getD (256 * m * (8 - d.pl) + i / 8) 0).getLsbD (i % 8) := by
    rw [bitAt, planeBytes, if_neg hs, hm, getD_toList_array, Nat.mul_comm (8 - d.pl)]
  simp only [keptPos, hbit]
  congr 2 <;> split <;> rfl

/-- A dense tile is its elements, one after another by its majority (R207). -/
theorem bpnDense_dense (hs : d.spn = 0) (kk n : Nat) :
    bpnDense d b kk n = Claim.planeSum (8 - d.pl) 2048 b.toList (if d.maj then 64 * kk + n else 256 * n + kk) := by
  rw [bpnDense, if_pos hs, bpnElem_eq, planeBytes, if_pos hs]

/-- A sparse tile has the last kept element of a group at its place, or 0 (R135, R136). -/
theorem bpnDense_sparse {m : Nat} (hm : keptN d.spn = m) (hs : d.spn ≠ 0) (kk n : Nat) :
    bpnDense d b kk n = Claim.sparseSum (8 - d.pl) m b.toList kk n := by
  have hplace (i : Nat) := keptPos_eq (b := b) m i hm hs
  rw [bpnDense, if_neg hs, Claim.sparseSum, hm]
  simp only [bpnElem_eq, planeBytes, if_neg hs, hm, hplace]
  rw [List.getLast?_filter, ← List.map_reverse, List.find?_map]
  simp only [Function.comp_def]
  cases List.find? _ (List.range m).reverse <;> rfl

end

/-- A new element of integers is the old one and the products of its row and column (R136, R209). -/
theorem mmaElem_integer {d : BDesc} {a b : Array Byte} {n : Nat} {acc : W32} (hfmt : d.fmt < 2) {g : Nat → Int} (hg : ∀ kk, bpnDense d b kk n = g kk) :
    mmaElem d a b n acc = acc + BitVec.ofInt 32 ((List.range 256).map (fun kk =>
      (if d.fmt = 0 then (a.getD kk 0).toInt else ((a.getD kk 0).toNat : Int)) * g kk)).sum := by
  rw [mmaElem, if_neg (by omega)]
  simp only [hg, foldl_add_eq_sum]

/-! ## Products of BF16 (R138, R207) -/

/-- A value is finite and denotes this number. -/
def Denotes (v : FVal) (x : ℝ) : Prop := ∃ n m e, v = .fin n m e ∧ finReal n m e = x

theorem value_flush_false (f : Fmt) (x : Nat) : f.value (f.flush false x) = f.value x := by
  have hmag : f.mag (f.flush false x) = f.mag x := by rw [mag_flush, if_neg (by simp)]
  simp only [Fmt.value, hmag, neg_flush]

theorem denotes_value {f : Fmt} {x : Nat} (h : Claim.Finite f x) : Denotes (f.value x) (Claim.realOf f x) := by
  obtain ⟨m, e, hvalue, hreal, -⟩ := value_flush_real h
  exact ⟨_, m, e, (value_flush_false f x).symm.trans hvalue, hreal.symm⟩

theorem Denotes.mul {v w : FVal} {x y : ℝ} (hv : Denotes v x) (hw : Denotes w y) : Denotes (fvMul v w) (x * y) := by
  obtain ⟨_, _, _, rfl, rfl⟩ := hv
  obtain ⟨_, _, _, rfl, rfl⟩ := hw
  exact ⟨_, _, _, rfl, finReal_mul ..⟩

theorem Denotes.add {v w : FVal} {x y : ℝ} (hv : Denotes v x) (hw : Denotes w y) : Denotes (fvAdd 0 v w) (x + y) := by
  obtain ⟨n1, m1, e1, rfl, rfl⟩ := hv
  obtain ⟨n2, m2, e2, rfl, rfl⟩ := hw
  obtain ⟨n, m, e, hadd, hreal, -⟩ := finAdd_exact 0 n1 n2 m1 m2 e1 e2
  exact ⟨n, m, e, by rw [fvAdd, hadd], hreal⟩

/-- Values added one after another denote the sum of their numbers. -/
theorem Denotes.foldl {α : Type} {g : α → FVal} {h : α → ℝ} (l : List α) (hl : ∀ a ∈ l, Denotes (g a) (h a)) {v : FVal} {x : ℝ} (hv : Denotes v x) :
    Denotes ((l.map g).foldl (fvAdd 0) v) (x + (l.map h).sum) := by
  induction l generalizing v x with
  | nil => simpa using hv
  | cons a r ih =>
    obtain ⟨ha, hr⟩ := List.forall_mem_cons.1 hl
    simpa [add_assoc] using ih hr (hv.add ha)

/-- A finite value is rounded once, and a zero keeps a zero's magnitude. -/
theorem Denotes.rounds {v : FVal} {x : ℝ} (h : Denotes v x) :
    (x ≠ 0 → Claim.Rounds fmtF32 0 x (fmtF32.ofVal 0 false v)) ∧ (x = 0 → Claim.magOf fmtF32 (fmtF32.ofVal 0 false v) = 0) := by
  obtain ⟨n, m, e, rfl, rfl⟩ := h
  obtain ⟨hrounds, hzero⟩ := gives_fin (f := fmtF32) (.inl rfl) (rm := 0) (by decide) (n := n) (m := m) (e := e) fun _ => rfl
  refine ⟨hrounds, fun hx => ?_⟩
  rw [hzero hx, patternOf_eq]
  exact mag_signed (Nat.two_pow_pos _) n

/-- The sum of a group of finite products is exact and rounded once (R138). -/
theorem groupSum_rounds {α : Type} {x y : α → Nat} {l : List α} (hne : l ≠ []) (hfin : ∀ a ∈ l, Claim.Finite fmtBF16 (x a) ∧ Claim.Finite fmtBF16 (y a)) :
    let v := (l.map (fun a => Claim.realOf fmtBF16 (x a) * Claim.realOf fmtBF16 (y a))).sum
    let sum := groupSum (l.map (fun a => (x a, y a)))
    (v ≠ 0 → Claim.Rounds fmtF32 0 v sum) ∧ (v = 0 → Claim.magOf fmtF32 sum = 0) := by
  have hprod (a : α) (ha : a ∈ l) : Denotes (fvMul (fmtBF16.value (x a)) (fmtBF16.value (y a))) (Claim.realOf fmtBF16 (x a) * Claim.realOf fmtBF16 (y a)) :=
    (denotes_value (hfin a ha).1).mul (denotes_value (hfin a ha).2)
  cases l with
  | nil => exact absurd rfl hne
  | cons a r =>
    obtain ⟨ha, hr⟩ := List.forall_mem_cons.1 hprod
    have hsum := (Denotes.foldl r hr ha).rounds
    simpa only [groupSum, List.map_cons, List.map_map, List.sum_cons, Function.comp_def] using hsum

/-- A NaN among what is added gives NaN. -/
theorem foldl_fvAdd_nan {l : List FVal} {v : FVal} (h : v = .nan ∨ .nan ∈ l) : l.foldl (fvAdd 0) v = .nan := by
  induction l generalizing v with
  | nil => exact h.resolve_right List.not_mem_nil
  | cons a r ih =>
    refine ih ?_
    obtain rfl | h := h
    · exact .inl (fvAdd_nan_left 0 a)
    · obtain rfl | h := List.mem_cons.1 h
      · exact .inl (fvAdd_nan_right 0 v)
      · exact .inr h

theorem value_nan {x : Nat} (h : Claim.Nan fmtBF16 x) : fmtBF16.value x = .nan :=
  (value_flush_false _ _).symm.trans (value_flush_nan (.inr (.inr rfl)) h false)

/-- A group with a NaN sums to the canonical one (R124, R138). -/
theorem groupSum_nan {l : List (Nat × Nat)} (h : ∃ p ∈ l, Claim.Nan fmtBF16 p.1 ∨ Claim.Nan fmtBF16 p.2) : groupSum l = Claim.canonical fmtF32 := by
  obtain ⟨p, hp, hnan⟩ := h
  have hmem : FVal.nan ∈ l.map (fun p => fvMul (fmtBF16.value p.1) (fmtBF16.value p.2)) := by
    refine List.mem_map.2 ⟨p, hp, ?_⟩
    obtain h | h := hnan <;> simp [value_nan h]
  unfold groupSum
  split
  next hnil => simp [hnil] at hmem
  next v r hcons =>
    rw [hcons] at hmem
    rw [foldl_fvAdd_nan ((List.mem_cons.1 hmem).imp_left Eq.symm)]
    rfl

theorem nan_canonical : Claim.Nan fmtF32 (Claim.canonical fmtF32) := by decide

/-- A NaN among the group sums makes the accumulator NaN (R124, R138). -/
theorem foldl_accAdd_nan {l : List Nat} {sums : Nat → Nat} {c : Nat} (h : c = Claim.canonical fmtF32 ∨ ∃ g ∈ l, sums g = Claim.canonical fmtF32) :
    l.foldl (fun c g => accAdd c (sums g)) c = Claim.canonical fmtF32 := by
  have hleft (x : Nat) : accAdd (Claim.canonical fmtF32) x = Claim.canonical fmtF32 := arith_of_nan (.inl rfl) 0 false .add (.inl nan_canonical)
  have hright (x : Nat) : accAdd x (Claim.canonical fmtF32) = Claim.canonical fmtF32 := arith_of_nan (.inl rfl) 0 false .add (.inr nan_canonical)
  induction l generalizing c with
  | nil => exact h.resolve_right (by simp)
  | cons g r ih =>
    refine ih ?_
    obtain rfl | ⟨j, hj, hnan⟩ := h
    · exact .inl (hleft _)
    · obtain rfl | hj := List.mem_cons.1 hj
      · exact .inl (by simp only [hnan, hright])
      · exact .inr ⟨j, hj, hnan⟩

/-- The factors of an MMA of BF16: element `kk` of a row of A, and element (`kk`, `n`) of the tile. -/
abbrev aHalf (a : Array Byte) (kk : Nat) : Nat := Claim.half a.toList kk
/-- See `aHalf`. -/
abbrev bHalf (d : BDesc) (b : Array Byte) (n kk : Nat) : Nat := Claim.half b.toList (Claim.tileAt d.maj kk n)

/-- The sum of a group of 16 products. -/
def groupOf (d : BDesc) (a b : Array Byte) (n g : Nat) : Nat :=
  groupSum ((List.range 16).map fun i => (aHalf a (16 * g + i), bHalf d b n (16 * g + i)))

theorem half_eq (b : Array Byte) (e : Nat) : (b.getD (2 * e) 0).toNat + 256 * (b.getD (2 * e + 1) 0).toNat = Claim.half b.toList e := by
  rw [Claim.half, little_eq_ofBytes, getD_toList_array, getD_toList_array]
  rfl

section
variable {d : BDesc} {a b : Array Byte} {n : Nat} {acc : W32}

/-- A new element of BF16 is the old one with four group sums added in order (R138). -/
theorem mmaElem_bf16 (hfmt : d.fmt = 2) :
    mmaElem d a b n acc = BitVec.ofNat 32 ((List.range 4).foldl (fun c g => accAdd c (groupOf d a b n g)) acc.toNat) := by
  rw [mmaElem, if_pos hfmt]
  simp only [bf16Dense, half_eq]
  rfl

theorem mmaElem_of_nan (hfmt : d.fmt = 2) {kk : Nat} (hkk : kk < 64) (hnan : Claim.Nan fmtBF16 (aHalf a kk) ∨ Claim.Nan fmtBF16 (bHalf d b n kk)) :
    mmaElem d a b n acc = 0x7FC00000 := by
  have hgroup : groupOf d a b n (kk / 16) = Claim.canonical fmtF32 := by
    refine groupSum_nan ⟨_, List.mem_map.2 ⟨kk % 16, List.mem_range.2 (Nat.mod_lt _ (by decide)), rfl⟩, ?_⟩
    rwa [Nat.div_add_mod]
  rw [mmaElem_bf16 hfmt, foldl_accAdd_nan (.inr ⟨kk / 16, List.mem_range.2 (by omega), hgroup⟩)]
  decide

theorem groupOf_rounds (hfin : ∀ kk, kk < 64 → Claim.Finite fmtBF16 (aHalf a kk) ∧ Claim.Finite fmtBF16 (bHalf d b n kk)) {g : Nat} (hg : g < 4) :
    let v := ((List.range 16).map (fun i => Claim.realOf fmtBF16 (aHalf a (16 * g + i)) * Claim.realOf fmtBF16 (bHalf d b n (16 * g + i)))).sum
    (v ≠ 0 → Claim.Rounds fmtF32 0 v (groupOf d a b n g)) ∧ (v = 0 → Claim.magOf fmtF32 (groupOf d a b n g) = 0) :=
  groupSum_rounds (by decide) fun i hi => hfin _ (by have := List.mem_range.1 hi; omega)

end

end Sys2Proof.Machine
end

section
namespace Sys2Proof.Machine

/-! # The head of a matrix channel (O38) -/

/-! ## Its turn (R191, R203, R204) -/

section
variable {s : State} {u n : Nat} {o : Ordn} {c : MCmd}

theorem engineReady_iff : engineReady s u n o = true ↔ Claim.EngineMay s u n o := by
  have har (b : Bool) : (decide (o ≠ .ar) || b) = true ↔ (o = .ar → b = true) := by simp [or_iff_not_imp_left]
  simp only [engineReady, Claim.EngineMay, Bool.or_assoc, Bool.and_eq_true, List.all_eq_true, le_or_iff, ne_or_iff, har, decide_eq_true_eq, and_assoc]
  refine and_congr (forall₂_congr fun e _ => imp_congr_right fun _ => ?_) Iff.rfl
  cases e.kind <;> simp

theorem engineReleases_iff : engineReleases s u n = true ↔ Claim.ReleaseMay s u n := by
  simp only [engineReleases, Claim.ReleaseMay, Strand.queueLeft, Bool.and_eq_true, loadsDone_iff, List.all_eq_true, decide_eq_true_eq, and_assoc]

theorem mayCommit_iff : mayCommit s u c = true ↔ (c.o = .rel ∨ c.o = .ar → Claim.ReleaseMay s u c.ord) := by
  rw [mayCommit, not_or_iff, isRel_iff, engineReleases_iff]

/-- What a command waits for but the accesses before it: its partition works, and no earlier command of the core names one of its banks. -/
theorem mxReady_iff : mxReady s u c = true ↔ s.works u = true ∧
    (∀ e ∈ pendingOn s (s.strand u).core, e.2.gord < c.gord → e.2.banks &&& c.banks = 0) ∧
    ((∀ m, c.kind ≠ .mfree m) → (∀ r ty f, c.kind ≠ .mrd r ty f) → Claim.EngineMay s u c.ord c.o) := by
  have horder : (pendingOn s (s.strand u).core).all (fun e => decide (c.gord ≤ e.2.gord) || decide (e.2.banks &&& c.banks = 0)) = true ↔
      ∀ e ∈ pendingOn s (s.strand u).core, e.2.gord < c.gord → e.2.banks &&& c.banks = 0 := by
    simp only [List.all_eq_true, le_or_iff, decide_eq_true_eq]
  rw [← engineReady_iff, ← horder, State.works, Bool.and_comm, ← and_assoc]
  unfold mxReady
  cases c.kind <;> simp

/-- The head of a channel has its turn. -/
theorem mxHead_iff : mxHead s u = some c ↔ Claim.MxTurn s u c := by
  rw [Claim.MxTurn, ← mxReady_iff, mxHead]
  cases (s.strand u).mx.cmds with
  | nil => simp
  | cons d r =>
    simp only [List.head?_cons, Option.some.injEq, Option.ite_none_right_eq_some]
    exact ⟨fun ⟨h, he⟩ => ⟨he, he ▸ h⟩, fun ⟨he, h⟩ => ⟨he ▸ h, he⟩⟩

end

/-! ## What changes in a channel -/

/-- A command whose issue number is this one, with its kind changed. -/
def MCmd.modKind (ord : Nat) (f : MKind → MKind) (c : MCmd) : MCmd := if c.ord = ord then { c with kind := f c.kind } else c

section
variable (s : State) (u ord : Nat) (f : MKind → MKind)

theorem strand_mxDone_same : (mxDone s u ord).strand u = { s.strand u with mx := (s.strand u).mx.drop ord } := State.strand_setStrand_same ..
theorem strand_mxDone_ne {v : Nat} (h : v ≠ u) : (mxDone s u ord).strand v = s.strand v := State.strand_setStrand_ne _ _ _ _ h
theorem strand_modMx_ne {v : Nat} (h : v ≠ u) : (modMx s u ord f).strand v = s.strand v := State.strand_setStrand_ne _ _ _ _ h

/-- A command that is done has left its channel. -/
theorem cmds_mxDone : ((mxDone s u ord).strand u).mx.cmds = (s.strand u).mx.cmds.filter (fun x => decide (x.ord ≠ ord)) := by
  rw [strand_mxDone_same]
  rfl

/-- A change of a command leaves the others, and every other channel. -/
theorem cmds_modMx (v : Nat) : ((modMx s u ord f).strand v).mx.cmds =
    if v = u then (s.strand u).mx.cmds.map (MCmd.modKind ord f) else (s.strand v).mx.cmds := by
  split
  next h =>
    subst h
    exact congrArg (fun t : Strand => t.mx.cmds) (State.strand_setStrand_same ..)
  next h => rw [strand_modMx_ne s u ord f h]

theorem cmds_modMx_same : ((modMx s u ord f).strand u).mx.cmds = (s.strand u).mx.cmds.map (MCmd.modKind ord f) := by
  rw [cmds_modMx, if_pos rfl]

end

section
variable {s w : State} {part core cls : Nat} {keys : List (Nat × Nat)}

@[simp] theorem carryKeys_strands : (s.carryKeys part core cls keys).strands = s.strands :=
  (sameButTraffic_carryKeys ..).field State.strands fun _ _ _ _ _ => rfl
@[simp] theorem carryKeys_cores : (s.carryKeys part core cls keys).cores = s.cores :=
  (sameButTraffic_carryKeys ..).field State.cores fun _ _ _ _ _ => rfl
@[simp] theorem strand_carryKeys (u : Nat) : (s.carryKeys part core cls keys).strand u = s.strand u := by
  rw [State.strand, carryKeys_strands, State.strand]

end

/-- Pieces that are read are read now, byte by byte as the core sees them. -/
theorem readPieces_eq_readNow (s : State) (a : Strand) (pick : List Nat) (l : Pieces) : readPieces s a.core pick l = Claim.readNow s a pick l := by
  refine List.map_congr_left fun e _ => ?_
  simp only [Bool.and_eq_true, Option.isNone_iff_eq_none]
  rfl

theorem read_and_iff {x y : Pieces} : (x.read && y.read) = true ↔ Claim.AllRead x ∧ Claim.AllRead y := by
  rw [Bool.and_eq_true, pieces_read_iff, pieces_read_iff]
  rfl

/-! ## MZERO, MFREE and MMA (R201, R209, R214) -/

/-- An MMA of a strand with its rows of A read as far as they are named (log 64). -/
def State.readA (s : State) (sid : Nat) (c : MCmd) (pick : List Nat) (a : Pieces) : State :=
  (modMx s sid c.ord (MKind.withA (readPieces s (s.strand sid).core pick a))).carryKeys (s.strand sid).part (s.strand sid).core c.cls (pieceKeys pick a)

/-- The B of an MMA read as far as it is named, for these members of its gang. -/
def State.readB (s w : State) (sid : Nat) (c : MCmd) (pick : List Nat) (b : Pieces) (l : List (Nat × Nat × Bool)) : State :=
  (giveB w (readPieces s (s.strand sid).core pick b) l).carryKeys (s.strand sid).part (s.strand sid).core c.cls (pieceKeys pick b)

section
variable {s : State} {sid : Nat} {c : MCmd} {pa pb : List Nat}

theorem commit_mzero (h : mxHead s sid = some c) (hkind : c.kind = .mzero) : exec (.matrixCommit ⟨sid, pa, pb⟩) s =
    if mayCommit s sid c then .next (wakeAll (mxDone { s with mem := s.mem.clear (accKey (s.strand sid).core c.bank 0) 16384 } sid c.ord)) else .next s := by
  change execMatrixCommit _ s = _
  simp only [execMatrixCommit, h, hkind]
  cases mayCommit s sid c <;> rfl

theorem commit_mfree (h : mxHead s sid = some c) {m : BitVec 16} (hkind : c.kind = .mfree m) :
    exec (.matrixCommit ⟨sid, pa, pb⟩) s = .next (wakeAll (mxDone s sid c.ord)) := by
  change execMatrixCommit _ s = _
  simp only [execMatrixCommit, h, hkind]

variable {rows : List (Nat × Nat)} {d : BDesc} {gang : Option Nat} {x y : Pieces}

/-- An MMA waits for its gang to close (R212). -/
theorem commit_mma_held (h : mxHead s sid = some c) (hkind : c.kind = .mma rows d gang false x y) : exec (.matrixCommit ⟨sid, pa, pb⟩) s = .next s := by
  change execMatrixCommit _ s = _
  simp only [execMatrixCommit, h, hkind]
  rfl

/-- With all of A and B read it commits, as far as its release lets it (R191, R209). -/
theorem commit_mma_read (h : mxHead s sid = some c) (hkind : c.kind = .mma rows d gang true x y) (hread : (x.read && y.read) = true) :
    exec (.matrixCommit ⟨sid, pa, pb⟩) s = if mayCommit s sid c
      then .next (wakeAll (mxDone (mmaCommit s (s.strand sid).core c.bank rows d (rowBytes d rows x) (pieceBytes y)) sid c.ord)) else .next s := by
  change execMatrixCommit _ s = _
  simp only [execMatrixCommit, h, hkind, hread]
  cases mayCommit s sid c <;> rfl

/-- Else it reads A, and B where its gang may (R212). -/
theorem commit_mma_reads (h : mxHead s sid = some c) (hkind : c.kind = .mma rows d gang true x y) (hread : ¬(x.read && y.read) = true) :
    exec (.matrixCommit ⟨sid, pa, pb⟩) s = .next (wakeAll ((bMembers s sid c gang).elim (s.readA sid c pa x) (s.readB (s.readA sid c pa x) sid c pb y))) := by
  change execMatrixCommit _ s = _
  simp only [execMatrixCommit, h, hkind, hread]
  cases bMembers s sid c gang <;> rfl

end

/-! ### The products written -/

theorem zip_map_range {α β γ : Type} (l : List α) (f : Nat → β) (g : α × β → γ) :
    (l.zip ((List.range l.length).map f)).map g = l.zipIdx.map (fun e => g (e.1, f e.2)) := by
  rw [List.zip_map_right, List.map_map, List.zipIdx_eq_zip_range', ← List.range_eq_range']
  rfl

section
variable {s : State} {c bank : Nat} {rows : List (Nat × Nat)} {d : BDesc} {x y : Pieces}

/-- Every element of every row is written, from the row's pieces of A and all of B (R209). -/
theorem mem_mmaCommit : (mmaCommit s c bank rows d (rowBytes d rows x) (pieceBytes y)).mem = (rows.zipIdx.map (fun r =>
      (r.1.1, (List.range 64).flatMap (fun n => toBytes 4 (mmaElem d (Claim.bytesOf ((x.drop ((if d.fmt = 2 then 8 else 16) * r.2)).take (if d.fmt = 2 then 8 else 16))).toArray
        (Claim.bytesOf y).toArray n (BitVec.ofNat 32 (Claim.little (s.mem.readN (accKey c bank (256 * r.1.1 + 4 * n)) 4)))).toNat)))).foldl
      (fun m r => m.writeL (accKey c bank (256 * r.1)) r.2) s.mem := by
  simp only [mmaCommit, rowBytes, zip_map_range, accRead, little_eq_ofBytes]
  rfl

end

/-! ### The pieces read -/

section
variable {s : State} {sid : Nat} {c : MCmd} {pa pb : List Nat} {x y : Pieces}

theorem cmds_readA (u : Nat) : ((s.readA sid c pa x).strand u).mx.cmds =
    if u = sid then (s.strand sid).mx.cmds.map (MCmd.modKind c.ord (MKind.withA (Claim.readNow s (s.strand sid) pa x))) else (s.strand u).mx.cmds := by
  rw [State.readA, strand_carryKeys, cmds_modMx, readPieces_eq_readNow]

theorem strand_readA_ne {u : Nat} (h : u ≠ sid) : (s.readA sid c pa x).strand u = s.strand u := by
  rw [State.readA, strand_carryKeys, strand_modMx_ne _ _ _ _ h]

theorem mem_readA : (s.readA sid c pa x).mem = s.mem := State.carryKeys_mem ..

theorem withB_withB (b : Pieces) (k : MKind) : (k.withB b).withB b = k.withB b := by cases k <;> rfl

/-- A member with this command is among those of a gang. -/
def isMember (l : List (Nat × Nat × Bool)) (u : Nat) (c : MCmd) : Bool := l.any (fun e => decide (e.1 = u) && decide (e.2.1 = c.ord))

theorem isMember_cons (e : Nat × Nat × Bool) (r : List (Nat × Nat × Bool)) (u : Nat) (c : MCmd) :
    isMember (e :: r) u c = (decide (e.1 = u) && decide (e.2.1 = c.ord) || isMember r u c) := rfl

/-- A gang's B goes to the commands of its members and to no other (R212). -/
theorem cmds_giveB (b : Pieces) (l : List (Nat × Nat × Bool)) (w : State) (u : Nat) : ((giveB w b l).strand u).mx.cmds =
    (w.strand u).mx.cmds.map (fun c => if isMember l u c then { c with kind := c.kind.withB b } else c) := by
  induction l generalizing w with
  | nil => exact (List.map_id _).symm
  | cons e r ih =>
    rw [giveB, List.foldl_cons]
    refine (ih _).trans ?_
    rw [cmds_modMx]
    split
    next hu =>
      rw [List.map_map, hu]
      refine List.map_congr_left fun c _ => ?_
      rw [isMember_cons]
      by_cases hord : c.ord = e.2.1
      · simp [MCmd.modKind, hord, withB_withB]
      · simp [MCmd.modKind, hord, Ne.symm hord]
    next hu =>
      refine List.map_congr_left fun c _ => ?_
      simp [isMember_cons, Ne.symm hu]

theorem mem_giveB (b : Pieces) (l : List (Nat × Nat × Bool)) (w : State) : (giveB w b l).mem = w.mem := foldl_mem _ _ _ fun _ _ => rfl

theorem cmds_readB (w : State) (l : List (Nat × Nat × Bool)) (u : Nat) : ((s.readB w sid c pb y l).strand u).mx.cmds =
    (w.strand u).mx.cmds.map (fun x => if isMember l u x then { x with kind := x.kind.withB (Claim.readNow s (s.strand sid) pb y) } else x) := by
  rw [State.readB, strand_carryKeys, cmds_giveB, readPieces_eq_readNow]

theorem mem_readB (w : State) (l : List (Nat × Nat × Bool)) : (s.readB w sid c pb y l).mem = w.mem := by
  rw [State.readB, State.carryKeys_mem, mem_giveB]

/-- An MMA without a gang has its pieces of A and of B read. -/
theorem cmds_read_alone : ((s.readB (s.readA sid c pa x) sid c pb y [(sid, c.ord, true)]).strand sid).mx.cmds =
    (s.strand sid).mx.cmds.map (fun z => if z.ord = c.ord
      then { z with kind := (z.kind.withA (Claim.readNow s (s.strand sid) pa x)).withB (Claim.readNow s (s.strand sid) pb y) } else z) := by
  rw [cmds_readB, cmds_readA, if_pos rfl, List.map_map]
  refine List.map_congr_left fun z _ => ?_
  by_cases hord : z.ord = c.ord
  · simp [MCmd.modKind, isMember, hord]
  · simp [MCmd.modKind, isMember, hord, Ne.symm hord]

/-- The MMA at the head of a member's channel has its gang's B read, and that of the strand its own A (R212). -/
theorem head_read_gang {l : List (Nat × Nat × Bool)} (hhead : (s.strand sid).mx.cmds.head? = some c) {rows : List (Nat × Nat)} {d : BDesc} {gang : Option Nat}
    {closed : Bool} (hkind : c.kind = .mma rows d gang closed x y) {u : Nat} {z : MCmd} {r : List (Nat × Nat)} {d' : BDesc} {g : Option Nat} {cl : Bool} {ra b : Pieces}
    (hz : (s.strand u).mx.cmds.head? = some z) (hzk : z.kind = .mma r d' g cl ra b) (hmem : ∃ e ∈ l, e.1 = u ∧ e.2.1 = z.ord) :
    ((s.readB (s.readA sid c pa x) sid c pb y l).strand u).mx.cmds.head? =
      some { z with kind := .mma r d' g cl (if u = sid then Claim.readNow s (s.strand sid) pa ra else ra) (Claim.readNow s (s.strand sid) pb y) } := by
  have hmember (k : MKind) : isMember l u { z with kind := k } = true := by
    obtain ⟨e, he, hu, hord⟩ := hmem
    exact List.any_eq_true.2 ⟨e, he, by simp [hu, hord]⟩
  rw [cmds_readB, cmds_readA, List.head?_map]
  split
  next hu =>
    subst hu
    obtain rfl : z = c := Option.some.inj (hz.symm.trans hhead)
    obtain ⟨-, -, -, -, rfl, -⟩ := MKind.mma.inj (hzk.symm.trans hkind)
    rw [List.head?_map, hz, Option.map_some, Option.map_some, MCmd.modKind, if_pos rfl, if_pos (hmember _), hzk]
    rfl
  next hu =>
    rw [hz, Option.map_some, if_pos (hmember z.kind), hzk]
    rfl

end

/-- Where the gang may, its members' B is read, and else only the rows of A (R212). -/
theorem mma_reads_gang {sid gid : Nat} {s : State} {c : MCmd} {pa pb : List Nat} {rows : List (Nat × Nat)} {d : BDesc} {x y : Pieces}
    (hturn : Claim.MxTurn s sid c) (hkind : c.kind = .mma rows d (some gid) true x y) (hunread : ¬(Claim.AllRead x ∧ Claim.AllRead y)) :
    let a := s.strand sid
    let members := gangMembers s a.core gid
    ∃ w, exec (.matrixCommit ⟨sid, pa, pb⟩) s = .next (wakeAll w) ∧ w.mem = s.mem ∧
      ((∃ e ∈ members, e.2.2 = false) → (w.strand sid).mx.cmds = a.mx.cmds.map (MCmd.modKind c.ord (MKind.withA (Claim.readNow s a pa x))) ∧
        ∀ u, u ≠ sid → w.strand u = s.strand u) ∧
      ((∀ e ∈ members, e.2.2 = true) →
        ∀ u z r d' g cl ra b, (s.strand u).mx.cmds.head? = some z → z.kind = .mma r d' g cl ra b → (∃ e ∈ members, e.1 = u ∧ e.2.1 = z.ord) →
          (w.strand u).mx.cmds.head? = some { z with kind := .mma r d' g cl (if u = sid then Claim.readNow s a pa ra else ra) (Claim.readNow s a pb y) }) := by
  intro a members
  have hexec := commit_mma_reads (pa := pa) (pb := pb) (mxHead_iff.2 hturn) hkind (mt read_and_iff.1 hunread)
  have hmembers : bMembers s sid c (some gid) = if members.all (·.2.2) then some members else none := rfl
  by_cases hall : members.all (·.2.2) = true
  · rw [hmembers, if_pos hall] at hexec
    refine ⟨_, hexec, (mem_readB _ _).trans mem_readA, fun ⟨e, he, hwaits⟩ => ?_, fun _ u z r d' g cl ra b hz hzk hmem => head_read_gang hturn.1 hkind hz hzk hmem⟩
    exact absurd (List.all_eq_true.1 hall e he) (by simp [hwaits])
  · rw [hmembers, if_neg hall] at hexec
    refine ⟨_, hexec, mem_readA, fun _ => ⟨(cmds_readA sid).trans (if_pos rfl), fun u hu => strand_readA_ne hu⟩, fun hready => ?_⟩
    exact absurd (List.all_eq_true.2 hready) hall

/-! ## MRD (R215) -/

/-- The returns of a strand once an MRD has its row: the values of its lanes are known (R215). -/
def rowRead (ord : Nat) (value : Nat → W64) (rets : List Ret) : List Ret :=
  rets.map (fun r => if r.ord = ord then { r with units := r.units.map (fun x => { x with val := some (value x.lane) }) } else r)

/-- An accumulator element in 64 bits. -/
theorem accRead_extended (s : State) (c b i n : Nat) :
    (accRead s c b i n).zeroExtend 64 = BitVec.ofNat 64 (Claim.little (s.mem.readN (accKey c b (256 * i + 4 * n)) 4)) := by
  have hlt := ofBytes_lt (s.mem.readN (accKey c b (256 * i + 4 * n)) 4)
  rw [Memory.readN_length] at hlt
  rw [accRead, little_eq_ofBytes]
  refine BitVec.eq_of_toNat_eq ?_
  rw [BitVec.zeroExtend, BitVec.toNat_setWidth, BitVec.toNat_ofNat, BitVec.toNat_ofNat, Nat.mod_eq_of_lt (a := ofBytes _) (by omega)]

/-- An MRD at its turn gives its row and leaves its channel (R215). -/
theorem mrd_reads {sid row : Nat} {s : State} {c : MCmd} {ty : Ty} {f : W32} (hturn : Claim.MxTurn s sid c) (hkind : c.kind = .mrd row ty f) :
    let a := s.strand sid
    let value (l : Nat) : W64 := convert (if fFMT f = 2 then .f32 else .s32) ty (fRM f) (fFZ f)
      (BitVec.ofNat 64 (Claim.little (s.mem.readN (accKey a.core c.bank (256 * row + 4 * l)) 4)))
    ∃ w, exec (.mrdExecute sid) s = .next (wakeAll w) ∧ w.mem = s.mem ∧ (∀ u, u ≠ sid → w.strand u = s.strand u) ∧
      (w.strand sid).mx.cmds = a.mx.cmds.filter (fun x => decide (x.ord ≠ c.ord)) ∧ (w.strand sid).rets = rowRead c.ord value a.rets := by
  intro a value
  have hexec : exec (.mrdExecute sid) s = .next (wakeAll (mxDone (s.setStrand sid { a with rets := rowRead c.ord value a.rets }) sid c.ord)) := by
    change execMrdExecute sid s = _
    simp only [execMrdExecute, mxHead_iff.2 hturn, hkind, accRead_extended]
    rfl
  have hstrand : (s.setStrand sid { a with rets := rowRead c.ord value a.rets }).strand sid = { a with rets := rowRead c.ord value a.rets } :=
    State.strand_setStrand_same ..
  refine ⟨_, hexec, rfl, fun u hu => ?_, ?_, ?_⟩
  · rw [strand_mxDone_ne _ _ _ hu, State.strand_setStrand_ne _ _ _ _ hu]
  · rw [cmds_mxDone, hstrand]
  · rw [strand_mxDone_same, hstrand]

end Sys2Proof.Machine
end

section
namespace Sys2Proof.Machine

/-! ## MST (R216, R217) -/

section
variable {s : State} {sid : Nat} {c : MCmd} {sp : Space} {base rs wa aa done n : Nat} {ty : Ty} {f : W32} {tw ta : Pieces} {pw pa : List Nat}

/-- An MST reads the pieces named of its scale tiles, while any is unread. -/
theorem mst_reads (hturn : Claim.MxTurn s sid c) (hkind : c.kind = .mst sp base rs ty f wa aa tw ta done) (hunread : ¬(Claim.AllRead tw ∧ Claim.AllRead ta)) :
    ∃ w, exec (.mstWrite ⟨sid, pw, pa, n⟩) s = .next (wakeAll w) ∧ w.mem = s.mem ∧ w.cores = s.cores ∧ (∀ u, u ≠ sid → w.strand u = s.strand u) ∧
      (w.strand sid).mx.cmds = (s.strand sid).mx.cmds.map
        (MCmd.modKind c.ord (MKind.withScales (Claim.readNow s (s.strand sid) pw tw) (Claim.readNow s (s.strand sid) pa ta))) := by
  have hread : (tw.read && ta.read) = false := Bool.eq_false_iff.2 (mt read_and_iff.1 hunread)
  have hexec : exec (.mstWrite ⟨sid, pw, pa, n⟩) s = .next (wakeAll
      ((modMx s sid c.ord (MKind.withScales (readPieces s (s.strand sid).core pw tw) (readPieces s (s.strand sid).core pa ta))).carryKeys
        (s.strand sid).part (s.strand sid).core c.cls (pieceKeys pw tw ++ pieceKeys pa ta))) := by
    change execMstWrite _ s = _
    simp only [execMstWrite, mxHead_iff.2 hturn, hkind, hread]
    rfl
  refine ⟨_, hexec, State.carryKeys_mem .., carryKeys_cores, fun u hu => ?_, ?_⟩
  · rw [strand_carryKeys, strand_modMx_ne _ _ _ _ hu]
  · rw [strand_carryKeys, cmds_modMx_same, readPieces_eq_readNow, readPieces_eq_readNow]

end

/-! ### What an engine sends -/

/-- What a core sends in two parts is what it sends at once. -/
theorem Core.send_send (c : Core) (l m : List Sent) : (c.send l).send m = c.send (l ++ m) := by
  simp only [Core.send, List.zipIdx_append, List.map_append, List.append_assoc, List.length_append, Nat.add_assoc, Nat.zero_add]
  rw [List.zipIdx_eq_map_add (i := l.length), List.map_map]
  rfl

theorem Core.send_nil (c : Core) : c.send [] = c := by simp [Core.send]

/-- A write of an engine on its way. -/
def engineSent (sid : Nat) (e : SEntry) (key : Nat → Nat) (bytes : Nat → List Byte) (x : Nat) : Sent :=
  { sid := sid, entry := e, u := { unit := x, key := key x, op := .write (bytes x), off := 0 }, snap := false, num := 0, engine := true }

/-- The writes that an engine sends one by one stand in their order behind what its core had sent, and nothing else changes (R183, R216). -/
theorem foldl_engineSend {sid : Nat} (e : SEntry) (key : Nat → Nat) (bytes : Nat → List Byte) (l : List Nat) (s : State) (htwin : (s.strand sid).twin = none) :
    let w := l.foldl (fun t x => engineSend t sid e x (key x) (bytes x)) s
    w = { s with cores := w.cores } ∧ w.core (s.strand sid).core = (s.core (s.strand sid).core).send (l.map (engineSent sid e key bytes)) := by
  induction l generalizing s with
  | nil => exact ⟨rfl, (Core.send_nil _).symm⟩
  | cons x r ih =>
    have hstep : engineSend s sid e x (key x) (bytes x) =
        s.setCore (s.strand sid).core ((s.core (s.strand sid).core).send [engineSent sid e key bytes x]) := by
      simp only [engineSend, htwin]
      rfl
    rw [List.foldl_cons, hstep]
    obtain ⟨hother, hcore⟩ := ih (s.setCore (s.strand sid).core ((s.core (s.strand sid).core).send [engineSent sid e key bytes x])) htwin
    refine ⟨hother, hcore.trans ?_⟩
    change ((s.setCore _ _).core (s.strand sid).core).send _ = _
    rw [State.core_setCore_same, Core.send_send]
    rfl

/-! ### How far an MST goes, and when it leaves -/

/-- Whether the writes of an engine command are performed at a scope does not hang on what stands in its channel. -/
theorem engineDone_mxDone (s : State) (u ord ord' : Nat) (sc : Scope) : engineDone (mxDone s u ord') u ord sc = engineDone s u ord sc := by
  unfold engineDone
  rw [strand_mxDone_same]
  rfl

/-- A command that leaves its channel takes with it what was changed in it. -/
theorem filter_modKind (ord : Nat) (f : MKind → MKind) (l : List MCmd) :
    (l.map (MCmd.modKind ord f)).filter (fun x => decide (x.ord ≠ ord)) = l.filter (fun x => decide (x.ord ≠ ord)) := by
  induction l with
  | nil => rfl
  | cons c r ih =>
    rw [List.map_cons]
    by_cases h : c.ord = ord <;> simpa [MCmd.modKind, h] using ih

theorem mstSettle_head {v : State} {u ord n wa aa base rs : Nat} {z : MCmd} {sp : Space} {ty : Ty} {f : W32} {tw ta : Pieces}
    (hhead : (v.strand u).mx.cmds.head? = some z) (hord : z.ord = ord) (hkind : z.kind = .mst sp base rs ty f wa aa tw ta n) :
    mstSettle v u ord = if n = 4096 ∧ engineDone v u ord z.sc = true then mxDone v u ord else v := by
  obtain ⟨r, hcmds⟩ := List.head?_eq_some_iff.1 hhead
  simp only [mstSettle, hcmds, List.find?_cons, hord, decide_true, hkind]

/-- The last element of a release waits for the others and for all that the release covers (R204, R257). -/
def mstStop (s : State) (sid : Nat) (c : MCmd) (done : Nat) : Nat :=
  if Ordn.isRel c.o && !(decide (done = 4095) && engineDone s sid c.ord c.sc && engineReleases s sid c.ord) then 4095 else 4096

section
variable {s : State} {sid : Nat} {c : MCmd} {done : Nat}

/-- The last element of a release may be sent. -/
theorem mstLast_iff : (decide (done = 4095) && engineDone s sid c.ord c.sc && engineReleases s sid c.ord) = true ↔
    done = 4095 ∧ engineDone s sid c.ord c.sc = true ∧ Claim.ReleaseMay s sid c.ord := by
  rw [Bool.and_eq_true, Bool.and_eq_true, engineReleases_iff, decide_eq_true_eq, and_assoc]

theorem mstStop_all (h : c.o ≠ .rel ∧ c.o ≠ .ar ∨ done = 4095 ∧ engineDone s sid c.ord c.sc = true ∧ Claim.ReleaseMay s sid c.ord) :
    mstStop s sid c done = 4096 := by
  refine if_neg fun hwaits => ?_
  obtain ⟨hrel, hlast⟩ := Bool.and_eq_true_iff.1 hwaits
  rcases h with ⟨hr, ha⟩ | h
  · exact (isRel_iff.1 hrel).elim hr ha
  · rw [mstLast_iff.2 h] at hlast
    exact absurd hlast (by decide)

theorem mstStop_waits (hrel : c.o = .rel ∨ c.o = .ar)
    (h : ¬(done = 4095 ∧ engineDone s sid c.ord c.sc = true ∧ Claim.ReleaseMay s sid c.ord)) : mstStop s sid c done = 4095 := by
  refine if_pos ?_
  rw [isRel_iff.2 hrel, Bool.eq_false_iff.2 (mt mstLast_iff.1 h)]
  rfl

end

/-! ### The elements sent -/

section
variable (s : State) (a : Strand) (bank : Nat) (f : W32) (tw ta : Pieces)

/-- An element of an MST, scaled as F says (R216). -/
def mstValue (i n : Nat) : FVal :=
  let x := accValue (fFMT f) (BitVec.ofNat 32 (Claim.little (s.mem.readN (accKey a.core bank (256 * i + 4 * n)) 4)))
  let x := if 1 ≤ fSCL f then fvMul x (scaleEntry (Claim.bytesOf tw).toArray n) else x
  if fSCL f = 2 then fvMul x (scaleEntry (Claim.bytesOf ta).toArray i) else x

/-- The bytes that an element takes in memory. -/
def mstElemBytes (ty : Ty) (x : Nat) : List Byte := toBytes ty.bytes (storeConv ty (fRM f) (fFZ f) (mstValue s a bank f tw ta (x / 64) (x % 64))).toNat

/-- Where an element goes (R216). -/
def mstKey (sp : Space) (base rs : Nat) (ty : Ty) (x : Nat) : Nat := nearKey s a sp (base + x / 64 * rs + ty.bytes * (x % 64))

theorem mstElem_eq (ty : Ty) (x : Nat) :
    mstElem s a bank ty f (pieceBytes tw).toArray (pieceBytes ta).toArray (x / 64) (x % 64) = mstElemBytes s a bank f tw ta ty x := by
  simp only [mstElem, accRead, mstElemBytes, mstValue, little_eq_ofBytes]
  rfl

end

/-- The state with the elements of an MST from `done` to `upto` sent. -/
def State.sendMst (s : State) (sid : Nat) (c : MCmd) (sp : Space) (base rs : Nat) (ty : Ty) (f : W32) (tw ta : Pieces) (done upto : Nat) : State :=
  (List.range' done (upto - done)).foldl (fun t x =>
    engineSend t sid (mstEntry c) x (mstKey s (s.strand sid) sp base rs ty x) (mstElemBytes s (s.strand sid) c.bank f tw ta ty x)) s

section
variable {s : State} {sid : Nat} {c : MCmd} {sp : Space} {base rs wa aa done n upto : Nat} {ty : Ty} {f : W32} {tw ta : Pieces} {pw pa : List Nat}

theorem sendMst_eq (htwin : (s.strand sid).twin = none) :
    s.sendMst sid c sp base rs ty f tw ta done upto = { s with cores := (s.sendMst sid c sp base rs ty f tw ta done upto).cores } :=
  (foldl_engineSend (mstEntry c) _ _ (List.range' done (upto - done)) s htwin).1

theorem strand_sendMst (htwin : (s.strand sid).twin = none) (u : Nat) : (s.sendMst sid c sp base rs ty f tw ta done upto).strand u = s.strand u := by
  rw [sendMst_eq htwin]
  rfl

theorem mem_sendMst (htwin : (s.strand sid).twin = none) : (s.sendMst sid c sp base rs ty f tw ta done upto).mem = s.mem := by
  rw [sendMst_eq htwin]

theorem sent_sendMst (htwin : (s.strand sid).twin = none) :
    let a := s.strand sid
    ((s.sendMst sid c sp base rs ty f tw ta done upto).core a.core).sent = (s.core a.core).sent ++ (List.range' done (upto - done)).zipIdx.map (fun e =>
      { engineSent sid (mstEntry c) (mstKey s a sp base rs ty) (mstElemBytes s a c.bank f tw ta ty) e.1 with num := (s.core a.core).leaves + e.2 }) := by
  refine (congrArg Core.sent (foldl_engineSend (mstEntry c) _ _ (List.range' done (upto - done)) s htwin).2).trans ?_
  rw [Core.send, List.zipIdx_map, List.map_map]
  rfl

theorem exec_mstWrite (hturn : Claim.MxTurn s sid c) (hkind : c.kind = .mst sp base rs ty f wa aa tw ta done) (htwin : (s.strand sid).twin = none)
    (hread : Claim.AllRead tw ∧ Claim.AllRead ta) :
    let upto := max done (min (done + n) (mstStop s sid c done))
    let v := modMx (s.sendMst sid c sp base rs ty f tw ta done upto) sid c.ord (MKind.withDone upto)
    exec (.mstWrite ⟨sid, pw, pa, n⟩) s = .next (wakeAll (if upto = 4096 ∧ engineDone v sid c.ord c.sc = true then mxDone v sid c.ord else v)) := by
  intro upto v
  have hhead : (v.strand sid).mx.cmds.head? = some (c.modKind c.ord (MKind.withDone upto)) := by
    rw [cmds_modMx_same, strand_sendMst htwin, List.head?_map, hturn.1, Option.map_some]
  rw [MCmd.modKind, if_pos rfl, hkind] at hhead
  rw [← mstSettle_head hhead rfl rfl]
  change execMstWrite _ s = _
  simp only [execMstWrite, mxHead_iff.2 hturn, hkind, read_and_iff.2 hread, mstElem_eq]
  rfl

/-- An MST with its scale tiles read sends its next elements in their order, and leaves its channel once all are performed (R216, R217). -/
theorem mst_sends (hturn : Claim.MxTurn s sid c) (hkind : c.kind = .mst sp base rs ty f wa aa tw ta done) (htwin : (s.strand sid).twin = none)
    (hread : Claim.AllRead tw ∧ Claim.AllRead ta) :
    let a := s.strand sid
    let upto := max done (min (done + n) (mstStop s sid c done))
    ∃ w, exec (.mstWrite ⟨sid, pw, pa, n⟩) s = .next (wakeAll w) ∧ w.mem = s.mem ∧ (∀ u, u ≠ sid → w.strand u = s.strand u) ∧
      (w.core a.core).sent = (s.core a.core).sent ++ (List.range' done (upto - done)).zipIdx.map (fun e =>
        { engineSent sid (mstEntry c) (mstKey s a sp base rs ty) (mstElemBytes s a c.bank f tw ta ty) e.1 with num := (s.core a.core).leaves + e.2 }) ∧
      if upto = 4096 ∧ engineDone w sid c.ord c.sc = true then (w.strand sid).mx.cmds = a.mx.cmds.filter (fun x => decide (x.ord ≠ c.ord))
        else (w.strand sid).mx.cmds = a.mx.cmds.map (MCmd.modKind c.ord (MKind.withDone upto)) := by
  intro a upto
  have hexec := exec_mstWrite (n := n) (pw := pw) (pa := pa) hturn hkind htwin hread
  have hne (u : Nat) (hu : u ≠ sid) : (modMx (s.sendMst sid c sp base rs ty f tw ta done upto) sid c.ord (MKind.withDone upto)).strand u = s.strand u :=
    (strand_modMx_ne _ _ _ _ hu).trans (strand_sendMst htwin u)
  have hcmds : ((modMx (s.sendMst sid c sp base rs ty f tw ta done upto) sid c.ord (MKind.withDone upto)).strand sid).mx.cmds =
      a.mx.cmds.map (MCmd.modKind c.ord (MKind.withDone upto)) := by rw [cmds_modMx_same, strand_sendMst htwin]
  refine ⟨_, hexec, ?_⟩
  split
  next hdone =>
    refine ⟨mem_sendMst htwin, fun u hu => (strand_mxDone_ne _ _ _ hu).trans (hne u hu), sent_sendMst htwin, ?_⟩
    rw [if_pos ⟨hdone.1, (engineDone_mxDone ..).trans hdone.2⟩, cmds_mxDone, hcmds, filter_modKind]
  next hdone =>
    refine ⟨mem_sendMst htwin, hne, sent_sendMst htwin, hcmds⟩

end

end Sys2Proof.Machine
end

section
namespace Sys2Proof.Machine

/-! # The commits of matrix commands (O38) -/

/-- Settles O38: the turn of a command is the model's `mxHead`, and each kind of command at its turn does what the lemmas above say of it. -/
theorem matrixCommits : Obligations.MatrixCommits := by
  unfold Obligations.MatrixCommits
  refine ⟨fun s sid c => mxHead_iff, ?commit, ?dense, ?sparse, ?bf16, fun sid s c row ty f => mrd_reads, ?mst⟩
  case commit =>
    intro sid s c pa pb hturn
    have hhead := mxHead_iff.2 hturn
    dsimp only
    split
    next hkind =>
      rw [commit_mzero hhead hkind]
      exact ⟨fun h => if_neg (mt mayCommit_iff.1 h), fun h => ⟨_, if_pos (mayCommit_iff.2 h), cmds_mxDone .., Memory.read_clear _ _ _⟩⟩
    next m hkind => exact ⟨_, commit_mfree hhead hkind, cmds_mxDone .., rfl⟩
    next rows d gang cl x y hkind =>
      refine ⟨?_, ?_, ?_, ?_⟩
      · rintro rfl
        exact commit_mma_held hhead hkind
      · rintro rfl hx hy hfree
        rw [commit_mma_read hhead hkind (read_and_iff.2 ⟨hx, hy⟩), if_neg (mt mayCommit_iff.1 hfree)]
      · rintro rfl hx hy hfree
        rw [commit_mma_read hhead hkind (read_and_iff.2 ⟨hx, hy⟩), if_pos (mayCommit_iff.2 hfree)]
        exact ⟨_, rfl, cmds_mxDone .., mem_mmaCommit⟩
      · rintro rfl hunread
        cases gang with
        | none => exact ⟨_, commit_mma_reads hhead hkind (mt read_and_iff.1 hunread), (mem_readB _ _).trans mem_readA, cmds_read_alone⟩
        | some gid => exact mma_reads_gang hturn hkind hunread
    next => trivial
  case dense => exact fun d a b n acc hfmt hspn _ => mmaElem_integer hfmt fun kk => bpnDense_dense hspn kk n
  case sparse =>
    rintro d a b n acc hfmt hspn -
    refine mmaElem_integer hfmt fun kk => bpnDense_sparse ?_ (by omega) kk n
    rcases hspn with hspn | hspn <;> rw [hspn] <;> rfl
  case bf16 =>
    intro d a b n acc hfmt x y
    refine ⟨fun ⟨kk, hkk, hnan⟩ => mmaElem_of_nan hfmt hkk hnan, fun hfin => ⟨groupOf d a b n, fun g hg => groupOf_rounds hfin hg, mmaElem_bf16 hfmt⟩⟩
  case mst =>
    intro sid s c sp base rs ty f wa aa tw ta done pw pa n hturn hkind htwin
    exact ⟨mst_reads hturn hkind, fun hread => ⟨mstStop s sid c done, (mst_sends hturn hkind htwin hread).imp fun w hw => ⟨mstStop_all, mstStop_waits, hw⟩⟩⟩

end Sys2Proof.Machine
end

section
namespace Sys2Proof.Machine

/-! # The reset of a matrix engine (O39) -/

/-- A strand after the reset of the engine of core `c`: steps 2 to 4 of R219. -/
def Strand.afterEngineReset (s : State) (c : Nat) (t : Strand) : Strand :=
  let dropped := if decide (t.core = c) && t.life.onCore && decide ((s.part t.part).st = .live) then { t.zeroMrd with mx := t.mx.discard } else t
  if t.life.live && decide ((s.frame t.frame).heldOn c ≠ 0) && decide ((s.part t.part).st = .live) then
    { dropped with mx := { dropped.mx with rst := true } } else dropped

/-- A frame after it: in a LIVE partition its latch on that core is closed (R219). -/
def Frame.afterEngineReset (s : State) (c : Nat) (f : Frame) : Frame :=
  if (s.part f.part).st = .live then { f with latch := Tbl.set Latch.reset f.latch c Latch.reset } else f

/-- The entry of the partition that a core belongs to. -/
def State.ownerOf (s : State) (c : Nat) : Option (Nat × Part) :=
  s.parts.find? (fun e => decide (e.2.st ≠ .free) && (coresOf e.2.rcd.clm).contains c)

/-- The state after the reset of the engine of core `c`, before anyone is taken up. -/
def State.afterEngineReset (s : State) (c : Nat) : State :=
  { s with
    mem := s.mem.clear (accKey c 0 0) 262144
    strands := s.strands.map fun e => (e.1, e.2.afterEngineReset s c)
    frames := s.frames.map fun e => (e.1, e.2.afterEngineReset s c)
    parts := match s.ownerOf c with
      | some p => Tbl.set Part.free s.parts p.1 { s.part p.1 with errs := { (s.part p.1).errs with engreset := satAdd (s.part p.1).errs.engreset 1 } }
      | none => s.parts
    errs := match s.ownerOf c with
      | some _ => s.errs
      | none => { s.errs with engreset := satAdd s.errs.engreset 1 }
    testing := if s.testing.contains (HwUnit.engine c) then s.testing else s.testing ++ [HwUnit.engine c] }

section
variable (s : State) (c u : Nat)

theorem resetEngine_eq : resetEngine s c = wakeAll (s.afterEngineReset c) := by
  unfold resetEngine State.afterEngineReset
  change wakeAll _ = wakeAll _
  rw [← State.ownerOf]
  cases s.ownerOf c <;> rfl

theorem strand_afterEngineReset : (s.afterEngineReset c).strand u = (s.strand u).afterEngineReset s c := by
  refine Tbl.get_map Strand.blank _ ?_ s.strands u
  have hdropped : ({ Strand.blank.zeroMrd with mx := Strand.blank.mx.discard } : Strand) = Strand.blank := rfl
  simp only [Strand.afterEngineReset, hdropped, ite_self]
  rfl

theorem frame_afterEngineReset (f : Nat) : (s.afterEngineReset c).frame f = (s.frame f).afterEngineReset s c :=
  Tbl.get_map Frame.blank (Frame.afterEngineReset s c) (ite_self _) s.frames f

end

/-- No MRD is left to return after the zeros have been delivered. -/
theorem zeroMrd_rets {t : Strand} {r : Ret} (h : r ∈ t.zeroMrd.rets) : r.kind ≠ .mrd := by
  simpa using (List.mem_filter.1 h).2

/-- A strand on the core of the engine has neither a matrix command nor an MRD that returns. -/
theorem afterEngineReset_drops {s : State} {c : Nat} {t : Strand} (hcore : t.core = c) (hlife : t.life.onCore = true) (hpart : (s.part t.part).st = .live) :
    (t.afterEngineReset s c).mx.cmds = [] ∧ ∀ r ∈ (t.afterEngineReset s c).rets, r.kind ≠ .mrd := by
  unfold Strand.afterEngineReset
  simp only [hcore, hlife, hpart, decide_true, Bool.and_self, if_true]
  split <;> exact ⟨rfl, fun r => zeroMrd_rets⟩

/-- A live strand of a frame that holds banks there finds RST set. -/
theorem afterEngineReset_rst {s : State} {c : Nat} {t : Strand} (hlife : t.life.live = true) (hheld : (s.frame t.frame).heldOn c ≠ 0)
    (hpart : (s.part t.part).st = .live) : (t.afterEngineReset s c).mx.rst = true := by
  unfold Strand.afterEngineReset
  simp only [hlife, hpart, decide_eq_true hheld, decide_true, Bool.and_self, if_true]

/-- In a LIVE partition no frame has a latch left on the core. -/
theorem afterEngineReset_latch {s : State} {c : Nat} {f : Frame} (hpart : (s.part f.part).st = .live) :
    (f.afterEngineReset s c).latchOn c = Latch.reset := by
  rw [Frame.afterEngineReset, if_pos hpart]
  exact Tbl.get_set_same Latch.reset f.latch c Latch.reset

theorem testing_afterEngineReset (s : State) (c : Nat) : HwUnit.engine c ∈ (s.afterEngineReset c).testing := by
  unfold State.afterEngineReset
  dsimp only
  split
  next h => exact List.contains_iff_mem.1 h
  next => exact List.mem_append_right _ (List.mem_singleton.2 rfl)

/-- ENGRESET of the partition that owns the core counts the reset (R345). -/
theorem part_afterEngineReset {s : State} {c : Nat} {p : Nat × Part} (h : s.ownerOf c = some p) :
    ((s.afterEngineReset c).part p.1).errs = { (s.part p.1).errs with engreset := satAdd (s.part p.1).errs.engreset 1 } := by
  unfold State.afterEngineReset State.part
  dsimp only
  rw [h]
  exact congrArg Part.errs (Tbl.get_set_same _ _ _ _)

/-- Settles O39: both events reset the engine, and the reset is read off the state before anyone is taken up. -/
theorem engineResetClears : Obligations.EngineResetClears := by
  refine ⟨fun core s hpending => if_neg hpending, fun fn core s hmanages hcore => ?_, fun core s => ⟨_, resetEngine_eq s core, fun k => Memory.read_clear _ _ _ _,
    testing_afterEngineReset s core, ?_, ?_, fun f _ hpart => ?_, fun p => part_afterEngineReset⟩⟩
  · change execEngineReset fn core s = _
    rw [execEngineReset, if_neg (by simp [hmanages]), if_pos hcore]
  · rintro u _ rfl hcore hlife hpart
    rw [strand_afterEngineReset]
    exact afterEngineReset_drops hcore hlife hpart
  · rintro u _ rfl hlife hheld hpart
    rw [strand_afterEngineReset]
    exact afterEngineReset_rst hlife hheld hpart
  · rw [frame_afterEngineReset]
    exact afterEngineReset_latch hpart

end Sys2Proof.Machine
end
